-- ==== Sys2Proof/Word.lean ====
section
/-! DEFINITION. The word types of the model (R1, R2) and the shape of a sparse register file or memory. -/

namespace Sys2Proof

/-- A byte of storage. -/
abbrev Byte := BitVec 8
/-- A 32-bit lane or element. -/
abbrev W32 := BitVec 32
/-- A 64-bit register, doubleword or instruction word. -/
abbrev W64 := BitVec 64

/-- Values by index, strictly rising in the index; an index that is not listed holds the reset value. -/
abbrev Sparse (α : Type) := List (Nat × α)

/-- A tile register or accumulator tile: its nonzero elements by element number (R31). -/
abbrev Tile := Sparse W32

/-- Storage by key (see `Space`), byte by byte. -/
abbrev Memory := Sparse Byte

end Sys2Proof
end

