-- ==== Sys2Proof/Machine/Bits.lean ====
section
/-! DEFINITION. Bit fields, sign extension, byte order and sparse files: the helpers of R2, R5 and R6. -/

namespace Sys2Proof.Machine

/-! ## Sparse files -/

/-- The value at index `i`; `d` where the index is not listed. -/
def spGet {α : Type} (d : α) : Sparse α → Nat → α
  | [], _ => d
  | (k, v) :: m, i => if i = k then v else spGet d m i

/-- Write an entry that stays listed whatever its value. -/
def spSet {α : Type} : Sparse α → Nat → α → Sparse α
  | [], i, v => [(i, v)]
  | (k, w) :: m, i, v =>
    if i < k then (i, v) :: (k, w) :: m
    else if i = k then (i, v) :: m
    else (k, w) :: spSet m i v

/-- The entry at `i`, if it is listed. -/
def spFind {α : Type} (m : Sparse α) (i : Nat) : Option α :=
  (m.find? (fun p => p.1 == i)).map (·.2)

/-- The file without index `i`. -/
def spDel {α : Type} (m : Sparse α) (i : Nat) : Sparse α :=
  m.filter (fun p => p.1 != i)

/-- Write in canonical form: indexes strictly rising, no entry equal to `d`. -/
def spPut {α : Type} [DecidableEq α] (d : α) (m : Sparse α) (i : Nat) (v : α) : Sparse α :=
  if v = d then spDel m i else spSet m i v

/-- The tile of `n` elements whose element `i` is `f i`. -/
def tileOf (n : Nat) (f : Nat → W32) : Tile :=
  (List.range n).filterMap (fun i => let v := f i; if v = 0 then none else some (i, v))

/-- Element `i` of a tile. -/
def lane (t : Tile) (i : Nat) : W32 := spGet 0 t i

/-! ## Bit fields -/

/-- Bits `[lo+n-1 : lo]` of a number, as an `n`-bit field. -/
def fld (w lo n : Nat) : BitVec n := BitVec.ofNat n (w / 2 ^ lo)

/-- The same field as a number. -/
def fldN (w lo n : Nat) : Nat := w / 2 ^ lo % 2 ^ n

/-- Field `[lo+n-1 : lo]` of a bit vector, as a number. -/
def bits {m : Nat} (v : BitVec m) (lo n : Nat) : Nat := fldN v.toNat lo n

/-- Field `[lo+n-1 : lo]` of a bit vector. -/
def sub {m : Nat} (v : BitVec m) (lo n : Nat) : BitVec n := fld v.toNat lo n

/-- `v` with field `[lo+n-1 : lo]` replaced by the low bits of `x`. -/
def putBits {m : Nat} (v : BitVec m) (lo n x : Nat) : BitVec m :=
  BitVec.ofNat m (v.toNat - bits v lo n * 2 ^ lo + x % 2 ^ n * 2 ^ lo)

/-- `SignExtend(v, n)` of R6. -/
def sx (v n : Nat) : Int :=
  let w := v % 2 ^ n
  if w < 2 ^ (n - 1) then w else (w : Int) - 2 ^ n

/-- The low `n` bits of an exact integer (R5, R6). -/
def wrap (n : Nat) (v : Int) : Nat := (v % (2 ^ n : Int)).toNat

/-- `Ceil(a / b)` of R6. -/
def ceilDiv (a b : Nat) : Nat := (a + b - 1) / b

/-- `Clamp(v, lo, hi)` of R6. -/
def clamp (v lo hi : Int) : Int := min (max v lo) hi

/-- Number of set bits among the low `n`. -/
def popcount (v : Nat) : Nat → Nat
  | 0 => 0
  | n + 1 => (if v.testBit n then 1 else 0) + popcount v n

/-- `RotateLeft64(v, s)` of R6. -/
def rotl64 (v : W64) (s : Nat) : W64 := v.rotateLeft (s % 64)

/-- Number of leading zero bits of a 64-bit value. -/
def clz64 (v : W64) : Nat := if v = 0 then 64 else 63 - v.toNat.log2

/-! ## Byte order (R2): the byte at the lowest address holds bits [7:0]. -/

/-- The number that a list of bytes holds. -/
def ofBytes : List Byte → Nat
  | [] => 0
  | b :: bs => b.toNat + 256 * ofBytes bs

/-- The low `n` bytes of a number. -/
def toBytes : Nat → Nat → List Byte
  | 0, _ => []
  | n + 1, v => BitVec.ofNat 8 v :: toBytes n (v / 256)

/-! ## Lists -/

/-- Replace the first element that `p` picks. -/
def replaceFirst {α : Type} (p : α → Bool) (f : α → α) : List α → List α
  | [] => []
  | a :: l => if p a then f a :: l else a :: replaceFirst p f l

/-- The naturals from `a`, `n` of them. -/
def upto (a n : Nat) : List Nat := (List.range n).map (a + ·)

/-- A file of `n` entries with `x` at position `i`, if there is such a position; `d` stands for an entry that the list lacks. -/
def putAt {α : Type} (n : Nat) (d : α) (l : List α) (i : Nat) (x : α) : List α :=
  (upto 0 n).map (fun j => if j = i then x else l.getD j d)

/-- The operations of `AMO` and `XATOM` on a size of `n` bytes (R92). -/
def atomic (op n old x : Nat) : Nat :=
  let m := 2 ^ (8 * n)
  let x := x % m
  let sgn (v : Nat) : Int := sx v (8 * n)
  match op with
  | 0 => (old + x) % m
  | 1 => old &&& x
  | 2 => old ||| x
  | 3 => old ^^^ x
  | 4 => if sgn x < sgn old then x else old
  | 5 => if sgn old < sgn x then x else old
  | 6 => if x < old then x else old
  | 7 => if old < x then x else old
  | _ => x

end Sys2Proof.Machine
end

