-- ==== Sys2Proof/Machine/Num.lean ====
section
/-! DEFINITION. Number formats to the bit (R214 to R225): exact values, decoding, rounding, encoding, flags, blocks and E2M1X. -/

namespace Sys2Proof.Machine

/-- An exact value: NaN (signalling or quiet), an infinity, or `(-1)^neg · m · 2^e`. A zero keeps its sign. A quotient, root or function value that is no such number is held with enough bits and an odd last bit, so that it lies strictly on the same side of every rounding boundary as the exact value. -/
inductive Num where
  | nan (signalling : Bool)
  | inf (neg : Bool)
  | fin (neg : Bool) (m : Nat) (e : Int)
  deriving DecidableEq, Repr, Inhabited

/-- Flags of one operation, ordered as in FFLAGS (R25): bit 0 invalid, 1 overflow, 2 underflow, 3 inexact, 4 AMAXNAN. -/
abbrev Fl := BitVec 5
def flInvalid : Fl := 1
def flOverflow : Fl := 2
def flUnderflow : Fl := 4
def flInexact : Fl := 8
def flAmaxNan : Fl := 16

/-- The rounding modes of R131. -/
inductive Mode where
  | rne | rtz | rup | rdn | sr
  deriving DecidableEq, Repr, Inhabited

/-- R131: values 5 to 7 are refused where a mode is decoded; they round as RNE here and never occur. -/
def modeOf (b : Nat) : Mode :=
  match b with
  | 1 => .rtz
  | 2 => .rup
  | 3 => .rdn
  | 4 => .sr
  | _ => .rne

/-- A floating format of R215: exponent and fraction bits, bias, position of the fraction's low bit, largest finite value `maxM · 2^maxE`, and what its specials are. -/
structure FFmt where
  ebits : Nat
  fbits : Nat
  bias : Int
  low : Nat
  maxM : Nat
  maxE : Int
  hasInf : Bool
  /-- 0 none, 1 exponent all ones with nonzero fraction, 2 the single E4M3 code -/
  nanKind : Nat
  /-- the canonical NaN of R218; 0 where the format has none -/
  canon : Nat
  deriving DecidableEq, Repr, Inhabited

def fmtFP32 : FFmt := ⟨8, 23, 127, 0, 2 ^ 24 - 1, 104, true, 1, 0x7FC00000⟩
def fmtBF16 : FFmt := ⟨8, 7, 127, 0, 255, 120, true, 1, 0x7FC0⟩
def fmtFP16 : FFmt := ⟨5, 10, 15, 0, 2047, 5, true, 1, 0x7E00⟩
def fmtE4M3 : FFmt := ⟨4, 3, 7, 0, 14, 5, false, 2, 0x7F⟩
def fmtE5M2 : FFmt := ⟨5, 2, 15, 0, 7, 13, true, 1, 0x7E⟩
def fmtE3M2 : FFmt := ⟨3, 2, 3, 0, 7, 2, false, 0, 0⟩
def fmtE2M3 : FFmt := ⟨2, 3, 1, 0, 15, -1, false, 0, 0⟩
def fmtE2M1 : FFmt := ⟨2, 1, 1, 0, 3, 1, false, 0, 0⟩
def fmtF19 : FFmt := ⟨8, 10, 127, 13, 2047, 117, true, 1, 0x7FC00000⟩

/-- What the elements of a format code are (R215): floating, integer (signed, width), or MX-INT8. -/
inductive Elem where
  | flt (f : FFmt)
  | int (signed : Bool) (width : Nat)
  | mxInt8
  deriving DecidableEq, Repr, Inhabited

/-- Element kind of a format code; codes 0x14 to 0x1F are reserved and refused before use. -/
def elemOf (fmt : Nat) : Elem :=
  match fmt with
  | 0x00 => .flt fmtFP32
  | 0x01 => .flt fmtBF16
  | 0x02 => .flt fmtFP16
  | 0x03 => .flt fmtE4M3
  | 0x04 => .flt fmtE5M2
  | 0x05 => .flt fmtE3M2
  | 0x06 => .flt fmtE2M3
  | 0x07 => .flt fmtE2M1
  | 0x08 => .int true 8
  | 0x09 => .int false 8
  | 0x0A => .int true 4
  | 0x0B => .int false 4
  | 0x0C => .flt fmtE4M3
  | 0x0D => .flt fmtE5M2
  | 0x0E => .flt fmtE3M2
  | 0x0F => .flt fmtE2M3
  | 0x10 => .flt fmtE2M1
  | 0x11 => .flt fmtE2M1
  | 0x12 => .mxInt8
  | _ => .flt fmtF19

/-- Container bits (R177, R215). -/
def contBits (fmt : Nat) : Nat :=
  match fmt with
  | 0x00 => 32
  | 0x01 => 16
  | 0x02 => 16
  | 0x07 => 4
  | 0x0A => 4
  | 0x0B => 4
  | 0x10 => 4
  | 0x11 => 4
  | 0x13 => 32
  | _ => 8

/-- The block formats 0x0C to 0x12 (R215). -/
def isBlock (fmt : Nat) : Bool := 0x0C ≤ fmt && fmt ≤ 0x12
/-- INT8, UINT8, INT4, UINT4: the integer class (R177). -/
def isIntFmt (fmt : Nat) : Bool := 0x08 ≤ fmt && fmt ≤ 0x0B
/-- Formats for which NONSAT is refused (R221): FP32, BF16, FP16, F19 and the integers. -/
def noNonsat (fmt : Nat) : Bool := isIntFmt fmt || fmt == 0 || fmt == 1 || fmt == 2 || fmt == 0x13
/-- Bytes of scale per block: 1 for MX, 2 for E2M1X (R174). -/
def scaleBytes (fmt : Nat) : Nat := if fmt = 0x11 then 2 else 1

/-! ## Decoding (R217, R218) -/

def decodeF (f : FFmt) (code : Nat) : Num :=
  let c := code / 2 ^ f.low
  let fr := c % 2 ^ f.fbits
  let e := c / 2 ^ f.fbits % 2 ^ f.ebits
  let s := (c / 2 ^ (f.fbits + f.ebits)) % 2 == 1
  if f.nanKind == 2 && e == 15 && fr == 7 then .nan false
  else if f.nanKind == 1 && e == 2 ^ f.ebits - 1 && fr != 0 then .nan (fr / 2 ^ (f.fbits - 1) == 0)
  else if f.hasInf && e == 2 ^ f.ebits - 1 && fr == 0 then .inf s
  else if e == 0 then .fin s fr (1 - f.bias - f.fbits)
  else .fin s (2 ^ f.fbits + fr) (e - f.bias - f.fbits)

/-- An exact integer as a value; zero is +0. -/
def numOfInt (v : Int) : Num := .fin (v < 0) v.natAbs 0

/-- `DecodeFmt(code, fmt)` of R217, without a block scale. -/
def decodeFmt (fmt code : Nat) : Num :=
  match elemOf fmt with
  | .flt f => decodeF f code
  | .int sg w => numOfInt (if sg then sx code w else (code % 2 ^ w : Nat))
  | .mxInt8 => match numOfInt (sx code 8) with
    | .fin s m _ => .fin s m (-6)
    | n => n

/-! ## Rounding (R219 to R221) -/

/-- `Sign`, magnitude and sign changes. -/
def Num.isNeg : Num → Bool
  | .nan _ => false
  | .inf s => s
  | .fin s _ _ => s

def Num.neg : Num → Num
  | .nan s => .nan s
  | .inf s => .inf (!s)
  | .fin s m e => .fin (!s) m e

def Num.abs : Num → Num
  | .nan s => .nan s
  | .inf _ => .inf false
  | .fin _ m e => .fin false m e

def Num.isNan : Num → Bool
  | .nan _ => true
  | _ => false

def Num.isSnan : Num → Bool
  | .nan true => true
  | _ => false

def Num.isInf : Num → Bool
  | .inf _ => true
  | _ => false

def Num.isZero : Num → Bool
  | .fin _ 0 _ => true
  | _ => false

/-- `Floor(Log2(|v|))` of a nonzero finite value. -/
def ilog2 (m : Nat) (e : Int) : Int := (m.log2 : Int) + e

/-- `m · 2^e` with exponent lowered to `e'` (for `e' ≤ e`). -/
def scaleTo (m : Nat) (e e' : Int) : Nat := m * 2 ^ (e - e').toNat

/-- Order of two magnitudes. -/
def magLt (m1 : Nat) (e1 : Int) (m2 : Nat) (e2 : Int) : Bool :=
  let e := min e1 e2
  scaleTo m1 e1 e < scaleTo m2 e2 e

/-- One grid rounding (R219) of `m · 2^e`, `m > 0`, to a multiple of `2^q`: the multiple and whether it is exact. -/
def grid (neg : Bool) (m : Nat) (e q : Int) (mode : Mode) (draw : Nat) : Nat × Bool :=
  if q ≤ e then (scaleTo m e q, true)
  else
    let s := (q - e).toNat
    let lo := m / 2 ^ s
    let r := m % 2 ^ s
    if r = 0 then (lo, true)
    else
      let up : Bool := match mode with
        | .rne => 2 * r > 2 ^ s || (2 * r == 2 ^ s && lo % 2 == 1)
        | .rtz => false
        | .rup => !neg
        | .rdn => neg
        | .sr => r * 2 ^ 32 / 2 ^ s > draw
      (if up then lo + 1 else lo, false)

/-- `Quantize(v, F, B, mode)` of R219: the rounded magnitude `k · 2^q` and whether it is exact. -/
def quantize (neg : Bool) (m : Nat) (e : Int) (f : FFmt) (mode : Mode) (draw : Nat) : Nat × Int × Bool :=
  let q := max (ilog2 m e) (1 - f.bias) - f.fbits
  let (k, ex) := grid neg m e q mode draw
  (k, q, ex)

/-- The sign bit of a format. -/
def signBit (f : FFmt) (neg : Bool) : Nat := if neg then 2 ^ (f.fbits + f.ebits + f.low) else 0

/-- Code of the finite value `k · 2^q` that lies on the format's grid. -/
def codeOf (f : FFmt) (neg : Bool) (k : Nat) (q : Int) : Nat :=
  let (k, q) := if k = 2 ^ (f.fbits + 1) then (2 ^ f.fbits, q + 1) else (k, q)
  let body :=
    if k < 2 ^ f.fbits then k
    else (q + f.fbits + f.bias).toNat * 2 ^ f.fbits + (k - 2 ^ f.fbits)
  signBit f neg + body * 2 ^ f.low

def infCode (f : FFmt) (neg : Bool) : Nat := signBit f neg + (2 ^ f.ebits - 1) * 2 ^ (f.fbits + f.low)
def maxCode (f : FFmt) (neg : Bool) : Nat :=
  codeOf f neg (scaleTo f.maxM f.maxE (ilog2 f.maxM f.maxE - f.fbits)) (ilog2 f.maxM f.maxE - f.fbits)

/-- R221: which code an overflowing value, or an infinite input, takes. IEEE-like rows give an infinity or the largest finite value by mode; E5M2, E4M3 and the others saturate unless NONSAT. -/
def overflowCode (f : FFmt) (ieee nonsat neg : Bool) (mode : Mode) : Nat :=
  if ieee || (f.nanKind == 1 && nonsat) then
    match mode with
    | .rne | .sr => infCode f neg
    | .rtz => maxCode f neg
    | .rup => if neg then maxCode f neg else infCode f neg
    | .rdn => if neg then infCode f neg else maxCode f neg
  else if f.nanKind == 2 && nonsat then f.canon
  else maxCode f neg

/-- The rows FP32, F19, BF16 and FP16 of R221. -/
def ieeeRow (f : FFmt) : Bool := f.hasInf && f.ebits + f.fbits > 7

/-- `EncodeFmt` for a floating format (R219, R221, R222): code and flags. `draw` is `SRDraw` of the value. -/
def encodeF (f : FFmt) (mode : Mode) (nonsat : Bool) (draw : Nat) (v : Num) : Nat × Fl :=
  match v with
  | .nan s =>
    if f.nanKind = 0 then (0, flInvalid) else (f.canon, if s then flInvalid else 0)
  | .inf neg =>
    if ieeeRow f || (f.nanKind == 1 && nonsat) then (infCode f neg, 0)
    else (overflowCode f false nonsat neg mode, 0)
  | .fin neg 0 _ => (signBit f neg, 0)
  | .fin neg m e =>
    let (k, q, ex) := quantize neg m e f mode draw
    if magLt f.maxM f.maxE k q then
      (overflowCode f (ieeeRow f) nonsat neg mode, flOverflow ||| flInexact)
    else
      let tiny := k != 0 && k < 2 ^ f.fbits && !ex
      (codeOf f neg k q, (if ex then 0 else flInexact) ||| (if tiny then flUnderflow else 0))

/-- Rounding to an integer in `mode`, then clamping (R159, R185, R219): the integer and the flags. -/
def toInt (v : Num) (mode : Mode) (draw : Nat) (lo hi : Int) : Int × Fl :=
  match v with
  | .nan _ => (0, flInvalid)
  | .inf neg => (if neg then lo else hi, flInvalid)
  | .fin _ 0 _ => (if 0 < lo then lo else 0, 0)
  | .fin neg m e =>
    let (k, ex) := grid neg m e 0 mode draw
    let i : Int := if neg then -(k : Int) else k
    if i < lo then (lo, flInvalid) else if hi < i then (hi, flInvalid)
    else (i, if ex then 0 else flInexact)

/-- Range of an integer format. -/
def intLo (sg : Bool) (w : Nat) : Int := if sg then -(2 ^ (w - 1) : Nat) else 0
def intHi (sg : Bool) (w : Nat) : Int := if sg then (2 ^ (w - 1) : Nat) - 1 else (2 ^ w : Nat) - 1

/-- `EncodeFmt(v, fmt, mode, nonsat)` of R219 for a format that is not a block format. -/
def encodeFmt (fmt : Nat) (mode : Mode) (nonsat : Bool) (draw : Nat) (v : Num) : Nat × Fl :=
  match elemOf fmt with
  | .flt f => encodeF f mode nonsat draw v
  | .int sg w => let (i, fl) := toInt v mode draw (intLo sg w) (intHi sg w); (wrap w i, fl)
  | .mxInt8 => let (i, fl) := toInt v mode draw (-128) 127; (wrap 8 i, fl)

/-- `RoundFP32(v, RNE)` where no draw is needed. -/
def roundRne (v : Num) : Nat × Fl := encodeF fmtFP32 .rne false 0 v

/-! ## The mix and the stochastic draw (R163, R220) -/

def mixRound (k x y : W64) (i : Nat) : W64 × W64 :=
  let x := x ^^^ (k + BitVec.ofNat 64 i * 0x5D2B91E4C0873A6D#64)
  let p := x * 0xE9A53C714B8D26F3#64
  let y := y ^^^ p ^^^ (p >>> 31)
  (y, rotl64 x 23)

/-- The 32-bit draw of R163 for key `k` and a 128-bit counter. -/
def mixDraw (k : W64) (c : Nat) : W32 :=
  let r := (List.range 4).foldl (fun s i => mixRound k s.1 s.2 i)
    (BitVec.ofNat 64 c, BitVec.ofNat 64 (c / 2 ^ 64))
  (r.1 ^^^ r.2).setWidth 32

/-- `SRDraw(v)` of R220, for key `key` and place `n`. -/
def srDraw (key : W64) (n : Nat) (v : Num) : Nat :=
  let t := (encodeF fmtFP32 .rtz false 0 v).1
  (mixDraw key (t * 2 ^ 64 + n)).toNat

/-- The draw where the mode needs one. -/
def drawFor (mode : Mode) (key : W64) (n : Nat) (v : Num) : Nat :=
  match mode with
  | .sr => srDraw key n v
  | _ => 0

/-! ## Exact arithmetic -/

def flIf (b : Bool) (f : Fl) : Fl := if b then f else 0

/-- Exact product (R227, R230): the value and invalid. -/
def nMul (a b : Num) : Num × Fl :=
  match a, b with
  | .nan s, .nan t => (.nan false, flIf (s || t) flInvalid)
  | .nan s, _ => (.nan false, flIf s flInvalid)
  | _, .nan s => (.nan false, flIf s flInvalid)
  | .inf s, .inf t => (.inf (s != t), 0)
  | .inf s, .fin t m _ => if m = 0 then (.nan false, flInvalid) else (.inf (s != t), 0)
  | .fin s m _, .inf t => if m = 0 then (.nan false, flInvalid) else (.inf (s != t), 0)
  | .fin s m e, .fin t n g => (.fin (s != t) (m * n) (e + g), 0)

/-- Exact sum; an exact zero from unlike signs is −0 under RDN and +0 otherwise (R226, R227). -/
def nAdd (rdn : Bool) (a b : Num) : Num × Fl :=
  match a, b with
  | .nan s, .nan t => (.nan false, flIf (s || t) flInvalid)
  | .nan s, _ => (.nan false, flIf s flInvalid)
  | _, .nan s => (.nan false, flIf s flInvalid)
  | .inf s, .inf t => if s = t then (.inf s, 0) else (.nan false, flInvalid)
  | .inf s, _ => (.inf s, 0)
  | _, .inf t => (.inf t, 0)
  | .fin s m e, .fin t n g =>
    if m = 0 && n = 0 then (.fin (if s = t then s else rdn) 0 0, 0)
    else
      let q := min e g
      let x : Int := (if s then -1 else 1) * (scaleTo m e q : Int)
      let y : Int := (if t then -1 else 1) * (scaleTo n g q : Int)
      let z := x + y
      if z = 0 then (.fin rdn 0 0, 0) else (.fin (z < 0) z.natAbs q, 0)

/-- Fused multiply-add `a · b + c` with one rounding to come (R132). A NaN operand raises invalid only if it signals. -/
def nFma (rdn : Bool) (a b c : Num) : Num × Fl :=
  let anyNan := a.isNan || b.isNan || c.isNan
  if anyNan then (.nan false, flIf (a.isSnan || b.isSnan || c.isSnan) flInvalid)
  else
    let (p, f) := nMul a b
    if p.isNan then (p, f) else nAdd rdn p c

/-- `a / b` (R133): no flag for a zero divisor. -/
def nDiv (a b : Num) : Num × Fl :=
  match a, b with
  | .nan s, .nan t => (.nan false, flIf (s || t) flInvalid)
  | .nan s, _ => (.nan false, flIf s flInvalid)
  | _, .nan s => (.nan false, flIf s flInvalid)
  | .inf _, .inf _ => (.nan false, flInvalid)
  | .inf s, .fin t _ _ => (.inf (s != t), 0)
  | .fin s _ _, .inf t => (.fin (s != t) 0 0, 0)
  | .fin s m e, .fin t n g =>
    if n = 0 then (if m = 0 then (.nan false, flInvalid) else (.inf (s != t), 0))
    else if m = 0 then (.fin (s != t) 0 0, 0)
    else
      let sh := 96 + n.log2
      let q := m * 2 ^ sh / n
      let r := m * 2 ^ sh % n
      (.fin (s != t) (2 * q + (if r = 0 then 0 else 1)) (e - g - sh - 1), 0)

/-- Integer square root, one bit of the root per step, from bit `i - 1` down. -/
def isqrtAux (n : Nat) : Nat → Nat → Nat
  | 0, r => r
  | i + 1, r => let t := r + 2 ^ i; isqrtAux n i (if t * t ≤ n then t else r)

def isqrt (n : Nat) : Nat := isqrtAux n (n.log2 / 2 + 1) 0

/-- `√a` (R133). -/
def nSqrt (a : Num) : Num × Fl :=
  match a with
  | .nan s => (.nan false, flIf s flInvalid)
  | .inf s => if s then (.nan false, flInvalid) else (.inf false, 0)
  | .fin s m e =>
    if m = 0 then (.fin s 0 0, 0)
    else if s then (.nan false, flInvalid)
    else
      let sh : Nat := 200 + (e % 2).toNat
      let n := m * 2 ^ sh
      let r := isqrt n
      (.fin false (2 * r + (if r * r = n then 0 else 1)) ((e - sh) / 2 - 1), 0)

/-- The floating order: −0 = +0; NaN is compared by the caller. -/
def nLt (a b : Num) : Bool :=
  match a, b with
  | .nan _, _ => false
  | _, .nan _ => false
  | .inf s, .inf t => s && !t
  | .inf s, .fin _ _ _ => s
  | .fin _ _ _, .inf t => !t
  | .fin s m e, .fin t n g =>
    if m = 0 && n = 0 then false
    else
      let sa := s && m != 0
      let sb := t && n != 0
      if sa != sb then sa
      else if sa then magLt n g m e else magLt m e n g

def nEq (a b : Num) : Bool := !a.isNan && !b.isNan && !nLt a b && !nLt b a

/-- `VMIN` / `VMAX` (R132): one NaN yields the other operand, two the canonical NaN; −0 < +0; a signalling NaN sets invalid. -/
def nMinMax (isMax : Bool) (a b : Num) : Num × Fl :=
  let fl := flIf (a.isSnan || b.isSnan) flInvalid
  if a.isNan && b.isNan then (.nan false, fl)
  else if a.isNan then (b, fl)
  else if b.isNan then (a, fl)
  else
    let less := nLt a b || (nEq a b && a.isNeg && !b.isNeg)
    (if less == isMax then b else a, fl)

/-! ## Blocks (R223 to R225) -/

/-- An E8M0 scale as a factor; 255 is NaN. -/
def e8m0 (s : Nat) : Num := if s % 256 = 255 then .nan false else .fin false 1 (s % 256 - 127)

/-- EMAX of a block format. -/
def emaxOf (fmt : Nat) : Int :=
  match fmt with
  | 0x0C => 8
  | 0x0D => 15
  | 0x0E => 4
  | 0x0F => 2
  | 0x10 => 2
  | 0x11 => 2
  | _ => 0

/-- A value times a scale, exact; a signalling NaN stays one, and 0 times an infinity is invalid where it is used. -/
def scaled (v sc : Num) : Num :=
  match v, sc with
  | .nan g, _ => .nan g
  | _, .nan g => .nan g
  | a, b => match nMul a b with
    | (.nan _, _) => .nan true
    | (w, _) => w

/-- Value of a block element under scale byte `s` and special `p` (R223, R224). A NaN scale makes every element NaN. -/
def blockVal (fmt code s p : Nat) : Num :=
  match e8m0 s with
  | .nan _ => .nan false
  | sc =>
    let v := if fmt = 0x11 && code % 16 == 8 then decodeF fmtE4M3 p else decodeFmt fmt code
    scaled v sc

/-- Largest magnitude among the finite values of a block. -/
def largestFinite (xs : List Num) : Nat × Int :=
  xs.foldl (fun acc x => match x with
    | .fin _ m e => if magLt acc.1 acc.2 m e then (m, e) else acc
    | _ => acc) (0, 0)

/-- The block exponent E of R223. -/
def blockExp (fmt : Nat) (a : Nat × Int) : Int :=
  if a.1 = 0 then -127 else max (-127) (min 127 (ilog2 a.1 a.2 - emaxOf fmt))

/-- `x · 2^-E`, exact. -/
def unscale (x : Num) (E : Int) : Num :=
  match x with
  | .fin s m e => .fin s m (e - E)
  | n => n

/-- One element of a block (R223): saturates; above the range sets inexact, an infinity also overflow. DEDUCED: an MX-INT8 code has the spacing 1 that R219 gives for integers (log 92). -/
def blockElem (fmt : Nat) (mode : Mode) (draw : Nat) (E : Int) (x : Num) : Nat × Fl :=
  match x with
  | .inf neg =>
    (match elemOf fmt with
     | .flt f => maxCode f neg
     | .int sg w => wrap w (if neg then intLo sg w else intHi sg w)
     | .mxInt8 => wrap 8 (if neg then -128 else 127), flInexact ||| flOverflow)
  | _ =>
    match elemOf fmt with
    | .mxInt8 =>
      match unscale x (E - 6) with
      | .fin _ 0 _ => (0, 0)
      | .fin neg m e =>
        let (k, ex) := grid neg m e 0 mode draw
        let i : Int := if neg then -(k : Int) else k
        let c := clamp i (-128) 127
        (wrap 8 c, if ex && c == i then 0 else flInexact)
      | _ => (0, 0)
    | _ =>
      let (c, fl) := encodeFmt fmt mode false draw (unscale x E)
      (c, fl &&& ~~~flOverflow)

/-- The encoder of R223 and R225: scale byte, special byte (0 but for E2M1X), codes and flags. `draw i` is the draw of element `i`. -/
def encodeBlock (fmt : Nat) (mode : Mode) (draw : Nat → Num → Nat) (xs : List Num) : Nat × Nat × List Nat × Fl :=
  if xs.any Num.isNan then (0xFF, 0, xs.map (fun _ => 0), flInvalid)
  else
    let a := largestFinite xs
    let E := blockExp fmt a
    let scale := (E + 127).toNat
    if fmt = 0x11 then
      let mi := if a.1 = 0 then none else
        (List.range xs.length).find? (fun i => match xs.getD i (.fin false 0 0) with
          | .fin _ m e => !magLt m e a.1 a.2 && m != 0
          | _ => false)
      let top := mi.map (fun i => xs.getD i (.fin false 0 0))
      let (sp, sf) := match mi, top with
        | some i, some x => encodeF fmtE4M3 mode false (draw i (unscale x E)) (unscale x E)
        | _, _ => (0, 0)
      let cs := (List.range xs.length).map (fun i =>
        let x := xs.getD i (.fin false 0 0)
        match top with
        | some t =>
          if nEq x t then (8, (0 : Fl))
          else
            let (c, fl) := blockElem 0x10 mode (draw i (unscale x E)) E x
            (if c = 8 then 0 else c, fl)
        | none =>
          let (c, fl) := blockElem 0x10 mode (draw i (unscale x E)) E x
          (if c = 8 then 0 else c, fl))
      (scale, sp, cs.map (·.1), cs.foldl (fun f c => f ||| c.2) (sf &&& ~~~flOverflow))
    else
      let cs := (List.range xs.length).map (fun i =>
        let x := xs.getD i (.fin false 0 0)
        blockElem fmt mode (draw i (match elemOf fmt with | .mxInt8 => unscale x (E - 6) | _ => unscale x E)) E x)
      (scale, 0, cs.map (·.1), cs.foldl (fun f c => f ||| c.2) 0)

/-! ## Packing (R216) -/

/-- Codes packed densely into bytes: 4-bit codes low nibble first. -/
def packCodes (w : Nat) : List Nat → List Byte
  | [] => []
  | c :: cs =>
    if w = 4 then
      match cs with
      | [] => [BitVec.ofNat 8 (c % 16)]
      | d :: ds => BitVec.ofNat 8 (c % 16 + 16 * (d % 16)) :: packCodes w ds
    else toBytes (w / 8) c ++ packCodes w cs

end Sys2Proof.Machine
end

