-- ==== Sys2Proof/Machine/Approx.lean ====
section
/-! DEFINITION. The approximate functions of R133 and R231: the exact function value, held to far more bits than any rounding of it needs, with the table's fixed results and the exact cases. -/

namespace Sys2Proof.Machine

/-- Fraction bits of the fixed-point work (DEDUCED, log 7: an irrational value never lies so near a rounding boundary of FP32 that these bits do not separate it). -/
def apxP : Nat := 320

/-- `2^apxP · x` for `x = m · 2^e`, rounded down. -/
def toFixed (m : Nat) (e : Int) : Nat :=
  if 0 ≤ e + apxP then m * 2 ^ (e + apxP).toNat else m / 2 ^ (-(e + apxP)).toNat

/-- A fixed-point result that is not exact: an odd last bit keeps it off every boundary. -/
def ofFixed (neg : Bool) (x : Nat) (e : Int) : Num := .fin neg (2 * x + 1) (e - apxP - 1)

/-- `Σ z^(2i+1) / (2i+1)` for `z < 1` in fixed point: the inverse hyperbolic tangent. -/
def atanhSeries (z2 : Nat) : Nat → Nat → Nat → Nat → Nat
  | 0, _, _, acc => acc
  | n + 1, i, p, acc => atanhSeries z2 n (i + 1) (p * z2 / 2 ^ apxP) (acc + p / (2 * i + 1))

/-- `atanh (a / b)` in fixed point, for `a / b ≤ 1/3`. -/
def atanhFix (a b : Nat) : Nat :=
  let z := a * 2 ^ apxP / b
  atanhSeries (z * z / 2 ^ apxP) 110 0 z 0

/-- `ln 2 = 2 atanh (1/3)`. -/
def ln2Fix : Nat := 2 * atanhFix 1 3

/-- `Σ x^i / i!`, for `0 ≤ x < 1` in fixed point. -/
def expSeries (x : Nat) : Nat → Nat → Nat → Nat → Nat
  | 0, _, _, acc => acc
  | n + 1, i, p, acc => expSeries x n (i + 1) (p * x / 2 ^ apxP / (i + 1)) (acc + p)

def expFix (x : Nat) : Nat := expSeries x 80 0 (2 ^ apxP) 0

/-- `VRCP` (R133). -/
def nRcp (a : Num) : Num × Fl :=
  match a with
  | .nan s => (.nan false, flIf s flInvalid)
  | .inf s => (.fin s 0 0, 0)
  | .fin s 0 _ => (.inf s, 0)
  | .fin s m e => nDiv (.fin s 1 0) (.fin false m e)

/-- `VRSQ` (R133): `1 / √a`. -/
def nRsq (a : Num) : Num × Fl :=
  match a with
  | .nan s => (.nan false, flIf s flInvalid)
  | .inf s => if s then (.nan false, flInvalid) else (.fin false 0 0, 0)
  | .fin s 0 _ => (.inf s, 0)
  | .fin s m e =>
    if s then (.nan false, flInvalid)
    else
      let m' := m * 2 ^ (e % 2).toNat
      let e' := e / 2
      let n := 2 ^ (400 + 2 * m'.log2)
      let r := isqrt (n / m')
      (.fin false (2 * r + (if r * r * m' = n then 0 else 1)) (-e' - (200 + m'.log2 : Nat) - 1), 0)

/-- `VEXP2` (R133, R231): `2^a`. -/
def nExp2 (a : Num) : Num × Fl :=
  match a with
  | .nan s => (.nan false, flIf s flInvalid)
  | .inf s => (if s then .fin false 0 0 else .inf false, 0)
  | .fin _ 0 _ => (.fin false 1 0, 0)
  | .fin s m e =>
    if !s && !magLt m e 128 0 then (.inf false, flOverflow ||| flInexact)
    else if s && magLt 150 0 m e then (.fin false 0 0, flUnderflow ||| flInexact)
    else if 0 ≤ e || m % 2 ^ (-e).toNat = 0 then
      let i : Int := if 0 ≤ e then m * 2 ^ e.toNat else m / 2 ^ (-e).toNat
      (.fin false 1 (if s then -i else i), 0)
    else
      let x := toFixed m e
      let i := x / 2 ^ apxP
      let f := x % 2 ^ apxP
      -- for a negative input, 2^-(i+f) = 2^-(i+1) · 2^(1-f)
      let f' := if s then 2 ^ apxP - f else f
      let n : Int := if s then -(i : Int) - 1 else i
      (ofFixed false (expFix (f' * ln2Fix / 2 ^ apxP)) n, 0)

/-- `VLOG2` (R133, R231): `log2 a`. -/
def nLog2 (a : Num) : Num × Fl :=
  match a with
  | .nan s => (.nan false, flIf s flInvalid)
  | .inf s => if s then (.nan false, flInvalid) else (.inf false, 0)
  | .fin _ 0 _ => (.inf true, 0)
  | .fin s m e =>
    if s then (.nan false, flInvalid)
    else
      let l := m.log2
      let i : Int := l + e
      if m = 2 ^ l then (numOfInt i, 0)
      else
        -- a = 2^i · r with 1 < r < 2; from r ≥ 3/2 work with r / 2 and i + 1
        let big := 3 * 2 ^ l ≤ 2 * m
        let i' : Int := if big then i + 1 else i
        let b := if big then 2 ^ (l + 1) else 2 ^ l
        let t := 2 * atanhFix (if big then b - m else m - b) (m + b)   -- |ln r|
        let y : Nat := t * 2 ^ apxP / ln2Fix
        let v : Int := i' * 2 ^ apxP + (if big then -(y : Int) else y)
        (ofFixed (v < 0) v.natAbs 0, 0)

/-- `VTANH` (R133, R231): `(1 - u) / (1 + u)` with `u = e^(-2|a|)`. -/
def nTanh (a : Num) : Num × Fl :=
  match a with
  | .nan s => (.nan false, flIf s flInvalid)
  | .inf s => (.fin s 1 0, 0)
  | .fin s 0 _ => (.fin s 0 0, 0)
  | .fin s m e =>
    if !magLt m e 9 0 then (.fin s 1 0, flInexact)
    else if magLt m e 1 (-12) then (.fin s (m * 2 ^ 60 - 1) (e - 60), 0)   -- just below |a|: rounds to a, inexact
    else
      -- u = 2^-n · 2^-f from 2|a| / ln 2 = n + f
      let t := toFixed m (e + 1) * 2 ^ apxP / ln2Fix
      let n := t / 2 ^ apxP
      let f := t % 2 ^ apxP
      let g := expFix (f * ln2Fix / 2 ^ apxP)           -- 2^f
      let u := 2 ^ apxP * 2 ^ apxP / (g * 2 ^ n)
      (ofFixed s ((2 ^ apxP - u) * 2 ^ apxP / (2 ^ apxP + u)) 0, 0)

end Sys2Proof.Machine
end

