-- ==== Sys2Proof/Config.lean ====
section
/-! DEFINITION. What the manual leaves to the package or leaves open: the package's constants and the free values, which are opaque, so that no proof can rest on one. -/

namespace Sys2Proof.Config

/-- The package's own chip number; the manual's examples use `0x012` (DESIGN CHOICE, log 10). -/
def chip : Nat := 0x012

/-- A free number, fresh for each value of the counter (log 1). -/
opaque freeNat : Nat → Nat

/-- The part of a firmware image that a measurement index covers (R383; log 13). -/
opaque fwPart : Nat → List Nat → List Nat

/-- A measurement digest of 64 bytes over what the block at an index measured (R337, R383; log 13). -/
opaque digest : Nat → List Nat → BitVec 512

/-- A signature over a quote (R337; log 13). -/
opaque signature : List (BitVec 512) → Nat

/-- Hottest junction temperature and die power of a telemetry record: n/a in R386 (log 13). -/
opaque sensor : Nat → Nat → BitVec 16

end Sys2Proof.Config
end

