-- ==== Sys2Proof/Syntax.lean ====
section
/-! DEFINITION. The instructions: one constructor per row of the opcode table. A constructor of a word instruction holds the operand fields of its format (R66 to R68) that the row leaves open; WAIT and SIGNAL stand in the frame of the word (R57). A constructor of an event holds what says where the event happens. -/

namespace Sys2Proof

/-- The engines of a core, numbered as in R58. -/
inductive Engine where
  | c | v | m | x
  deriving DecidableEq, Repr, Inhabited

/-- A Bexfer packet: the 64-byte header of R273 and the payload. -/
structure Packet where
  hdr : BitVec 512
  payload : List Byte
  /-- payload granules that carry poison (R367) -/
  poison : List Nat
  deriving DecidableEq, Repr, Inhabited

/-- A keeper block or command: its packet header, its keeper header (R281) and its payload. -/
structure KBlock where
  hdr : BitVec 512
  kh : BitVec 256
  payload : List Byte
  /-- payload granules that carry poison (R367) -/
  poison : List Nat
  deriving DecidableEq, Repr, Inhabited

/-- Whether the signatures that a boot verifies are right (R383): the firmware's, and the tables'. -/
structure Signatures where
  firmware : Bool
  tables : Bool
  deriving DecidableEq, Repr, Inhabited

/-- What a boot finds of the fabric (R383): the ports that do not come up, and the packet types that the switches report (R278). -/
structure FabricReport where
  down : List Nat
  mcast : Bool
  rload : Bool
  deriving DecidableEq, Repr, Inhabited

/-- What the steps of a boot find (R383): the signatures, the HBM, the CXL link, and the fabric. -/
structure BootReport where
  sigOk : Signatures
  hbmOk : Bool
  cxlOk : Bool
  fabric : FabricReport
  deriving DecidableEq, Repr, Inhabited

/-- The instructions and events of the part. -/
inductive Instr where
  /-- NOP, R84: C no-operation. -/
  | nop
  /-- ADD, R84: Writes the 64-bit sum of two S registers, wrapping. -/
  | add (d : BitVec 5) (a : BitVec 5) (b : BitVec 5)
  /-- SUB, R84: Writes the 64-bit difference of two S registers, wrapping. -/
  | sub (d : BitVec 5) (a : BitVec 5) (b : BitVec 5)
  /-- MUL, R84: Writes the low 64 bits of the product. -/
  | mul (d : BitVec 5) (a : BitVec 5) (b : BitVec 5)
  /-- MULH, R84: Writes the high 64 bits of the signed 128-bit product. -/
  | mulh (d : BitVec 5) (a : BitVec 5) (b : BitVec 5)
  /-- MULHU, R84: Writes the high 64 bits of the unsigned 128-bit product. -/
  | mulhu (d : BitVec 5) (a : BitVec 5) (b : BitVec 5)
  /-- DIVU, R84: Writes the unsigned quotient, or all ones for a zero divisor. -/
  | divu (d : BitVec 5) (a : BitVec 5) (b : BitVec 5)
  /-- REMU, R84: Writes the unsigned remainder, or the dividend for a zero divisor. -/
  | remu (d : BitVec 5) (a : BitVec 5) (b : BitVec 5)
  /-- AND, R84: Writes the bitwise AND of two S registers. -/
  | and (d : BitVec 5) (a : BitVec 5) (b : BitVec 5)
  /-- OR, R84: Writes the bitwise OR of two S registers. -/
  | or (d : BitVec 5) (a : BitVec 5) (b : BitVec 5)
  /-- XOR, R84: Writes the bitwise XOR of two S registers. -/
  | xor (d : BitVec 5) (a : BitVec 5) (b : BitVec 5)
  /-- ANDN, R84: Writes S(a) AND NOT S(b). -/
  | andn (d : BitVec 5) (a : BitVec 5) (b : BitVec 5)
  /-- SHL, R84: Shifts left by S(b)[5:0]. -/
  | shl (d : BitVec 5) (a : BitVec 5) (b : BitVec 5)
  /-- SHR, R84: Shifts right with zeros by S(b)[5:0]. -/
  | shr (d : BitVec 5) (a : BitVec 5) (b : BitVec 5)
  /-- SAR, R84: Shifts right with copies of bit 63 by S(b)[5:0]. -/
  | sar (d : BitVec 5) (a : BitVec 5) (b : BitVec 5)
  /-- ROTL, R84: Rotates S(a) left by S(b)[5:0]. -/
  | rotl (d : BitVec 5) (a : BitVec 5) (b : BitVec 5)
  /-- MIN, R84: Writes the signed minimum. -/
  | min (d : BitVec 5) (a : BitVec 5) (b : BitVec 5)
  /-- MAX, R84: Writes the signed maximum. -/
  | max (d : BitVec 5) (a : BitVec 5) (b : BitVec 5)
  /-- MINU, R84: Writes the unsigned minimum. -/
  | minu (d : BitVec 5) (a : BitVec 5) (b : BitVec 5)
  /-- MAXU, R84: Writes the unsigned maximum. -/
  | maxu (d : BitVec 5) (a : BitVec 5) (b : BitVec 5)
  /-- CLZ, R84: Writes the count of leading zero bits. -/
  | clz (d : BitVec 5) (a : BitVec 5)
  /-- POPC, R84: Writes the count of set bits. -/
  | popc (d : BitVec 5) (a : BitVec 5)
  /-- ADDP, R84: Adds two 128-bit register pairs modulo 2^128 into a pair. -/
  | addp (d : BitVec 5) (a : BitVec 5) (b : BitVec 5)
  /-- ADDI, R85: Adds a sign-extended immediate to S(a). -/
  | addi (d : BitVec 5) (a : BitVec 5) (imm : BitVec 30)
  /-- ANDI, R85: ANDs a zero-extended immediate with S(a). -/
  | andi (d : BitVec 5) (a : BitVec 5) (imm : BitVec 30)
  /-- ORI, R85: ORs a zero-extended immediate with S(a). -/
  | ori (d : BitVec 5) (a : BitVec 5) (imm : BitVec 30)
  /-- XORI, R85: XORs a zero-extended immediate with S(a). -/
  | xori (d : BitVec 5) (a : BitVec 5) (imm : BitVec 30)
  /-- SHLI, R85: Shifts left by an immediate amount. -/
  | shli (d : BitVec 5) (a : BitVec 5) (imm : BitVec 30)
  /-- SHRI, R85: Shifts right with zeros by an immediate amount. -/
  | shri (d : BitVec 5) (a : BitVec 5) (imm : BitVec 30)
  /-- SARI, R85: Shifts right arithmetically by an immediate amount. -/
  | sari (d : BitVec 5) (a : BitVec 5) (imm : BitVec 30)
  /-- MOVI, R85: Writes an immediate to Sd. -/
  | movi (d : BitVec 5) (imm : BitVec 30)
  /-- IMMX, R65: Prefix supplying bits [63:24] of the next CI word's immediate; the pair issues as one instruction. -/
  | immx (imm : BitVec 40)
  /-- PACKED, R62: Packed dictionary word that issues one to three dictionary entries in order with biased first register field. -/
  | packed (cnt : BitVec 2) (c0 : BitVec 16) (c1 : BitVec 16) (c2 : BitVec 16)
  /-- CMP, R87: Compares two S registers and writes COND and CREC of a steer register. -/
  | cmp (g : BitVec 4) (cc : BitVec 4) (a : BitVec 5) (b : BitVec 5)
  /-- CMPI, R87: Compares S(a) with a signed immediate into a steer register. -/
  | cmpi (g : BitVec 4) (cc : BitVec 4) (a : BitVec 5) (imm : BitVec 22)
  /-- GSET, R87: Sets COND to S(a) != 0 with CREC 7. -/
  | gset (g : BitVec 4) (a : BitVec 5)
  /-- GCOMB, R87: Combines two steer conditions by AND, OR, XOR or ANDN. -/
  | gcomb (g : BitVec 4) (cc : BitVec 4) (h : BitVec 4) (j : BitVec 4)
  /-- PREP_IMM, R87: Writes an immediate branch target into a steer register, sets TV and starts fetch there. -/
  | prepImm (g : BitVec 4) (target : BitVec 17)
  /-- PREP_REG, R87: Writes the target from S(a)[16:0] into a steer register, sets TV and starts fetch there. -/
  | prepReg (g : BitVec 4) (a : BitVec 5)
  /-- GO, R87: Branches through a prepared steer register on its condition, clearing loops left. -/
  | go (g : BitVec 4) (cc : BitVec 4)
  /-- GOL, R87: Branches as GO and writes the link PC + 1, leaving loops active. -/
  | gol (g : BitVec 4) (cc : BitVec 4) (d : BitVec 5)
  /-- LOOP, R89: Opens a C hardware loop with a trip count from S(a). -/
  | loop (l : BitVec 2) (a : BitVec 5) (len : BitVec 16)
  /-- LD, R90: Loads from SPM or MSM by raw offset or record, with bounds and lease check at issue. -/
  | ld (d : BitVec 5) (a : BitVec 5) (sz : BitVec 2) (t : BitVec 6) (imm : BitVec 22)
  /-- ST, R90: Stores to SPM or MSM by raw offset or record, performed 4 ac after issue. -/
  | st (d : BitVec 5) (a : BitVec 5) (sz : BitVec 2) (t : BitVec 6) (imm : BitVec 22)
  /-- LDT, R90: Loads through a tensor record with two-index addressing. -/
  | ldt (d : BitVec 5) (a : BitVec 5) (sz : BitVec 2) (t : BitVec 6) (imm : BitVec 22)
  /-- STT, R90: Stores through a tensor record with two-index addressing. -/
  | stt (d : BitVec 5) (a : BitVec 5) (sz : BitVec 2) (t : BitVec 6) (imm : BitVec 22)
  /-- AMO, R92: Performs an indivisible read-modify-write on an SPM element and returns the old value. -/
  | amo (d : BitVec 5) (a : BitVec 5) (b : BitVec 5) (op : BitVec 4) (sz : BitVec 1)
  /-- CAS, R92: Performs an indivisible compare-and-swap on an SPM element and returns the old value. -/
  | cas (d : BitVec 5) (a : BitVec 5) (b : BitVec 5) (c : BitVec 5) (sz : BitVec 1)
  /-- TDSET, R93: Loads a tensor record from 32 bytes of SPM. -/
  | tdset (n : BitVec 6) (a : BitVec 5)
  /-- TDSET_BASE, R93: Writes the BASE field of a tensor record. -/
  | tdsetBase (n : BitVec 6) (b : BitVec 5)
  /-- TDSET_EXT, R93: Writes the EXTENT field of a tensor record. -/
  | tdsetExt (n : BitVec 6) (b : BitVec 5)
  /-- TDGET, R93: Stores a tensor record to 32 bytes of SPM. -/
  | tdget (n : BitVec 6) (a : BitVec 5)
  /-- TDGET_BASE, R93: Reads the BASE of a tensor record into an S register. -/
  | tdgetBase (n : BitVec 6) (a : BitVec 5)
  /-- ITSET, R93: Loads an iterator record from 16 bytes of SPM. -/
  | itset (n : BitVec 4) (a : BitVec 5)
  /-- ITSET_IDX, R93: Writes the IDX field of an iterator record. -/
  | itsetIdx (n : BitVec 4) (b : BitVec 5)
  /-- ITGET, R93: Stores an iterator record to 16 bytes of SPM. -/
  | itget (n : BitVec 4) (a : BitVec 5)
  /-- ITGET_IDX, R93: Reads the IDX of an iterator record into an S register. -/
  | itgetIdx (n : BitVec 4) (a : BitVec 5)
  /-- QPUSH, R95: Pushes S(a) into CQV or CQM, waiting on a full queue. -/
  | qpush (q : BitVec 2) (a : BitVec 5)
  /-- QMASK, R95: Pushes 128 bytes of SPM into CQV as 16 entries in one ac. -/
  | qmask (a : BitVec 5)
  /-- QFLUSH, R53: Discards unpopped entries of a control queue and restarts V or M at a target. -/
  | qflush (q : BitVec 2) (target : BitVec 17)
  /-- ENQR, R48: Copies a unit-launch block into another core's unit queue, waiting for room. -/
  | enqr (a : BitVec 5) (b : BitVec 5)
  /-- ENQR_T, R48: As ENQR with a tick limit, writing COND with whether the block was queued. -/
  | enqrT (a : BitVec 5) (b : BitVec 5) (g : BitVec 4) (n : BitVec 22)
  /-- ENQR_QUEUED, R98: A waiting ENQR finds room, places the block and retires 40 ac later. -/
  | enqrQueued (core : Nat)
  /-- ENQR_TIMEOUT, R48: The tick limit of ENQR.T expires and COND is written 0. -/
  | enqrTimeout (core : Nat)
  /-- FORK, R42: Reads a fork block and starts the V, M and X streams at their entries. -/
  | fork (a : BitVec 5)
  /-- STREAM_END, R43: A stream ends once its next PC equals END and all it issued has retired. -/
  | streamEnd (core : Nat) (eng : Engine)
  /-- REND, R45: Joins V, M and X, discards leftover tokens and queue entries and checks the offcut queue. -/
  | rend
  /-- REND_JOIN, R45: The last of V, M and X ends and a waiting REND performs its discards and checks. -/
  | rendJoin (core : Nat)
  /-- BAR, R55: Arrives at a launch barrier generation and waits for it to complete. -/
  | bar (id : BitVec 4)
  /-- WAITO, R96: Waits until a completion object reaches a value. -/
  | waito (n : BitVec 5) (a : BitVec 5) (b : BitVec 5)
  /-- WAITO_T, R96: Waits on a completion object with a tick limit. -/
  | waitoT (n : BitVec 5) (a : BitVec 5) (b : BitVec 5) (lim : BitVec 23)
  /-- WAITO_END, R96: An object increment reaches the waited value and the WAITO completes with status 0. -/
  | waitoEnd (core : Nat)
  /-- WAITO_TIMEOUT, R96: The tick limit of WAITO.T expires and status 2 is written. -/
  | waitoTimeout (core : Nat)
  /-- SIGO, R96: Increments a completion object at its home as one indivisible access. -/
  | sigo (n : BitVec 5) (a : BitVec 5)
  /-- BPHASE, R97: Waits for the streams to settle and writes the buffer-phase snapshot. -/
  | bphase (a : BitVec 5)
  /-- BPHASE_SNAPSHOT, R97: The BPHASE condition holds and the snapshot is written, retiring 24 ac later. -/
  | bphaseSnapshot (core : Nat)
  /-- HALT, R46: Joins the streams and waits for every issued operation to retire. -/
  | halt
  /-- HALT_RETIRE, R46: HALT retires: seat billing stops, the image region is vacated, DONEOBJ increments and the halt line rises. -/
  | haltRetire (core : Nat)
  /-- CANCEL_UNIT, R51: Cancels the unit on a core or a pre-empted unit in a save slot. -/
  | cancelUnit (a : BitVec 5)
  /-- CANCEL_LAUNCH, R51: Cancels every unit of a launch. -/
  | cancelLaunch (a : BitVec 5)
  /-- CANCEL_GRAPH, R51: Cancels every launch of a graph. -/
  | cancelGraph (a : BitVec 5)
  /-- CANCEL_JOB, R51: Cancels every graph and unit of a job. -/
  | cancelJob (a : BitVec 5)
  /-- RENT, R113: Rents a range of a tier for a term from the job's purse. -/
  | rent (d : BitVec 5) (a : BitVec 5) (b : BitVec 5) (c : BitVec 5) (tier : BitVec 3) (sync : BitVec 1)
  /-- RENEW, R114: Extends a lease by n ticks from its own purse. -/
  | renew (d : BitVec 5) (a : BitVec 5) (b : BitVec 5)
  /-- PREPAY, R115: Moves points between the purse and a lease's escrow and sets its STEP. -/
  | prepay (d : BitVec 5) (a : BitVec 5) (b : BitVec 5) (c : BitVec 5)
  /-- SUBLET, R116: Carves a sublease for another job of the partition from an OPEN lease. -/
  | sublet (d : BitVec 5) (a : BitVec 5) (b : BitVec 5) (c : BitVec 5)
  /-- VACATE, R117: Ends a lease: new checks fail, holds finish, escrow returns and the range is scrubbed. -/
  | vacate (d : BitVec 5) (a : BitVec 5)
  /-- LEASEQ, R118: Returns one field of a lease of the job. -/
  | leaseq (d : BitVec 5) (a : BitVec 5) (f : BitVec 3)
  /-- PURSEQ, R119: Returns one value of the job's purse. -/
  | purseq (d : BitVec 5) (tier : BitVec 3) (f : BitVec 3)
  /-- LEASE_ACK, R112: A lease controller acknowledges a lease instruction, which then retires. -/
  | leaseAck (core : Nat)
  /-- XLAT, R120: Starts a page walk into a handle register. -/
  | xlat (h : BitVec 5) (a : BitVec 5) (p : BitVec 2)
  /-- HDROP, R121: Empties a handle and discards its pending walk. -/
  | hdrop (h : BitVec 5)
  /-- HQRY, R122: Returns the high or low half of a handle register. -/
  | hqry (d : BitVec 5) (h : BitVec 5) (lo : BitVec 1)
  /-- TRAP, R101: Enters the C trap handler with a software cause, or faults to the supervisor. -/
  | trap (v : BitVec 15)
  /-- ERET, R102: Returns from the C handler and unfreezes the selected engines. -/
  | eret (a : BitVec 5)
  /-- TRAP_ENTRY, R100: A fault of V, M or X, or a held fault, enters C's handler. -/
  | trapEntry (core : Nat)
  /-- CSRR, R104: Reads a CSR into an S register. -/
  | csrr (d : BitVec 5) (csr : BitVec 12)
  /-- CSRW, R104: Writes S(a) to a CSR, with the rules of the named CSR. -/
  | csrw (csr : BitVec 12) (a : BitVec 5)
  /-- DICTLD, R105: Loads an engine's 1,024-entry dictionary from SPM. -/
  | dictld (e : BitVec 2) (a : BitVec 5)
  /-- DICTLD_COMPLETE, R105: The dictionary load completes 128 ac after issue and retires. -/
  | dictldComplete (core : Nat) (eng : Engine)
  /-- INSTRUCTION_RETIRE, R44: An instruction reaches its retirement point and pushes its SIGNAL tokens. -/
  | instructionRetire (core : Nat) (eng : Engine) (n : Nat)
  /-- VNOP, R132: V no-operation. -/
  | vnop
  /-- VADD, R132: Floating add per active lane, rounded once. -/
  | vadd (ty : BitVec 3) (d : BitVec 4) (a : BitVec 4) (b : BitVec 4) (k : BitVec 3) (mode : BitVec 3)
  /-- VSUB, R132: Floating subtract per active lane. -/
  | vsub (ty : BitVec 3) (d : BitVec 4) (a : BitVec 4) (b : BitVec 4) (k : BitVec 3) (mode : BitVec 3)
  /-- VMUL, R132: Floating multiply per active lane. -/
  | vmul (ty : BitVec 3) (d : BitVec 4) (a : BitVec 4) (b : BitVec 4) (k : BitVec 3) (mode : BitVec 3)
  /-- VFMA, R132: Fused multiply-add per active lane. -/
  | vfma (ty : BitVec 3) (d : BitVec 4) (a : BitVec 4) (b : BitVec 4) (c : BitVec 4) (k : BitVec 3) (mode : BitVec 3)
  /-- VFMS, R132: Fused multiply-subtract per active lane. -/
  | vfms (ty : BitVec 3) (d : BitVec 4) (a : BitVec 4) (b : BitVec 4) (c : BitVec 4) (k : BitVec 3) (mode : BitVec 3)
  /-- VMIN, R132: Floating minimum per active lane. -/
  | vmin (ty : BitVec 3) (d : BitVec 4) (a : BitVec 4) (b : BitVec 4) (k : BitVec 3)
  /-- VMAX, R132: Floating maximum per active lane. -/
  | vmax (ty : BitVec 3) (d : BitVec 4) (a : BitVec 4) (b : BitVec 4) (k : BitVec 3)
  /-- VABS, R132: Clears the sign bit per active lane. -/
  | vabs (ty : BitVec 3) (d : BitVec 4) (a : BitVec 4) (k : BitVec 3)
  /-- VNEG, R132: Inverts the sign bit per active lane. -/
  | vneg (ty : BitVec 3) (d : BitVec 4) (a : BitVec 4) (k : BitVec 3)
  /-- VRCP, R231: Reciprocal per active lane. -/
  | vrcp (ty : BitVec 3) (d : BitVec 4) (a : BitVec 4) (k : BitVec 3)
  /-- VRSQ, R231: Reciprocal square root per active lane. -/
  | vrsq (ty : BitVec 3) (d : BitVec 4) (a : BitVec 4) (k : BitVec 3)
  /-- VSQRT, R132: Correctly rounded square root per active lane. -/
  | vsqrt (ty : BitVec 3) (d : BitVec 4) (a : BitVec 4) (k : BitVec 3) (mode : BitVec 3)
  /-- VDIV, R132: Correctly rounded divide per active lane. -/
  | vdiv (ty : BitVec 3) (d : BitVec 4) (a : BitVec 4) (b : BitVec 4) (k : BitVec 3) (mode : BitVec 3)
  /-- VEXP2, R231: Base-2 exponential per active lane. -/
  | vexp2 (ty : BitVec 3) (d : BitVec 4) (a : BitVec 4) (k : BitVec 3)
  /-- VLOG2, R231: Base-2 logarithm per active lane. -/
  | vlog2 (ty : BitVec 3) (d : BitVec 4) (a : BitVec 4) (k : BitVec 3)
  /-- VTANH, R231: Hyperbolic tangent per active lane. -/
  | vtanh (ty : BitVec 3) (d : BitVec 4) (a : BitVec 4) (k : BitVec 3)
  /-- VIADD, R134: Integer add modulo 2^32 per active lane. -/
  | viadd (d : BitVec 4) (a : BitVec 4) (b : BitVec 4) (k : BitVec 3)
  /-- VISUB, R134: Integer subtract per active lane. -/
  | visub (d : BitVec 4) (a : BitVec 4) (b : BitVec 4) (k : BitVec 3)
  /-- VIMUL, R134: Low 32 bits of the integer product per active lane. -/
  | vimul (d : BitVec 4) (a : BitVec 4) (b : BitVec 4) (k : BitVec 3)
  /-- VAND, R134: Bitwise AND per active lane. -/
  | vand (d : BitVec 4) (a : BitVec 4) (b : BitVec 4) (k : BitVec 3)
  /-- VOR, R134: Bitwise OR per active lane. -/
  | vor (d : BitVec 4) (a : BitVec 4) (b : BitVec 4) (k : BitVec 3)
  /-- VXOR, R134: Bitwise XOR per active lane. -/
  | vxor (d : BitVec 4) (a : BitVec 4) (b : BitVec 4) (k : BitVec 3)
  /-- VSHL, R134: Shift left per active lane. -/
  | vshl (d : BitVec 4) (a : BitVec 4) (b : BitVec 4) (k : BitVec 3) (im : BitVec 1) (n : BitVec 5)
  /-- VSHR, R134: Logical shift right per active lane. -/
  | vshr (d : BitVec 4) (a : BitVec 4) (b : BitVec 4) (k : BitVec 3) (im : BitVec 1) (n : BitVec 5)
  /-- VSAR, R134: Arithmetic shift right per active lane. -/
  | vsar (d : BitVec 4) (a : BitVec 4) (b : BitVec 4) (k : BitVec 3) (im : BitVec 1) (n : BitVec 5)
  /-- VIMIN, R134: Signed integer minimum per active lane. -/
  | vimin (d : BitVec 4) (a : BitVec 4) (b : BitVec 4) (k : BitVec 3)
  /-- VIMAX, R134: Signed integer maximum per active lane. -/
  | vimax (d : BitVec 4) (a : BitVec 4) (b : BitVec 4) (k : BitVec 3)
  /-- VCMP, R135: Compares lanes and writes a mask register. -/
  | vcmp (ty : BitVec 3) (d : BitVec 4) (a : BitVec 4) (b : BitVec 4) (k : BitVec 3) (cc : BitVec 3)
  /-- VSEL, R136: Selects each lane from Va or Vb by mask. -/
  | vsel (ty : BitVec 3) (d : BitVec 4) (a : BitVec 4) (b : BitVec 4) (k : BitVec 3)
  /-- VMSK, R137: Computes a mask register by logic or column/row limits. -/
  | vmsk (d : BitVec 4) (a : BitVec 4) (b : BitVec 4) (op : BitVec 3) (m : BitVec 7)
  /-- VMPOP, R153: Pops 16 CQV entries into a mask register. -/
  | vmpop (k : BitVec 3)
  /-- VROTR, R139: Rotates each row with fall-through reads. -/
  | vrotr (ty : BitVec 3) (d : BitVec 4) (a : BitVec 4) (k : BitVec 3) (n : BitVec 6)
  /-- VROTC, R139: Rotates each column with fall-through reads. -/
  | vrotc (ty : BitVec 3) (d : BitVec 4) (a : BitVec 4) (k : BitVec 3) (n : BitVec 4)
  /-- VBCR, R139: Broadcasts one position along each row. -/
  | vbcr (ty : BitVec 3) (d : BitVec 4) (a : BitVec 4) (k : BitVec 3) (n : BitVec 6)
  /-- VBCC, R139: Broadcasts one position along each column. -/
  | vbcc (ty : BitVec 3) (d : BitVec 4) (a : BitVec 4) (k : BitVec 3) (n : BitVec 4)
  /-- VREDR, R140: Reduces each row by ADD, MAX, MIN or LAST. -/
  | vredr (ty : BitVec 3) (d : BitVec 4) (a : BitVec 4) (k : BitVec 3) (ax : BitVec 2)
  /-- VREDC, R140: Reduces each column. -/
  | vredc (ty : BitVec 3) (d : BitVec 4) (a : BitVec 4) (k : BitVec 3) (ax : BitVec 2)
  /-- VSCANR, R140: Inclusive scan along each row. -/
  | vscanr (ty : BitVec 3) (d : BitVec 4) (a : BitVec 4) (k : BitVec 3) (ax : BitVec 2)
  /-- VSCANC, R140: Inclusive scan along each column. -/
  | vscanc (ty : BitVec 3) (d : BitVec 4) (a : BitVec 4) (k : BitVec 3) (ax : BitVec 2)
  /-- VPERM, R141: Permutes lanes within rows or columns by index with fall-through. -/
  | vperm (ty : BitVec 3) (d : BitVec 4) (a : BitVec 4) (b : BitVec 4) (k : BitVec 3) (col : BitVec 1)
  /-- VLD, R142: Loads tile rows from SPM or MSM through a record and iterator. -/
  | vld (ty : BitVec 3) (d : BitVec 4) (t : BitVec 6) (i : BitVec 4) (k : BitVec 3) (adv : BitVec 1) (rows : BitVec 4)
  /-- VST, R142: Stores tile rows to SPM or MSM through a record and iterator. -/
  | vst (ty : BitVec 3) (d : BitVec 4) (t : BitVec 6) (i : BitVec 4) (k : BitVec 3) (adv : BitVec 1) (rows : BitVec 4)
  /-- VGATH, R142: Gathers lanes by per-lane index. -/
  | vgath (ty : BitVec 3) (d : BitVec 4) (t : BitVec 6) (i : BitVec 4) (k : BitVec 3)
  /-- VSCAT, R142: Scatters lanes by per-lane index. -/
  | vscat (ty : BitVec 3) (d : BitVec 4) (t : BitVec 6) (i : BitVec 4) (k : BitVec 3)
  /-- VMAP, R147: Applies an element operation over a whole tensor in row steps. -/
  | vmap (op : BitVec 8) (id : BitVec 4) (ia : BitVec 4) (ib : BitVec 4) (ta : BitVec 6) (tb : BitVec 6) (td : BitVec 6)
  /-- VCVT, R159: Converts each active lane between element types and updates AMAX. -/
  | vcvt (ty : BitVec 3) (d : BitVec 4) (a : BitVec 4) (k : BitVec 3) (dty : BitVec 3) (mode : BitVec 3)
  /-- VREQ, R160: Quantizes each active lane to a matrix operand format. -/
  | vreq (d : BitVec 4) (a : BitVec 4) (b : BitVec 4) (k : BitVec 3) (fmt : BitVec 5) (mode : BitVec 3) (nonsat : BitVec 1) (code : BitVec 1)
  /-- VAMAX, R162: Updates AMAX from the active lanes. -/
  | vamax (ty : BitVec 3) (a : BitVec 4) (k : BitVec 3)
  /-- VRNG, R163: Pops a key and counter and writes counter-based random draws. -/
  | vrng (ty : BitVec 3) (d : BitVec 4) (k : BitVec 3) (unif : BitVec 2)
  /-- VLOOP, R151: Opens a V hardware loop with an immediate trip count. -/
  | vloop (l : BitVec 2) (cnt : BitVec 21) (len : BitVec 16)
  /-- VLOOP_Q, R151: Opens a V hardware loop with a trip count popped from CQV. -/
  | vloopQ (l : BitVec 2) (len : BitVec 16)
  /-- VTAKE, R152: Pops a code target from CQV and continues V there. -/
  | vtake
  /-- VDEFER, R156: Appends active lanes to the offcut queue. -/
  | vdefer (a : BitVec 4) (k : BitVec 3) (n : BitVec 3) (first : BitVec 4) (rows : BitVec 4)
  /-- VDRAIN, R157: Takes the oldest offcut entries into tile rows and a mask. -/
  | vdrain (d : BitVec 4) (c : BitVec 4) (k : BitVec 3) (n : BitVec 3) (first : BitVec 4) (rows : BitVec 4)
  /-- VMOV, R153: Copies active lanes of one tile register to another. -/
  | vmov (ty : BitVec 3) (d : BitVec 4) (a : BitVec 4) (k : BitVec 3)
  /-- VMOVS, R153: Pops a scalar from CQV into the active lanes. -/
  | vmovs (k : BitVec 3) (d : BitVec 4)
  /-- KLDS, R165: Keeper program: loads a cabinet array, the gradient or a constant into a tile. -/
  | klds (d : BitVec 4) (src : BitVec 8)
  /-- KSTS, R165: Keeper program: stages a tile as a cabinet array until KSTEP. -/
  | ksts (d : BitVec 4) (src : BitVec 3)
  /-- KEMIT, R165: Keeper program: encodes a tile as the block's emitted weights. -/
  | kemit (d : BitVec 4) (fmt : BitVec 5) (mode : BitVec 3)
  /-- KSTEP, R166: Keeper program: commits the block's step, arrays and emission at once. -/
  | kstep
  /-- MNOP, R172: M no-operation. -/
  | mnop
  /-- MNEST, R173: Writes one shadow-table field of a nest level, from imm or a CQM pop. -/
  | mnest (l : BitVec 4) (q : BitVec 1) (f : BitVec 6) (v : BitVec 24)
  /-- MSRCA_REC, R174: Sets the A record and CIN. -/
  | msrcaRec (t : BitVec 6) (cin : BitVec 12)
  /-- MSRCA_DIM, R174: Sets IH and IW of A. -/
  | msrcaDim (ih : BitVec 12) (iw : BitVec 12)
  /-- MSRCA_ROW0, R174: Sets ROW0 of A. -/
  | msrcaRow0 (q : BitVec 1) (v : BitVec 24)
  /-- MSRCB_REC, R174: Sets the B record and NCOL. -/
  | msrcbRec (t : BitVec 6) (ncol : BitVec 12)
  /-- MSRCB_COL0, R174: Sets COL0 of B. -/
  | msrcbCol0 (q : BitVec 1) (v : BitVec 24)
  /-- MDEST, R175: Sets the base accumulator tile. -/
  | mdest (x : BitVec 4)
  /-- MFMT, R175: Sets the accumulator format and FIRST. -/
  | mfmt (first : BitVec 1) (i32 : BitVec 1)
  /-- MGO, R176: Checks and queues a nest from the shadow table in an operation stream. -/
  | mgo (s : BitVec 2)
  /-- MLOADB, R182: Queues a copy of granules from SPM to MSM. -/
  | mloadb (t : BitVec 6) (s : BitVec 2) (y : BitVec 6) (n : BitVec 12)
  /-- MDRAIN, R185: Queues a drain of an accumulator tile to SPM with conversion and optional checksum verify. -/
  | mdrain (x : BitVec 4) (t : BitVec 6) (s : BitVec 2) (i32 : BitVec 1) (chk : BitVec 1) (nonsat : BitVec 1) (mode : BitVec 3)
  /-- MZERO, R183: Queues zeroing of named tiles and their checksums. -/
  | mzero (s : BitVec 2) (mask : BitVec 16)
  /-- MCHK_ON, R184: Queues turning on and seeding checksums of named tiles. -/
  | mchkOn (s : BitVec 2) (mask : BitVec 16)
  /-- MCHK_OFF, R184: Queues turning off checksums of named tiles. -/
  | mchkOff (s : BitVec 2) (mask : BitVec 16)
  /-- MDRY, R187: Queues a dry-fit known-answer tile test. -/
  | mdry (c : BitVec 4) (seed : BitVec 6) (s : BitVec 2) (check : BitVec 24)
  /-- MSYNC, R188: Places a marker in all four operation streams. -/
  | msync
  /-- M_OPERATION_START, R169: An operation at a stream head starts once earlier ones and markers allow. -/
  | mOperationStart (core : Nat) (s : Nat)
  /-- M_STEP, R170: M executes one step of a started operation, then picks the next stream cyclically. -/
  | mStep (core : Nat)
  /-- NEST_COMPLETE, R170: A nest completes 8 ac after its last step and its MGO retires. -/
  | nestComplete (core : Nat) (op : Nat)
  /-- XNOP, R193: X no-operation. -/
  | xnop
  /-- XCOPY, R199: Copies a source to a destination, converting formats where they differ. -/
  | xcopy (ta : BitVec 6) (tb : BitVec 6) (o : BitVec 5) (nonsat : BitVec 1) (mode : BitVec 3) (ob : BitVec 1)
  /-- XRED, R200: Applies an inline reduce of arriving elements at the destination's home. -/
  | xred (ta : BitVec 6) (tb : BitVec 6) (o : BitVec 5) (r : BitVec 2) (ob : BitVec 1)
  /-- XGATH, R201: Gathers rows by an index record. -/
  | xgath (ta : BitVec 6) (tb : BitVec 6) (o : BitVec 5) (tx : BitVec 5) (ob : BitVec 1)
  /-- XSCAT, R201: Scatters rows by an index record. -/
  | xscat (ta : BitVec 6) (tb : BitVec 6) (o : BitVec 5) (tx : BitVec 5) (ob : BitVec 1)
  /-- XMCAST, R202: Stores the source to the same address at every chip of a list. -/
  | xmcast (ta : BitVec 6) (tb : BitVec 6) (o : BitVec 5) (tx : BitVec 5) (ob : BitVec 1)
  /-- XRLOAD, R202: Reads a source at every chip of a list and reduces in list order. -/
  | xrload (ta : BitVec 6) (tb : BitVec 6) (o : BitVec 5) (tx : BitVec 5) (ob : BitVec 1) (r : BitVec 2)
  /-- XATOM, R203: Performs an atomic at the memory's home with an SPM operand block. -/
  | xatom (ta : BitVec 6) (tb : BitVec 6) (op : BitVec 5) (sz : BitVec 1)
  /-- XSIG, R206: Adds n to an object at its home. -/
  | xsig (o : BitVec 5) (n : BitVec 18)
  /-- XSIG_F, R206: Adds n to an object after every earlier accepted command has retired. -/
  | xsigF (o : BitVec 5) (n : BitVec 18)
  /-- XDECL, R207: Sets A and D bits on the pages of ranges without moving data. -/
  | xdecl (ta : BitVec 6) (tb : BitVec 6)
  /-- XPREF, R208: Runs a layered prefetch list of copies. -/
  | xpref (ta : BitVec 6)
  /-- XCOLL, R210: Hands a collective record to a collective engine. -/
  | xcoll (ta : BitVec 6) (o : BitVec 5) (ob : BitVec 1)
  /-- XKSEND, R211: Sends n keeper blocks with a header to the keeper. -/
  | xksend (ta : BitVec 6) (tb : BitVec 6) (n : BitVec 12)
  /-- XKFETCH, R211: Requests emitted weights of n blocks for a step. -/
  | xkfetch (ta : BitVec 6) (tb : BitVec 6) (o : BitVec 5) (ob : BitVec 1) (n : BitVec 12)
  /-- XKPARAM, R286: Writes 32 constants and a step tag to an update program's keepers. -/
  | xkparam (tb : BitVec 6) (p : BitVec 4)
  /-- XINV, R209: Privileged: clears handles, purges TLBs and drains old translations of a range. -/
  | xinv (ta : BitVec 6) (asid : BitVec 16)
  /-- XDRAIN, R206: Holds X's issue until every earlier accepted command has retired. -/
  | xdrain
  /-- XWAIT, R206: Holds X's issue until an object reaches a value. -/
  | xwait (o : BitVec 5) (v : BitVec 18)
  /-- XWAIT_END, R206: The object reaches the value, or a cancel ends the wait. -/
  | xwaitEnd (core : Nat)
  /-- X_ACCEPT, R190: X accepts a command 8 ac after issue and walks its virtual ranges. -/
  | xAccept (core : Nat)
  /-- CHUNK_LAND, R198: A chunk's bytes land once and its holds end. -/
  | chunkLand (core : Nat) (cmd : Nat) (chunk : Nat)
  /-- X_RETIRE, R191: A command retires after its whole operation and object increment. -/
  | xRetire (core : Nat) (cmd : Nat)
  /-- STORE, R273: A received STORE packet writes its payload after the sequence check. -/
  | pktStore (p : Packet)
  /-- LOAD, R273: A received LOAD packet returns data. -/
  | pktLoad (p : Packet)
  /-- ATOM, R203: A received ATOM packet performs an atomic at the home. -/
  | pktAtom (p : Packet)
  /-- SIGNAL, R206: A received SIGNAL packet increments an object at the home. -/
  | pktSignal (p : Packet)
  /-- REDUCE_LOAD, R277: A received REDUCE_LOAD loads from each entry and combines in list order. -/
  | reduceLoad (p : Packet)
  /-- LINK_DOWN, R275: A port fails; traffic is rerouted and unacknowledged packets retransmitted. -/
  | linkDown (port : Nat)
  /-- GRAD, R287: A GRAD block arrives at the keeper and is applied, held, discarded or refused. -/
  | kGrad (b : KBlock)
  /-- SETUP, R284: Keeper command setting up a group. -/
  | kSetup (b : KBlock)
  /-- PROMOTE, R295: Keeper command making the mirror the primary and re-emitting weights. -/
  | kPromote (b : KBlock)
  /-- RESUME, R289: Keeper command resuming a frozen group after its leases pass. -/
  | kResume (b : KBlock)
  /-- RETIRE, R284: Keeper command ending a group after running applications commit. -/
  | kRetire (b : KBlock)
  /-- PROGRAM, R285: Keeper command loading an update program after checking every word. -/
  | kProgram (b : KBlock)
  /-- BLOCK_APPLICATION, R288: An update unit applies a block by running its update program. -/
  | blockApplication (part : Nat) (job : Nat) (group : Nat) (block : Nat)
  /-- KWEIGHTS, R292: A received KWEIGHTS packet writes a subscriber slot, tag and object if newer. -/
  | kweights (b : KBlock)
  /-- MISSING, R293: A step's deadline passes with blocks unapplied and MISSING records are raised. -/
  | missing (part : Nat) (job : Nat) (group : Nat) (step : Nat)
  /-- KEEPER_REGEN, R375: The primary keeper regenerates a poisoned emission slot and sends REGEN. -/
  | keeperRegen (part : Nat) (job : Nat) (group : Nat) (block : Nat)
  /-- LAUNCH_COMPLETE, R50: A launch completes: stores published, DONEOBJ incremented, successors decremented. -/
  | launchComplete (launch : Nat)
  /-- SLICE_END, R305: A unit's slice ends; it is pre-empted if ready work waits, else a new slice is charged. -/
  | sliceEnd (core : Nat)
  /-- IDLE_SLICE_END, R305: All four streams held 256 ticks end the slice early when ready work waits. -/
  | idleSliceEnd (core : Nat)
  /-- STALL, R311: A stream held STALLT resident ticks raises STALL. -/
  | stall (core : Nat) (eng : Engine)
  /-- PREEMPT, R313: Issue stops in all four streams and in-flight work drains to quiescence. -/
  | preempt (core : Nat)
  /-- ESCROW_RENEWAL, R354: At paid-until the escrow buys STEP ticks for the lease. -/
  | escrowRenewal (lease : Nat)
  /-- ARREARS, R354: A SYNC lease with waiters is charged one tick in arrears instead of lapsing. -/
  | arrears (lease : Nat)
  /-- LAPSE, R354: An OPEN lease reaches paid-until unpaid and lapses with its subleases. -/
  | lapse (lease : Nat)
  /-- RECLAIM, R354: A lapsed lease past grace or RDUE with no holds is reclaimed and scrubbed. -/
  | reclaim (lease : Nat)
  /-- OVERDRAFT, R355: At tick end each lapsed lease is billed one tick up to the purse cap. -/
  | overdraft (lease : Nat)
  /-- SEAT_BILLING, R33: Each tick bills each resident unit's seat and each save-area lease. -/
  | seatBilling (tick : Nat)
  /-- SCRUB_COMPLETE, R360: A range's scrub completes and the lease slot is freed. -/
  | scrubComplete (lease : Nat)
  /-- VACATE_COMPLETE, R117: The last hold on a VACATING lease ends; it becomes VACATED and VACATE retires. -/
  | vacateComplete (lease : Nat)
  /-- PART_SHRINK, R333: Mailbox command removing quads after pre-emption, vacating and scrub. -/
  | partShrink (fn : Nat) (part : Nat) (quads : List Nat)
  /-- PART_DESTROY, R333: Mailbox command cancelling all jobs and removing a partition. -/
  | partDestroy (fn : Nat) (part : Nat)
  /-- JOB_RETIRE, R333: Mailbox command cancelling a job, vacating its leases and invalidating its ASID. -/
  | jobRetire (fn : Nat) (part : Nat) (job : Nat)
  /-- FREEZE_END, R368: The 12 ac correction freeze ends and the engines resume. -/
  | freezeEnd (core : Nat)
  /-- DROOP_STEP_DOWN, R385: Each 100 ticks without droop lowers the die's step by one. -/
  | droopStepDown (die : Nat)
  /-- PEER_LOST, R271: A chip is declared lost after 50,000 silent ticks or a management report. -/
  | peerLost (chip : Nat)
  /-- GRAPH_POST, R37: A host 64-byte write to the post window posts a graph record into the intake. -/
  | graphPost (part : Nat) (line : Nat) (bytes : List Byte)
  /-- PART_CREATE, R333: Mailbox command creating a partition and enabling its VF. -/
  | partCreate (fn : Nat) (part : Nat) (entry : BitVec 128)
  /-- PART_GROW, R333: Mailbox command assigning quads to a partition. -/
  | partGrow (fn : Nat) (part : Nat) (quads : List Nat)
  /-- JOB_CREATE, R333: Mailbox command writing a job entry. -/
  | jobCreate (fn : Nat) (part : Nat) (job : Nat) (entry : BitVec 384)
  /-- RATE_SET, R333: Mailbox command replacing a partition's rate table. -/
  | rateSet (fn : Nat) (part : Nat) (rates : List Nat)
  /-- PURSE_CREDIT, R350: Mailbox command adding points to a job's purse. -/
  | purseCredit (fn : Nat) (part : Nat) (job : Nat) (n : Nat)
  /-- CORE_CLEAR, R376: Mailbox command clearing a core's suspect mark. -/
  | coreClear (fn : Nat) (core : Nat)
  /-- CAPTURE_SET, R381: Mailbox command starting capture of a job's inputs to a log. -/
  | captureSet (fn : Nat) (part : Nat) (job : Nat) (va : Nat) (len : Nat)
  /-- REPLAY_SET, R382: Mailbox command running a job from a captured log. -/
  | replaySet (fn : Nat) (part : Nat) (job : Nat) (va : Nat) (len : Nat)
  /-- TELEM_READ, R386: Returns a compute die's telemetry record. -/
  | telemRead (fn : Nat) (die : Nat)
  /-- GET_MEASUREMENTS, R337: SPDM request returning signed measurements. -/
  | getMeasurements (fn : Nat) (idxs : List Nat)
  /-- GET_FW_INFO, R384: CXL mailbox command reporting firmware slots. -/
  | getFwInfo (fn : Nat)
  /-- TRANSFER_FW, R384: CXL mailbox command transferring a firmware image. -/
  | transferFw (fn : Nat) (slot : Nat) (image : List Byte) (last : Bool)
  /-- ACTIVATE_FW, R384: CXL mailbox command selecting a slot for the next reset. -/
  | activateFw (fn : Nat) (slot : Nat)
  /-- POWER_LIMIT, R387: Management write setting the package-power limit from the next tick. -/
  | powerLimit (watts : Nat)
  /-- PACKAGE_RESET, R383: Power-on, PERST# or a management request resets the package and runs the boot steps. -/
  | packageReset (mgmt : Bool) (sigOk : Signatures) (hbmOk : Bool) (cxlOk : Bool) (downPorts : FabricReport)
  /-- REGISTER_WRITE, R380: Host write to a register without a row of its own, such as the event ring READ. -/
  | registerWrite (part : Nat) (off : Nat) (val : W64)
  /-- CORRECTABLE, R368: A correctable SRAM error freezes the core's engines for 12 ac. -/
  | correctable (core : Nat) (n : Nat)
  /-- UNCORRECTABLE_ERROR, R369: An uncorrectable error sets its granule's poison bit. -/
  | uncorrectableError (key : Nat)
  /-- THERMAL_THROTTLE, R385: Over-temperature or over-power sets every die to step 5. -/
  | thermalThrottle (tj : Nat) (watts : Nat)
  /-- THROTTLE_EXIT, R385: After 1,000 ticks below limits the thermal step is released. -/
  | throttleExit (ticksCool : Nat)
  /-- DROOP_DETECT, R385: A supply-droop detection raises the die's clock step by one. -/
  | droopDetect (die : Nat)
  /-- HOST_CXL_MEM_WRITE, R335: A host CXL.mem write into host-managed device memory outside the post window writes device memory and, under capture, is logged. -/
  | hostCxlMemWrite (addr : Nat) (bytes : List Byte)
  /-- FLIT_CRC_ERROR, R275: A flit fails its CRC and is retransmitted. -/
  | flitCrcError (port : Nat)
  /-- MCAST_STORE, R276: A received MCAST_STORE delivers one copy per list entry. -/
  | mcastStore (p : Packet)
  /-- COLLECTIVE_EMIT, R265: A collective engine emits a transfer for one innermost iteration when granted. -/
  | collectiveEmit (rec : Nat)
  /-- COLLECTIVE_APPLY, R266: A destination applies expected transfers in key order, holding early ones. -/
  | collectiveApply (rec : Nat)
  /-- COLLECTIVE_COMPLETE, R269: A record completes, STATUS is written and XCOLL retires. -/
  | collectiveComplete (rec : Nat)
  /-- FETCH_SERVE, R291: A waiting fetch block is served once the applied step reaches STEP. -/
  | fetchServe (fetch : Nat) (block : Nat)
  /-- XLAT_WALK_END, R120: A pending walk ends and writes the handle READY or FAULTED. -/
  | xlatWalkEnd (core : Nat) (h : Nat)
  /-- XINV_ACK, R209: The drain ends; XINV acknowledges, the generation rises and walks restart. -/
  | xinvAck (core : Nat) (cmd : Nat)
  /-- BAR_GENERATION_COMPLETE, R56: Every participant has arrived; plain stores are published and each BAR retires. -/
  | barGenerationComplete (launch : Nat) (id : Nat)
  /-- CONTEXT_SAVE, R317: After the drain the context is written to a rented save slot and PREEMPTED posted. -/
  | contextSave (core : Nat)
  /-- UNIT_PLACE, R40: The dispatcher places a ready unit on a free core, renting and copying its image. -/
  | unitPlace (core : Nat)
  /-- RESTORE, R323: A pre-empted unit is restored on a core and all streams resume together. -/
  | restore (core : Nat)
  /-- CHUNK_START, R194: X starts a chunk: resolves, lease-checks and holds its leases. -/
  | chunkStart (core : Nat) (cmd : Nat)
  deriving DecidableEq, Repr, Inhabited

end Sys2Proof
end

