-- ==== Sys2Proof/Machine/Legal.lean ====
section
/-! DEFINITION. The fates of reserved and out-of-range operand values (R73 and the field rules of the entries): what makes a word ILLOP. -/

namespace Sys2Proof.Machine

/-- Engine and opcode of a word instruction (R69 to R71); events have none. -/
def opOf (i : Instr) : Option (Engine × Nat) :=
  match i with
  | .nop => some (.c, 0x00)
  | .add _ _ _ => some (.c, 0x01)
  | .sub _ _ _ => some (.c, 0x02)
  | .mul _ _ _ => some (.c, 0x03)
  | .mulh _ _ _ => some (.c, 0x04)
  | .mulhu _ _ _ => some (.c, 0x05)
  | .divu _ _ _ => some (.c, 0x06)
  | .remu _ _ _ => some (.c, 0x07)
  | .and _ _ _ => some (.c, 0x08)
  | .or _ _ _ => some (.c, 0x09)
  | .xor _ _ _ => some (.c, 0x0A)
  | .andn _ _ _ => some (.c, 0x0B)
  | .shl _ _ _ => some (.c, 0x0C)
  | .shr _ _ _ => some (.c, 0x0D)
  | .sar _ _ _ => some (.c, 0x0E)
  | .rotl _ _ _ => some (.c, 0x0F)
  | .min _ _ _ => some (.c, 0x10)
  | .max _ _ _ => some (.c, 0x11)
  | .minu _ _ _ => some (.c, 0x12)
  | .maxu _ _ _ => some (.c, 0x13)
  | .clz _ _ => some (.c, 0x14)
  | .popc _ _ => some (.c, 0x15)
  | .addp _ _ _ => some (.c, 0x16)
  | .addi _ _ _ => some (.c, 0x20)
  | .andi _ _ _ => some (.c, 0x21)
  | .ori _ _ _ => some (.c, 0x22)
  | .xori _ _ _ => some (.c, 0x23)
  | .shli _ _ _ => some (.c, 0x24)
  | .shri _ _ _ => some (.c, 0x25)
  | .sari _ _ _ => some (.c, 0x26)
  | .movi _ _ => some (.c, 0x27)
  | .immx _ => some (.c, 0x28)
  | .packed _ _ _ _ => some (.c, 0x00)
  | .cmp _ _ _ _ => some (.c, 0x30)
  | .cmpi _ _ _ _ => some (.c, 0x31)
  | .gset _ _ => some (.c, 0x32)
  | .gcomb _ _ _ _ => some (.c, 0x33)
  | .prepImm _ _ => some (.c, 0x34)
  | .prepReg _ _ => some (.c, 0x34)
  | .go _ _ => some (.c, 0x35)
  | .gol _ _ _ => some (.c, 0x36)
  | .loop _ _ _ => some (.c, 0x37)
  | .ld _ _ _ _ _ => some (.c, 0x40)
  | .st _ _ _ _ _ => some (.c, 0x41)
  | .ldt _ _ _ _ _ => some (.c, 0x42)
  | .stt _ _ _ _ _ => some (.c, 0x43)
  | .amo _ _ _ _ _ => some (.c, 0x44)
  | .cas _ _ _ _ _ => some (.c, 0x45)
  | .tdset _ _ => some (.c, 0x48)
  | .tdsetBase _ _ => some (.c, 0x48)
  | .tdsetExt _ _ => some (.c, 0x48)
  | .tdget _ _ => some (.c, 0x49)
  | .tdgetBase _ _ => some (.c, 0x49)
  | .itset _ _ => some (.c, 0x4A)
  | .itsetIdx _ _ => some (.c, 0x4A)
  | .itget _ _ => some (.c, 0x4B)
  | .itgetIdx _ _ => some (.c, 0x4B)
  | .qpush _ _ => some (.c, 0x50)
  | .qmask _ => some (.c, 0x51)
  | .qflush _ _ => some (.c, 0x52)
  | .enqr _ _ => some (.c, 0x53)
  | .enqrT _ _ _ _ => some (.c, 0x53)
  | .enqrQueued _ => none
  | .enqrTimeout _ => none
  | .fork _ => some (.c, 0x54)
  | .streamEnd _ _ => none
  | .rend => some (.c, 0x55)
  | .rendJoin _ => none
  | .bar _ => some (.c, 0x56)
  | .waito _ _ _ => some (.c, 0x57)
  | .waitoT _ _ _ _ => some (.c, 0x57)
  | .waitoEnd _ => none
  | .waitoTimeout _ => none
  | .sigo _ _ => some (.c, 0x58)
  | .bphase _ => some (.c, 0x59)
  | .bphaseSnapshot _ => none
  | .halt => some (.c, 0x5A)
  | .haltRetire _ => none
  | .cancelUnit _ => some (.c, 0x5B)
  | .cancelLaunch _ => some (.c, 0x5B)
  | .cancelGraph _ => some (.c, 0x5B)
  | .cancelJob _ => some (.c, 0x5B)
  | .rent _ _ _ _ _ _ => some (.c, 0x60)
  | .renew _ _ _ => some (.c, 0x61)
  | .prepay _ _ _ _ => some (.c, 0x62)
  | .sublet _ _ _ _ => some (.c, 0x63)
  | .vacate _ _ => some (.c, 0x64)
  | .leaseq _ _ _ => some (.c, 0x65)
  | .purseq _ _ _ => some (.c, 0x66)
  | .leaseAck _ => none
  | .xlat _ _ _ => some (.c, 0x68)
  | .hdrop _ => some (.c, 0x69)
  | .hqry _ _ _ => some (.c, 0x6A)
  | .trap _ => some (.c, 0x70)
  | .eret _ => some (.c, 0x71)
  | .trapEntry _ => none
  | .csrr _ _ => some (.c, 0x72)
  | .csrw _ _ => some (.c, 0x73)
  | .dictld _ _ => some (.c, 0x74)
  | .dictldComplete _ _ => none
  | .instructionRetire _ _ _ => none
  | .vnop => some (.v, 0x00)
  | .vadd _ _ _ _ _ _ => some (.v, 0x01)
  | .vsub _ _ _ _ _ _ => some (.v, 0x02)
  | .vmul _ _ _ _ _ _ => some (.v, 0x03)
  | .vfma _ _ _ _ _ _ _ => some (.v, 0x04)
  | .vfms _ _ _ _ _ _ _ => some (.v, 0x05)
  | .vmin _ _ _ _ _ => some (.v, 0x06)
  | .vmax _ _ _ _ _ => some (.v, 0x07)
  | .vabs _ _ _ _ => some (.v, 0x08)
  | .vneg _ _ _ _ => some (.v, 0x09)
  | .vrcp _ _ _ _ => some (.v, 0x0A)
  | .vrsq _ _ _ _ => some (.v, 0x0B)
  | .vsqrt _ _ _ _ _ => some (.v, 0x0C)
  | .vdiv _ _ _ _ _ _ => some (.v, 0x0D)
  | .vexp2 _ _ _ _ => some (.v, 0x0E)
  | .vlog2 _ _ _ _ => some (.v, 0x0F)
  | .vtanh _ _ _ _ => some (.v, 0x10)
  | .viadd _ _ _ _ => some (.v, 0x18)
  | .visub _ _ _ _ => some (.v, 0x19)
  | .vimul _ _ _ _ => some (.v, 0x1A)
  | .vand _ _ _ _ => some (.v, 0x1B)
  | .vor _ _ _ _ => some (.v, 0x1C)
  | .vxor _ _ _ _ => some (.v, 0x1D)
  | .vshl _ _ _ _ _ _ => some (.v, 0x1E)
  | .vshr _ _ _ _ _ _ => some (.v, 0x1F)
  | .vsar _ _ _ _ _ _ => some (.v, 0x20)
  | .vimin _ _ _ _ => some (.v, 0x21)
  | .vimax _ _ _ _ => some (.v, 0x22)
  | .vcmp _ _ _ _ _ _ => some (.v, 0x28)
  | .vsel _ _ _ _ _ => some (.v, 0x29)
  | .vmsk _ _ _ _ _ => some (.v, 0x2A)
  | .vmpop _ => some (.v, 0x2B)
  | .vrotr _ _ _ _ _ => some (.v, 0x30)
  | .vrotc _ _ _ _ _ => some (.v, 0x31)
  | .vbcr _ _ _ _ _ => some (.v, 0x32)
  | .vbcc _ _ _ _ _ => some (.v, 0x33)
  | .vredr _ _ _ _ _ => some (.v, 0x34)
  | .vredc _ _ _ _ _ => some (.v, 0x35)
  | .vscanr _ _ _ _ _ => some (.v, 0x36)
  | .vscanc _ _ _ _ _ => some (.v, 0x37)
  | .vperm _ _ _ _ _ _ => some (.v, 0x38)
  | .vld _ _ _ _ _ _ _ => some (.v, 0x40)
  | .vst _ _ _ _ _ _ _ => some (.v, 0x41)
  | .vgath _ _ _ _ _ => some (.v, 0x42)
  | .vscat _ _ _ _ _ => some (.v, 0x43)
  | .vmap _ _ _ _ _ _ _ => some (.v, 0x44)
  | .vcvt _ _ _ _ _ _ => some (.v, 0x48)
  | .vreq _ _ _ _ _ _ _ _ => some (.v, 0x49)
  | .vamax _ _ _ => some (.v, 0x4A)
  | .vrng _ _ _ _ => some (.v, 0x4C)
  | .vloop _ _ _ => some (.v, 0x50)
  | .vloopQ _ _ => some (.v, 0x50)
  | .vtake => some (.v, 0x51)
  | .vdefer _ _ _ _ _ => some (.v, 0x54)
  | .vdrain _ _ _ _ _ _ => some (.v, 0x55)
  | .vmov _ _ _ _ => some (.v, 0x58)
  | .vmovs _ _ => some (.v, 0x59)
  | .klds _ _ => some (.v, 0x60)
  | .ksts _ _ => some (.v, 0x61)
  | .kemit _ _ _ => some (.v, 0x62)
  | .kstep => some (.v, 0x63)
  | .mnop => some (.m, 0x00)
  | .mnest _ _ _ _ => some (.m, 0x01)
  | .msrcaRec _ _ => some (.m, 0x02)
  | .msrcaDim _ _ => some (.m, 0x02)
  | .msrcaRow0 _ _ => some (.m, 0x02)
  | .msrcbRec _ _ => some (.m, 0x03)
  | .msrcbCol0 _ _ => some (.m, 0x03)
  | .mdest _ => some (.m, 0x04)
  | .mfmt _ _ => some (.m, 0x05)
  | .mgo _ => some (.m, 0x06)
  | .mloadb _ _ _ _ => some (.m, 0x07)
  | .mdrain _ _ _ _ _ _ _ => some (.m, 0x08)
  | .mzero _ _ => some (.m, 0x09)
  | .mchkOn _ _ => some (.m, 0x0A)
  | .mchkOff _ _ => some (.m, 0x0A)
  | .mdry _ _ _ _ => some (.m, 0x0B)
  | .msync => some (.m, 0x0C)
  | .mOperationStart _ _ => none
  | .mStep _ => none
  | .nestComplete _ _ => none
  | .xnop => some (.x, 0x00)
  | .xcopy _ _ _ _ _ _ => some (.x, 0x01)
  | .xred _ _ _ _ _ => some (.x, 0x02)
  | .xgath _ _ _ _ _ => some (.x, 0x03)
  | .xscat _ _ _ _ _ => some (.x, 0x04)
  | .xmcast _ _ _ _ _ => some (.x, 0x05)
  | .xrload _ _ _ _ _ _ => some (.x, 0x06)
  | .xatom _ _ _ _ => some (.x, 0x07)
  | .xsig _ _ => some (.x, 0x08)
  | .xsigF _ _ => some (.x, 0x08)
  | .xdecl _ _ => some (.x, 0x09)
  | .xpref _ => some (.x, 0x0A)
  | .xcoll _ _ _ => some (.x, 0x0B)
  | .xksend _ _ _ => some (.x, 0x0C)
  | .xkfetch _ _ _ _ _ => some (.x, 0x0D)
  | .xkparam _ _ => some (.x, 0x0E)
  | .xinv _ _ => some (.x, 0x0F)
  | .xdrain => some (.x, 0x10)
  | .xwait _ _ => some (.x, 0x11)
  | .xwaitEnd _ => none
  | .xAccept _ => none
  | .chunkLand _ _ _ => none
  | .xRetire _ _ => none
  | .pktStore _ => none
  | .pktLoad _ => none
  | .pktAtom _ => none
  | .pktSignal _ => none
  | .reduceLoad _ => none
  | .linkDown _ => none
  | .kGrad _ => none
  | .kSetup _ => none
  | .kPromote _ => none
  | .kResume _ => none
  | .kRetire _ => none
  | .kProgram _ => none
  | .blockApplication _ _ _ _ => none
  | .kweights _ => none
  | .missing _ _ _ _ => none
  | .keeperRegen _ _ _ _ => none
  | .launchComplete _ => none
  | .sliceEnd _ => none
  | .idleSliceEnd _ => none
  | .stall _ _ => none
  | .preempt _ => none
  | .escrowRenewal _ => none
  | .arrears _ => none
  | .lapse _ => none
  | .reclaim _ => none
  | .overdraft _ => none
  | .seatBilling _ => none
  | .scrubComplete _ => none
  | .partShrink _ _ _ => none
  | .partDestroy _ _ => none
  | .jobRetire _ _ _ => none
  | .freezeEnd _ => none
  | .droopStepDown _ => none
  | .graphPost _ _ _ => none
  | .partCreate _ _ _ => none
  | .partGrow _ _ _ => none
  | .jobCreate _ _ _ _ => none
  | .rateSet _ _ _ => none
  | .purseCredit _ _ _ _ => none
  | .coreClear _ _ => none
  | .captureSet _ _ _ _ _ => none
  | .replaySet _ _ _ _ _ => none
  | .telemRead _ _ => none
  | .getMeasurements _ _ => none
  | .getFwInfo _ => none
  | .transferFw _ _ _ _ => none
  | .activateFw _ _ => none
  | .powerLimit _ => none
  | .packageReset _ _ _ _ _ => none
  | .registerWrite _ _ _ => none
  | .correctable _ _ => none
  | .uncorrectableError _ => none
  | .thermalThrottle _ _ => none
  | .throttleExit _ => none
  | .droopDetect _ => none
  | .hostCxlMemWrite _ _ => none
  | .flitCrcError _ => none
  | .mcastStore _ => none
  | .peerLost _ => none
  | .collectiveEmit _ => none
  | .collectiveApply _ => none
  | .collectiveComplete _ => none
  | .fetchServe _ _ => none
  | .xlatWalkEnd _ _ => none
  | .xinvAck _ _ => none
  | .vacateComplete _ => none
  | .barGenerationComplete _ _ => none
  | .contextSave _ => none
  | .unitPlace _ => none
  | .restore _ => none
  | .chunkStart _ _ => none

/-- A field value in its place. -/
def put (v lo : Nat) : Nat := v * 2 ^ lo

/-- The operand field of an instruction (R66 to R68), bits [39:0]; an event has none. -/
def operandsOf (i : Instr) : Nat :=
  match i with
  | .nop => 0
  | .add d a b => put d.toNat 35 + put a.toNat 30 + put b.toNat 25
  | .sub d a b => put d.toNat 35 + put a.toNat 30 + put b.toNat 25
  | .mul d a b => put d.toNat 35 + put a.toNat 30 + put b.toNat 25
  | .mulh d a b => put d.toNat 35 + put a.toNat 30 + put b.toNat 25
  | .mulhu d a b => put d.toNat 35 + put a.toNat 30 + put b.toNat 25
  | .divu d a b => put d.toNat 35 + put a.toNat 30 + put b.toNat 25
  | .remu d a b => put d.toNat 35 + put a.toNat 30 + put b.toNat 25
  | .and d a b => put d.toNat 35 + put a.toNat 30 + put b.toNat 25
  | .or d a b => put d.toNat 35 + put a.toNat 30 + put b.toNat 25
  | .xor d a b => put d.toNat 35 + put a.toNat 30 + put b.toNat 25
  | .andn d a b => put d.toNat 35 + put a.toNat 30 + put b.toNat 25
  | .shl d a b => put d.toNat 35 + put a.toNat 30 + put b.toNat 25
  | .shr d a b => put d.toNat 35 + put a.toNat 30 + put b.toNat 25
  | .sar d a b => put d.toNat 35 + put a.toNat 30 + put b.toNat 25
  | .rotl d a b => put d.toNat 35 + put a.toNat 30 + put b.toNat 25
  | .min d a b => put d.toNat 35 + put a.toNat 30 + put b.toNat 25
  | .max d a b => put d.toNat 35 + put a.toNat 30 + put b.toNat 25
  | .minu d a b => put d.toNat 35 + put a.toNat 30 + put b.toNat 25
  | .maxu d a b => put d.toNat 35 + put a.toNat 30 + put b.toNat 25
  | .clz d a => put d.toNat 35 + put a.toNat 30
  | .popc d a => put d.toNat 35 + put a.toNat 30
  | .addp d a b => put d.toNat 35 + put a.toNat 30 + put b.toNat 25
  | .addi d a imm => put d.toNat 35 + put a.toNat 30 + put imm.toNat 0
  | .andi d a imm => put d.toNat 35 + put a.toNat 30 + put imm.toNat 0
  | .ori d a imm => put d.toNat 35 + put a.toNat 30 + put imm.toNat 0
  | .xori d a imm => put d.toNat 35 + put a.toNat 30 + put imm.toNat 0
  | .shli d a imm => put d.toNat 35 + put a.toNat 30 + put imm.toNat 0
  | .shri d a imm => put d.toNat 35 + put a.toNat 30 + put imm.toNat 0
  | .sari d a imm => put d.toNat 35 + put a.toNat 30 + put imm.toNat 0
  | .movi d imm => put d.toNat 35 + put imm.toNat 0
  | .immx imm => put imm.toNat 0
  | .packed _ _ _ _ => 0
  | .cmp g cc a b => put g.toNat 36 + put cc.toNat 32 + put a.toNat 27 + put b.toNat 22
  | .cmpi g cc a imm => put g.toNat 36 + put cc.toNat 32 + put a.toNat 27 + put imm.toNat 0
  | .gset g a => put g.toNat 36 + put a.toNat 27
  | .gcomb g cc h j => put g.toNat 36 + put cc.toNat 32 + put h.toNat 27 + put j.toNat 22
  | .prepImm g target => put g.toNat 36 + put target.toNat 0
  | .prepReg g a => put g.toNat 36 + put a.toNat 27 + put 1 32
  | .go g cc => put g.toNat 36 + put cc.toNat 32
  | .gol g cc d => put g.toNat 36 + put cc.toNat 32 + put d.toNat 27
  | .loop l a len => put l.toNat 38 + put a.toNat 33 + put len.toNat 0
  | .ld d a sz t imm => put d.toNat 35 + put a.toNat 30 + put sz.toNat 28 + put t.toNat 22 + put imm.toNat 0
  | .st d a sz t imm => put d.toNat 35 + put a.toNat 30 + put sz.toNat 28 + put t.toNat 22 + put imm.toNat 0
  | .ldt d a sz t imm => put d.toNat 35 + put a.toNat 30 + put sz.toNat 28 + put t.toNat 22 + put imm.toNat 0
  | .stt d a sz t imm => put d.toNat 35 + put a.toNat 30 + put sz.toNat 28 + put t.toNat 22 + put imm.toNat 0
  | .amo d a b op sz => put d.toNat 35 + put a.toNat 30 + put b.toNat 25 + put op.toNat 16 + put sz.toNat 15
  | .cas d a b c sz => put d.toNat 35 + put a.toNat 30 + put b.toNat 25 + put c.toNat 20 + put sz.toNat 15
  | .tdset n a => put n.toNat 0 + put a.toNat 33
  | .tdsetBase n b => put n.toNat 0 + put b.toNat 28 + put 1 38
  | .tdsetExt n b => put n.toNat 0 + put b.toNat 28 + put 2 38
  | .tdget n a => put n.toNat 0 + put a.toNat 33
  | .tdgetBase n a => put n.toNat 0 + put a.toNat 33 + put 1 38
  | .itset n a => put n.toNat 0 + put a.toNat 33
  | .itsetIdx n b => put n.toNat 0 + put b.toNat 28 + put 1 38
  | .itget n a => put n.toNat 0 + put a.toNat 33
  | .itgetIdx n a => put n.toNat 0 + put a.toNat 33 + put 1 38
  | .qpush q a => put q.toNat 38 + put a.toNat 33
  | .qmask a => put a.toNat 33
  | .qflush q target => put q.toNat 38 + put target.toNat 0
  | .enqr a b => put a.toNat 33 + put b.toNat 28
  | .enqrT a b g n => put a.toNat 33 + put b.toNat 28 + put g.toNat 24 + put n.toNat 0 + put 1 38
  | .enqrQueued _ => 0
  | .enqrTimeout _ => 0
  | .fork a => put a.toNat 33
  | .streamEnd _ _ => 0
  | .rend => 0
  | .rendJoin _ => 0
  | .bar id => put id.toNat 0
  | .waito n a b => put n.toNat 0 + put a.toNat 33 + put b.toNat 28
  | .waitoT n a b lim => put n.toNat 0 + put a.toNat 33 + put b.toNat 28 + put lim.toNat 5 + put 1 38
  | .waitoEnd _ => 0
  | .waitoTimeout _ => 0
  | .sigo n a => put n.toNat 0 + put a.toNat 33
  | .bphase a => put a.toNat 33
  | .bphaseSnapshot _ => 0
  | .halt => 0
  | .haltRetire _ => 0
  | .cancelUnit a => put a.toNat 33
  | .cancelLaunch a => put a.toNat 33 + put 1 38
  | .cancelGraph a => put a.toNat 33 + put 2 38
  | .cancelJob a => put a.toNat 33 + put 3 38
  | .rent d a b c tier sync => put d.toNat 35 + put a.toNat 30 + put b.toNat 25 + put c.toNat 20 + put tier.toNat 17 + put sync.toNat 12
  | .renew d a b => put d.toNat 35 + put a.toNat 30 + put b.toNat 25
  | .prepay d a b c => put d.toNat 35 + put a.toNat 30 + put b.toNat 25 + put c.toNat 20
  | .sublet d a b c => put d.toNat 35 + put a.toNat 30 + put b.toNat 25 + put c.toNat 20
  | .vacate d a => put d.toNat 35 + put a.toNat 30
  | .leaseq d a f => put d.toNat 35 + put a.toNat 30 + put f.toNat 12
  | .purseq d tier f => put d.toNat 35 + put tier.toNat 17 + put f.toNat 12
  | .leaseAck _ => 0
  | .xlat h a p => put h.toNat 35 + put a.toNat 30 + put p.toNat 12
  | .hdrop h => put h.toNat 30
  | .hqry d h lo => put d.toNat 35 + put h.toNat 30 + put lo.toNat 12
  | .trap v => put v.toNat 0
  | .eret a => put a.toNat 30
  | .trapEntry _ => 0
  | .csrr d csr => put d.toNat 35 + put csr.toNat 18
  | .csrw csr a => put csr.toNat 18 + put a.toNat 30
  | .dictld e a => put e.toNat 38 + put a.toNat 33
  | .dictldComplete _ _ => 0
  | .instructionRetire _ _ _ => 0
  | .vnop => 0
  | .vadd ty d a b k mode => put ty.toNat 37 + put d.toNat 33 + put a.toNat 29 + put b.toNat 25 + put k.toNat 18 + put mode.toNat 0
  | .vsub ty d a b k mode => put ty.toNat 37 + put d.toNat 33 + put a.toNat 29 + put b.toNat 25 + put k.toNat 18 + put mode.toNat 0
  | .vmul ty d a b k mode => put ty.toNat 37 + put d.toNat 33 + put a.toNat 29 + put b.toNat 25 + put k.toNat 18 + put mode.toNat 0
  | .vfma ty d a b c k mode => put ty.toNat 37 + put d.toNat 33 + put a.toNat 29 + put b.toNat 25 + put c.toNat 21 + put k.toNat 18 + put mode.toNat 0
  | .vfms ty d a b c k mode => put ty.toNat 37 + put d.toNat 33 + put a.toNat 29 + put b.toNat 25 + put c.toNat 21 + put k.toNat 18 + put mode.toNat 0
  | .vmin ty d a b k => put ty.toNat 37 + put d.toNat 33 + put a.toNat 29 + put b.toNat 25 + put k.toNat 18
  | .vmax ty d a b k => put ty.toNat 37 + put d.toNat 33 + put a.toNat 29 + put b.toNat 25 + put k.toNat 18
  | .vabs ty d a k => put ty.toNat 37 + put d.toNat 33 + put a.toNat 29 + put k.toNat 18
  | .vneg ty d a k => put ty.toNat 37 + put d.toNat 33 + put a.toNat 29 + put k.toNat 18
  | .vrcp ty d a k => put ty.toNat 37 + put d.toNat 33 + put a.toNat 29 + put k.toNat 18
  | .vrsq ty d a k => put ty.toNat 37 + put d.toNat 33 + put a.toNat 29 + put k.toNat 18
  | .vsqrt ty d a k mode => put ty.toNat 37 + put d.toNat 33 + put a.toNat 29 + put k.toNat 18 + put mode.toNat 0
  | .vdiv ty d a b k mode => put ty.toNat 37 + put d.toNat 33 + put a.toNat 29 + put b.toNat 25 + put k.toNat 18 + put mode.toNat 0
  | .vexp2 ty d a k => put ty.toNat 37 + put d.toNat 33 + put a.toNat 29 + put k.toNat 18
  | .vlog2 ty d a k => put ty.toNat 37 + put d.toNat 33 + put a.toNat 29 + put k.toNat 18
  | .vtanh ty d a k => put ty.toNat 37 + put d.toNat 33 + put a.toNat 29 + put k.toNat 18
  | .viadd d a b k => put d.toNat 33 + put a.toNat 29 + put b.toNat 25 + put k.toNat 18 + put 1 37
  | .visub d a b k => put d.toNat 33 + put a.toNat 29 + put b.toNat 25 + put k.toNat 18 + put 1 37
  | .vimul d a b k => put d.toNat 33 + put a.toNat 29 + put b.toNat 25 + put k.toNat 18 + put 1 37
  | .vand d a b k => put d.toNat 33 + put a.toNat 29 + put b.toNat 25 + put k.toNat 18 + put 1 37
  | .vor d a b k => put d.toNat 33 + put a.toNat 29 + put b.toNat 25 + put k.toNat 18 + put 1 37
  | .vxor d a b k => put d.toNat 33 + put a.toNat 29 + put b.toNat 25 + put k.toNat 18 + put 1 37
  | .vshl d a b k im n => put d.toNat 33 + put a.toNat 29 + put b.toNat 25 + put k.toNat 18 + put im.toNat 15 + put n.toNat 0 + put 1 37
  | .vshr d a b k im n => put d.toNat 33 + put a.toNat 29 + put b.toNat 25 + put k.toNat 18 + put im.toNat 15 + put n.toNat 0 + put 1 37
  | .vsar d a b k im n => put d.toNat 33 + put a.toNat 29 + put b.toNat 25 + put k.toNat 18 + put im.toNat 15 + put n.toNat 0 + put 1 37
  | .vimin d a b k => put d.toNat 33 + put a.toNat 29 + put b.toNat 25 + put k.toNat 18 + put 1 37
  | .vimax d a b k => put d.toNat 33 + put a.toNat 29 + put b.toNat 25 + put k.toNat 18 + put 1 37
  | .vcmp ty d a b k cc => put ty.toNat 37 + put d.toNat 33 + put a.toNat 29 + put b.toNat 25 + put k.toNat 18 + put cc.toNat 0
  | .vsel ty d a b k => put ty.toNat 37 + put d.toNat 33 + put a.toNat 29 + put b.toNat 25 + put k.toNat 18
  | .vmsk d a b op m => put d.toNat 33 + put a.toNat 29 + put b.toNat 25 + put op.toNat 0 + put m.toNat 6
  | .vmpop k => put k.toNat 37
  | .vrotr ty d a k n => put ty.toNat 37 + put d.toNat 33 + put a.toNat 29 + put k.toNat 18 + put n.toNat 0
  | .vrotc ty d a k n => put ty.toNat 37 + put d.toNat 33 + put a.toNat 29 + put k.toNat 18 + put n.toNat 0
  | .vbcr ty d a k n => put ty.toNat 37 + put d.toNat 33 + put a.toNat 29 + put k.toNat 18 + put n.toNat 0
  | .vbcc ty d a k n => put ty.toNat 37 + put d.toNat 33 + put a.toNat 29 + put k.toNat 18 + put n.toNat 0
  | .vredr ty d a k ax => put ty.toNat 37 + put d.toNat 33 + put a.toNat 29 + put k.toNat 18 + put ax.toNat 16
  | .vredc ty d a k ax => put ty.toNat 37 + put d.toNat 33 + put a.toNat 29 + put k.toNat 18 + put ax.toNat 16
  | .vscanr ty d a k ax => put ty.toNat 37 + put d.toNat 33 + put a.toNat 29 + put k.toNat 18 + put ax.toNat 16
  | .vscanc ty d a k ax => put ty.toNat 37 + put d.toNat 33 + put a.toNat 29 + put k.toNat 18 + put ax.toNat 16
  | .vperm ty d a b k col => put ty.toNat 37 + put d.toNat 33 + put a.toNat 29 + put b.toNat 25 + put k.toNat 18 + put col.toNat 0
  | .vld ty d t i k adv rows => put ty.toNat 37 + put d.toNat 33 + put t.toNat 27 + put i.toNat 23 + put k.toNat 20 + put adv.toNat 4 + put rows.toNat 0
  | .vst ty d t i k adv rows => put ty.toNat 37 + put d.toNat 33 + put t.toNat 27 + put i.toNat 23 + put k.toNat 20 + put adv.toNat 4 + put rows.toNat 0
  | .vgath ty d t i k => put ty.toNat 37 + put d.toNat 33 + put t.toNat 27 + put i.toNat 23 + put k.toNat 20
  | .vscat ty d t i k => put ty.toNat 37 + put d.toNat 33 + put t.toNat 27 + put i.toNat 23 + put k.toNat 20
  | .vmap op id ia ib ta tb td => put op.toNat 32 + put id.toNat 28 + put ia.toNat 24 + put ib.toNat 20 + put ta.toNat 14 + put tb.toNat 8 + put td.toNat 2
  | .vcvt ty d a k dty mode => put ty.toNat 37 + put d.toNat 33 + put a.toNat 29 + put k.toNat 18 + put dty.toNat 3 + put mode.toNat 0
  | .vreq d a b k fmt mode nonsat code => put d.toNat 33 + put a.toNat 29 + put b.toNat 25 + put k.toNat 18 + put fmt.toNat 0 + put mode.toNat 5 + put nonsat.toNat 8 + put code.toNat 9
  | .vamax ty a k => put ty.toNat 37 + put a.toNat 29 + put k.toNat 18
  | .vrng ty d k unif => put ty.toNat 37 + put d.toNat 33 + put k.toNat 18 + put unif.toNat 0
  | .vloop l cnt len => put l.toNat 38 + put cnt.toNat 16 + put len.toNat 0
  | .vloopQ l len => put l.toNat 38 + put len.toNat 0 + put 1 37
  | .vtake => 0
  | .vdefer a k n first rows => put a.toNat 29 + put k.toNat 18 + put n.toNat 0 + put first.toNat 3 + put rows.toNat 7
  | .vdrain d c k n first rows => put d.toNat 33 + put c.toNat 21 + put k.toNat 18 + put n.toNat 0 + put first.toNat 3 + put rows.toNat 7
  | .vmov ty d a k => put ty.toNat 37 + put d.toNat 33 + put a.toNat 29 + put k.toNat 18
  | .vmovs k d => put k.toNat 37 + put d.toNat 33
  | .klds d src => put d.toNat 33 + put src.toNat 0
  | .ksts d src => put d.toNat 33 + put src.toNat 0
  | .kemit d fmt mode => put d.toNat 33 + put fmt.toNat 0 + put mode.toNat 5
  | .kstep => 0
  | .mnop => 0
  | .mnest l q f v => put l.toNat 36 + put q.toNat 30 + put f.toNat 24 + put v.toNat 0
  | .msrcaRec t cin => put t.toNat 30 + put cin.toNat 0
  | .msrcaDim ih iw => put ih.toNat 12 + put iw.toNat 0 + put 1 24
  | .msrcaRow0 q v => put q.toNat 30 + put v.toNat 0 + put 2 24
  | .msrcbRec t ncol => put t.toNat 30 + put ncol.toNat 0
  | .msrcbCol0 q v => put q.toNat 30 + put v.toNat 0 + put 1 24
  | .mdest x => put x.toNat 36
  | .mfmt first i32 => put first.toNat 1 + put i32.toNat 0
  | .mgo s => put s.toNat 24
  | .mloadb t s y n => put t.toNat 30 + put s.toNat 24 + put y.toNat 18 + put n.toNat 0
  | .mdrain x t s i32 chk nonsat mode => put x.toNat 36 + put t.toNat 30 + put s.toNat 24 + put i32.toNat 5 + put chk.toNat 4 + put nonsat.toNat 3 + put mode.toNat 0
  | .mzero s mask => put s.toNat 24 + put mask.toNat 0
  | .mchkOn s mask => put s.toNat 24 + put mask.toNat 0 + put 1 16
  | .mchkOff s mask => put s.toNat 24 + put mask.toNat 0
  | .mdry c seed s check => put c.toNat 36 + put seed.toNat 30 + put s.toNat 24 + put check.toNat 0
  | .msync => 0
  | .mOperationStart _ _ => 0
  | .mStep _ => 0
  | .nestComplete _ _ => 0
  | .xnop => 0
  | .xcopy ta tb o nonsat mode ob => put ta.toNat 34 + put tb.toNat 28 + put o.toNat 23 + put nonsat.toNat 21 + put mode.toNat 18 + put ob.toNat 17
  | .xred ta tb o r ob => put ta.toNat 34 + put tb.toNat 28 + put o.toNat 23 + put r.toNat 18 + put ob.toNat 17
  | .xgath ta tb o tx ob => put ta.toNat 34 + put tb.toNat 28 + put o.toNat 23 + put tx.toNat 18 + put ob.toNat 17
  | .xscat ta tb o tx ob => put ta.toNat 34 + put tb.toNat 28 + put o.toNat 23 + put tx.toNat 18 + put ob.toNat 17
  | .xmcast ta tb o tx ob => put ta.toNat 34 + put tb.toNat 28 + put o.toNat 23 + put tx.toNat 18 + put ob.toNat 17
  | .xrload ta tb o tx ob r => put ta.toNat 34 + put tb.toNat 28 + put o.toNat 23 + put tx.toNat 18 + put ob.toNat 17 + put r.toNat 0
  | .xatom ta tb op sz => put ta.toNat 34 + put tb.toNat 28 + put op.toNat 18 + put sz.toNat 0
  | .xsig o n => put o.toNat 23 + put n.toNat 0
  | .xsigF o n => put o.toNat 23 + put n.toNat 0 + put 1 18
  | .xdecl ta tb => put ta.toNat 34 + put tb.toNat 28
  | .xpref ta => put ta.toNat 34
  | .xcoll ta o ob => put ta.toNat 34 + put o.toNat 23 + put ob.toNat 17
  | .xksend ta tb n => put ta.toNat 34 + put tb.toNat 28 + put n.toNat 0
  | .xkfetch ta tb o ob n => put ta.toNat 34 + put tb.toNat 28 + put o.toNat 23 + put ob.toNat 17 + put n.toNat 0
  | .xkparam tb p => put tb.toNat 28 + put p.toNat 0
  | .xinv ta asid => put ta.toNat 34 + put asid.toNat 0
  | .xdrain => 0
  | .xwait o v => put o.toNat 23 + put v.toNat 0
  | .xwaitEnd _ => 0
  | .xAccept _ => 0
  | .chunkLand _ _ _ => 0
  | .xRetire _ _ => 0
  | .pktStore _ => 0
  | .pktLoad _ => 0
  | .pktAtom _ => 0
  | .pktSignal _ => 0
  | .reduceLoad _ => 0
  | .linkDown _ => 0
  | .kGrad _ => 0
  | .kSetup _ => 0
  | .kPromote _ => 0
  | .kResume _ => 0
  | .kRetire _ => 0
  | .kProgram _ => 0
  | .blockApplication _ _ _ _ => 0
  | .kweights _ => 0
  | .missing _ _ _ _ => 0
  | .keeperRegen _ _ _ _ => 0
  | .launchComplete _ => 0
  | .sliceEnd _ => 0
  | .idleSliceEnd _ => 0
  | .stall _ _ => 0
  | .preempt _ => 0
  | .escrowRenewal _ => 0
  | .arrears _ => 0
  | .lapse _ => 0
  | .reclaim _ => 0
  | .overdraft _ => 0
  | .seatBilling _ => 0
  | .scrubComplete _ => 0
  | .partShrink _ _ _ => 0
  | .partDestroy _ _ => 0
  | .jobRetire _ _ _ => 0
  | .freezeEnd _ => 0
  | .droopStepDown _ => 0
  | .graphPost _ _ _ => 0
  | .partCreate _ _ _ => 0
  | .partGrow _ _ _ => 0
  | .jobCreate _ _ _ _ => 0
  | .rateSet _ _ _ => 0
  | .purseCredit _ _ _ _ => 0
  | .coreClear _ _ => 0
  | .captureSet _ _ _ _ _ => 0
  | .replaySet _ _ _ _ _ => 0
  | .telemRead _ _ => 0
  | .getMeasurements _ _ => 0
  | .getFwInfo _ => 0
  | .transferFw _ _ _ _ => 0
  | .activateFw _ _ => 0
  | .powerLimit _ => 0
  | .packageReset _ _ _ _ _ => 0
  | .registerWrite _ _ _ => 0
  | .correctable _ _ => 0
  | .uncorrectableError _ => 0
  | .thermalThrottle _ _ => 0
  | .throttleExit _ => 0
  | .droopDetect _ => 0
  | .hostCxlMemWrite _ _ => 0
  | .flitCrcError _ => 0
  | .mcastStore _ => 0
  | .peerLost _ => 0
  | .collectiveEmit _ => 0
  | .collectiveApply _ => 0
  | .collectiveComplete _ => 0
  | .fetchServe _ _ => 0
  | .xlatWalkEnd _ _ => 0
  | .xinvAck _ _ => 0
  | .vacateComplete _ => 0
  | .barGenerationComplete _ _ => 0
  | .contextSave _ => 0
  | .unitPlace _ => 0
  | .restore _ => 0
  | .chunkStart _ _ => 0

/-- The CSR numbers that R103 assigns. -/
def csrKnown (n : Nat) : Bool :=
  n ≤ 1 || (0x10 ≤ n && n ≤ 0x12) || (0x20 ≤ n && n ≤ 0x21) || (0x30 ≤ n && n ≤ 0x34) ||
  (0x40 ≤ n && n ≤ 0x44) || (0x50 ≤ n && n ≤ 0x51) || (0x100 ≤ n && n ≤ 0x11F)

/-- The limits on operand values that a word must keep (R73 and the entries); a zero field needs no mention here, since a word with another value there is not the word of any instruction. -/
def legal (i : Instr) : Bool :=
  match i with
  | .nop => true
  | .add _ _ _ => true
  | .sub _ _ _ => true
  | .mul _ _ _ => true
  | .mulh _ _ _ => true
  | .mulhu _ _ _ => true
  | .divu _ _ _ => true
  | .remu _ _ _ => true
  | .and _ _ _ => true
  | .or _ _ _ => true
  | .xor _ _ _ => true
  | .andn _ _ _ => true
  | .shl _ _ _ => true
  | .shr _ _ _ => true
  | .sar _ _ _ => true
  | .rotl _ _ _ => true
  | .min _ _ _ => true
  | .max _ _ _ => true
  | .minu _ _ _ => true
  | .maxu _ _ _ => true
  | .clz _ _ => true
  | .popc _ _ => true
  | .addp d a b => decide (d.toNat % 2 = 0 ∧ a.toNat % 2 = 0 ∧ b.toNat % 2 = 0)
  | .addi _ _ _ => true
  | .andi _ _ _ => true
  | .ori _ _ _ => true
  | .xori _ _ _ => true
  | .shli _ _ imm => decide (imm.toNat ≤ 63)
  | .shri _ _ imm => decide (imm.toNat ≤ 63)
  | .sari _ _ imm => decide (imm.toNat ≤ 63)
  | .movi _ _ => true
  | .immx _ => true
  | .packed cnt _ c1 c2 => decide (cnt ≠ 3 ∧ (cnt = 0 → c1 = 0) ∧ (cnt ≠ 2 → c2 = 0))
  | .cmp g cc _ _ => decide (g.toNat < 12 ∧ cc.toNat ≤ 5)
  | .cmpi g cc _ _ => decide (g.toNat < 12 ∧ cc.toNat ≤ 5)
  | .gset g _ => decide (g.toNat < 12)
  | .gcomb g cc h j => decide (g.toNat < 12 ∧ cc.toNat ≤ 3 ∧ h.toNat < 12 ∧ j.toNat < 12)
  | .prepImm g _ => decide (g.toNat < 12)
  | .prepReg g _ => decide (g.toNat < 12)
  | .go g cc => decide (g.toNat < 12 ∧ cc.toNat ≤ 2)
  | .gol g cc _ => decide (g.toNat < 12 ∧ cc.toNat ≤ 2)
  | .loop _ _ len => decide (len ≠ 0)
  | .ld _ _ _ _ _ => true
  | .st _ _ _ _ _ => true
  | .ldt _ _ _ t _ => decide (t.toNat ≠ 63)
  | .stt _ _ _ t _ => decide (t.toNat ≠ 63)
  | .amo _ _ _ op _ => decide (op.toNat ≤ 8)
  | .cas _ _ _ _ _ => true
  | .tdset _ _ => true
  | .tdsetBase _ _ => true
  | .tdsetExt _ _ => true
  | .tdget _ _ => true
  | .tdgetBase _ _ => true
  | .itset _ _ => true
  | .itsetIdx _ _ => true
  | .itget _ _ => true
  | .itgetIdx _ _ => true
  | .qpush q _ => decide (q.toNat ≤ 1)
  | .qmask _ => true
  | .qflush q _ => decide (q.toNat ≤ 1)
  | .enqr _ _ => true
  | .enqrT _ _ g _ => decide (g.toNat < 12)
  | .enqrQueued _ => true
  | .enqrTimeout _ => true
  | .fork _ => true
  | .streamEnd _ _ => true
  | .rend => true
  | .rendJoin _ => true
  | .bar _ => true
  | .waito _ _ _ => true
  | .waitoT _ _ _ _ => true
  | .waitoEnd _ => true
  | .waitoTimeout _ => true
  | .sigo _ _ => true
  | .bphase _ => true
  | .bphaseSnapshot _ => true
  | .halt => true
  | .haltRetire _ => true
  | .cancelUnit _ => true
  | .cancelLaunch _ => true
  | .cancelGraph _ => true
  | .cancelJob _ => true
  | .rent _ _ _ _ tier _ => decide (tier.toNat ≤ 4)
  | .renew _ _ _ => true
  | .prepay _ _ _ _ => true
  | .sublet _ _ b c => decide (b.toNat % 2 = 0 ∧ c.toNat % 2 = 0)
  | .vacate _ _ => true
  | .leaseq _ _ _ => true
  | .purseq _ tier f => decide (f.toNat ≤ 4 ∧ tier.toNat ≤ 4 ∧ (f.toNat ≠ 4 → tier = 0))
  | .leaseAck _ => true
  | .xlat _ _ p => decide (p ≠ 0)
  | .hdrop _ => true
  | .hqry _ _ _ => true
  | .trap _ => true
  | .eret _ => true
  | .trapEntry _ => true
  | .csrr _ csr => decide (csrKnown csr.toNat = true)
  | .csrw csr _ => decide (csrKnown csr.toNat = true)
  | .dictld _ _ => true
  | .dictldComplete _ _ => true
  | .instructionRetire _ _ _ => true
  | .vnop => true
  | .vadd ty _ _ _ _ mode => decide (ty.toNat ≠ 1 ∧ ty.toNat ≤ 3 ∧ mode.toNat ≤ 4)
  | .vsub ty _ _ _ _ mode => decide (ty.toNat ≠ 1 ∧ ty.toNat ≤ 3 ∧ mode.toNat ≤ 4)
  | .vmul ty _ _ _ _ mode => decide (ty.toNat ≠ 1 ∧ ty.toNat ≤ 3 ∧ mode.toNat ≤ 4)
  | .vfma ty _ _ _ _ _ mode => decide (ty.toNat ≠ 1 ∧ ty.toNat ≤ 3 ∧ mode.toNat ≤ 4)
  | .vfms ty _ _ _ _ _ mode => decide (ty.toNat ≠ 1 ∧ ty.toNat ≤ 3 ∧ mode.toNat ≤ 4)
  | .vmin ty _ _ _ _ => decide (ty.toNat ≠ 1 ∧ ty.toNat ≤ 3)
  | .vmax ty _ _ _ _ => decide (ty.toNat ≠ 1 ∧ ty.toNat ≤ 3)
  | .vabs ty _ _ _ => decide (ty.toNat ≠ 1 ∧ ty.toNat ≤ 3)
  | .vneg ty _ _ _ => decide (ty.toNat ≠ 1 ∧ ty.toNat ≤ 3)
  | .vrcp ty _ _ _ => decide (ty.toNat ≠ 1 ∧ ty.toNat ≤ 3)
  | .vrsq ty _ _ _ => decide (ty.toNat ≠ 1 ∧ ty.toNat ≤ 3)
  | .vsqrt ty _ _ _ mode => decide (ty.toNat ≠ 1 ∧ ty.toNat ≤ 3 ∧ mode.toNat ≤ 4)
  | .vdiv ty _ _ _ _ mode => decide (ty.toNat ≠ 1 ∧ ty.toNat ≤ 3 ∧ mode.toNat ≤ 4)
  | .vexp2 ty _ _ _ => decide (ty.toNat ≠ 1 ∧ ty.toNat ≤ 3)
  | .vlog2 ty _ _ _ => decide (ty.toNat ≠ 1 ∧ ty.toNat ≤ 3)
  | .vtanh ty _ _ _ => decide (ty.toNat ≠ 1 ∧ ty.toNat ≤ 3)
  | .viadd _ _ _ _ => true
  | .visub _ _ _ _ => true
  | .vimul _ _ _ _ => true
  | .vand _ _ _ _ => true
  | .vor _ _ _ _ => true
  | .vxor _ _ _ _ => true
  | .vshl _ _ b _ im n => decide ((im = 0 → n = 0) ∧ (im = 1 → b = 0))
  | .vshr _ _ b _ im n => decide ((im = 0 → n = 0) ∧ (im = 1 → b = 0))
  | .vsar _ _ b _ im n => decide ((im = 0 → n = 0) ∧ (im = 1 → b = 0))
  | .vimin _ _ _ _ => true
  | .vimax _ _ _ _ => true
  | .vcmp ty d _ _ _ cc => decide (ty.toNat ≤ 3 ∧ cc.toNat ≤ 5 ∧ d.toNat ≤ 7)
  | .vsel ty _ _ _ _ => decide (ty.toNat ≤ 3)
  | .vmsk d a b op m => decide (op.toNat ≠ 7 ∧ d.toNat ≤ 7 ∧ a.toNat ≤ 7 ∧ b.toNat ≤ 7 ∧ (op.toNat ≤ 4 → m = 0) ∧ (op.toNat = 4 → b = 0) ∧ (op.toNat ≥ 5 → a = 0 ∧ b = 0) ∧ (op.toNat = 5 → m.toNat ≤ 64) ∧ (op.toNat = 6 → m.toNat ≤ 16))
  | .vmpop _ => true
  | .vrotr ty _ _ _ _ => decide (ty.toNat ≤ 3)
  | .vrotc ty _ _ _ _ => decide (ty.toNat ≤ 3)
  | .vbcr ty _ _ _ _ => decide (ty.toNat ≤ 3)
  | .vbcc ty _ _ _ _ => decide (ty.toNat ≤ 3)
  | .vredr ty _ _ _ _ => decide (ty.toNat ≤ 3)
  | .vredc ty _ _ _ _ => decide (ty.toNat ≤ 3)
  | .vscanr ty _ _ _ _ => decide (ty.toNat ≤ 3)
  | .vscanc ty _ _ _ _ => decide (ty.toNat ≤ 3)
  | .vperm ty _ _ _ _ _ => decide (ty.toNat ≤ 3)
  | .vld ty _ _ _ _ _ _ => decide (ty.toNat ≤ 3)
  | .vst ty _ _ _ _ _ _ => decide (ty.toNat ≤ 3)
  | .vgath ty _ _ _ _ => decide (ty.toNat ≤ 3)
  | .vscat ty _ _ _ _ => decide (ty.toNat ≤ 3)
  | .vmap op _ _ _ _ _ _ => decide (((1 ≤ op.toNat ∧ op.toNat ≤ 0x10) ∨ (0x18 ≤ op.toNat ∧ op.toNat ≤ 0x22)))
  | .vcvt ty _ _ _ dty mode => decide (ty.toNat ≤ 3 ∧ dty.toNat ≤ 3 ∧ mode.toNat ≤ 4)
  | .vreq _ _ _ _ fmt mode nonsat _ => decide ((fmt.toNat ≤ 0xB ∨ fmt.toNat = 0x13) ∧ mode.toNat ≤ 4 ∧ (nonsat = 1 → 3 ≤ fmt.toNat ∧ fmt.toNat ≤ 7))
  | .vamax ty _ _ => decide (ty.toNat ≠ 1 ∧ ty.toNat ≤ 3)
  | .vrng ty _ _ unif => decide ((unif = 0 ∧ ty = 1) ∨ (unif = 1 ∧ ty = 0))
  | .vloop _ cnt len => decide (cnt ≠ 0 ∧ len ≠ 0)
  | .vloopQ _ len => decide (len ≠ 0)
  | .vtake => true
  | .vdefer a _ n first rows => decide (a.toNat + n.toNat ≤ 15 ∧ first.toNat + rows.toNat ≤ 15)
  | .vdrain d c _ n first rows => decide (d.toNat + n.toNat ≤ 15 ∧ first.toNat + rows.toNat ≤ 15 ∧ (c.toNat < d.toNat ∨ d.toNat + n.toNat < c.toNat))
  | .vmov ty _ _ _ => decide (ty.toNat ≤ 3)
  | .vmovs _ _ => true
  | .klds _ src => decide (src.toNat ≤ 8 ∨ (32 ≤ src.toNat ∧ src.toNat ≤ 63))
  | .ksts _ _ => true
  | .kemit _ fmt mode => decide (fmt.toNat ≤ 0x13 ∧ (mode.toNat = 0 ∨ mode.toNat = 4))
  | .kstep => true
  | .mnop => true
  | .mnest l q f v => decide (l.toNat ≤ 5 ∧ f.toNat ≤ 4 ∧ (q = 1 → v = 0) ∧ (f.toNat = 0 → v.toNat < 4096) ∧ (f.toNat = 4 → v.toNat < 16))
  | .msrcaRec _ _ => true
  | .msrcaDim _ _ => true
  | .msrcaRow0 q v => decide (q = 1 → v = 0)
  | .msrcbRec _ _ => true
  | .msrcbCol0 q v => decide (q = 1 → v = 0)
  | .mdest _ => true
  | .mfmt _ _ => true
  | .mgo _ => true
  | .mloadb _ _ _ _ => true
  | .mdrain _ _ _ _ _ _ mode => decide (mode.toNat ≤ 4)
  | .mzero _ mask => decide (mask ≠ 0)
  | .mchkOn _ mask => decide (mask ≠ 0)
  | .mchkOff _ mask => decide (mask ≠ 0)
  | .mdry c _ _ _ => decide (c.toNat ≤ 2)
  | .msync => true
  | .mOperationStart _ _ => true
  | .mStep _ => true
  | .nestComplete _ _ => true
  | .xnop => true
  | .xcopy _ _ o _ mode ob => decide ((ob = 0 → o = 0) ∧ mode.toNat ≤ 4)
  | .xred _ _ o _ ob => decide ((ob = 0 → o = 0))
  | .xgath _ _ o _ ob => decide ((ob = 0 → o = 0))
  | .xscat _ _ o _ ob => decide ((ob = 0 → o = 0))
  | .xmcast _ _ o _ ob => decide ((ob = 0 → o = 0))
  | .xrload _ _ o _ ob _ => decide ((ob = 0 → o = 0))
  | .xatom _ _ op _ => decide (op.toNat ≤ 9)
  | .xsig _ n => decide (n ≠ 0)
  | .xsigF _ n => decide (n ≠ 0)
  | .xdecl _ _ => true
  | .xpref _ => true
  | .xcoll _ o ob => decide ((ob = 0 → o = 0))
  | .xksend _ _ _ => true
  | .xkfetch _ _ o ob _ => decide ((ob = 0 → o = 0))
  | .xkparam _ _ => true
  | .xinv _ _ => true
  | .xdrain => true
  | .xwait _ _ => true
  | .xwaitEnd _ => true
  | .xAccept _ => true
  | .chunkLand _ _ _ => true
  | .xRetire _ _ => true
  | .pktStore _ => true
  | .pktLoad _ => true
  | .pktAtom _ => true
  | .pktSignal _ => true
  | .reduceLoad _ => true
  | .linkDown _ => true
  | .kGrad _ => true
  | .kSetup _ => true
  | .kPromote _ => true
  | .kResume _ => true
  | .kRetire _ => true
  | .kProgram _ => true
  | .blockApplication _ _ _ _ => true
  | .kweights _ => true
  | .missing _ _ _ _ => true
  | .keeperRegen _ _ _ _ => true
  | .launchComplete _ => true
  | .sliceEnd _ => true
  | .idleSliceEnd _ => true
  | .stall _ _ => true
  | .preempt _ => true
  | .escrowRenewal _ => true
  | .arrears _ => true
  | .lapse _ => true
  | .reclaim _ => true
  | .overdraft _ => true
  | .seatBilling _ => true
  | .scrubComplete _ => true
  | .partShrink _ _ _ => true
  | .partDestroy _ _ => true
  | .jobRetire _ _ _ => true
  | .freezeEnd _ => true
  | .droopStepDown _ => true
  | .graphPost _ _ _ => true
  | .partCreate _ _ _ => true
  | .partGrow _ _ _ => true
  | .jobCreate _ _ _ _ => true
  | .rateSet _ _ _ => true
  | .purseCredit _ _ _ _ => true
  | .coreClear _ _ => true
  | .captureSet _ _ _ _ _ => true
  | .replaySet _ _ _ _ _ => true
  | .telemRead _ _ => true
  | .getMeasurements _ _ => true
  | .getFwInfo _ => true
  | .transferFw _ _ _ _ => true
  | .activateFw _ _ => true
  | .powerLimit _ => true
  | .packageReset _ _ _ _ _ => true
  | .registerWrite _ _ _ => true
  | .correctable _ _ => true
  | .uncorrectableError _ => true
  | .thermalThrottle _ _ => true
  | .throttleExit _ => true
  | .droopDetect _ => true
  | .hostCxlMemWrite _ _ => true
  | .flitCrcError _ => true
  | .mcastStore _ => true
  | .peerLost _ => true
  | .collectiveEmit _ => true
  | .collectiveApply _ => true
  | .collectiveComplete _ => true
  | .fetchServe _ _ => true
  | .xlatWalkEnd _ _ => true
  | .xinvAck _ _ => true
  | .vacateComplete _ => true
  | .barGenerationComplete _ _ => true
  | .contextSave _ => true
  | .unitPlace _ => true
  | .restore _ => true
  | .chunkStart _ _ => true

end Sys2Proof.Machine
end

