-- ==== Sys2Proof/WellFormed.lean ====
section
/-! DEFINITION. Which instructions are well formed: those whose operand values R73 and the entries admit. -/

namespace Sys2Proof

/-- The operand values of `i` are ones that the manual admits (R73). -/
def Instr.wf (i : Instr) : Bool := Machine.legal i

/-- `i` is carried by an instruction word, and not an event. -/
def Instr.isWord (i : Instr) : Bool := (Machine.opOf i).isSome

end Sys2Proof
end

