-- ==== Sys2Proof/Decode.lean ====
section
/-! DEFINITION. The decoder and the encoder of instruction words (R57 to R73). -/

namespace Sys2Proof

open Machine (fld fldN put toBytes ofBytes legal operandsOf opOf)

/-- Engine numbers (R58). -/
def Engine.num : Engine → Nat
  | .c => 0
  | .v => 1
  | .m => 2
  | .x => 3

/-- The engine of a number. -/
def engineOf (n : Nat) : Engine :=
  match n % 4 with
  | 0 => .c
  | 1 => .v
  | 2 => .m
  | _ => .x

/-- What orders a word against the other engines: the tokens it pops, and the engines it signals (R58, R59). -/
structure Frame where
  wait : Option (Engine × Nat)
  signal : BitVec 4
  deriving DecidableEq, Repr, Inhabited

/-- What a word is. -/
inductive Decoded where
  | ok (f : Frame) (i : Instr)
  | illop
  deriving DecidableEq, Repr, Inhabited

/-- The row of an opcode of engine C, with the operand fields of `w` in their places (R66 to R72). -/
def rowC (op w : Nat) : Option Instr :=
  match op with
  | 0x00 => some (.nop)
  | 0x01 => some (.add (fld w 35 5) (fld w 30 5) (fld w 25 5))
  | 0x02 => some (.sub (fld w 35 5) (fld w 30 5) (fld w 25 5))
  | 0x03 => some (.mul (fld w 35 5) (fld w 30 5) (fld w 25 5))
  | 0x04 => some (.mulh (fld w 35 5) (fld w 30 5) (fld w 25 5))
  | 0x05 => some (.mulhu (fld w 35 5) (fld w 30 5) (fld w 25 5))
  | 0x06 => some (.divu (fld w 35 5) (fld w 30 5) (fld w 25 5))
  | 0x07 => some (.remu (fld w 35 5) (fld w 30 5) (fld w 25 5))
  | 0x08 => some (.and (fld w 35 5) (fld w 30 5) (fld w 25 5))
  | 0x09 => some (.or (fld w 35 5) (fld w 30 5) (fld w 25 5))
  | 0x0A => some (.xor (fld w 35 5) (fld w 30 5) (fld w 25 5))
  | 0x0B => some (.andn (fld w 35 5) (fld w 30 5) (fld w 25 5))
  | 0x0C => some (.shl (fld w 35 5) (fld w 30 5) (fld w 25 5))
  | 0x0D => some (.shr (fld w 35 5) (fld w 30 5) (fld w 25 5))
  | 0x0E => some (.sar (fld w 35 5) (fld w 30 5) (fld w 25 5))
  | 0x0F => some (.rotl (fld w 35 5) (fld w 30 5) (fld w 25 5))
  | 0x10 => some (.min (fld w 35 5) (fld w 30 5) (fld w 25 5))
  | 0x11 => some (.max (fld w 35 5) (fld w 30 5) (fld w 25 5))
  | 0x12 => some (.minu (fld w 35 5) (fld w 30 5) (fld w 25 5))
  | 0x13 => some (.maxu (fld w 35 5) (fld w 30 5) (fld w 25 5))
  | 0x14 => some (.clz (fld w 35 5) (fld w 30 5))
  | 0x15 => some (.popc (fld w 35 5) (fld w 30 5))
  | 0x16 => some (.addp (fld w 35 5) (fld w 30 5) (fld w 25 5))
  | 0x20 => some (.addi (fld w 35 5) (fld w 30 5) (fld w 0 30))
  | 0x21 => some (.andi (fld w 35 5) (fld w 30 5) (fld w 0 30))
  | 0x22 => some (.ori (fld w 35 5) (fld w 30 5) (fld w 0 30))
  | 0x23 => some (.xori (fld w 35 5) (fld w 30 5) (fld w 0 30))
  | 0x24 => some (.shli (fld w 35 5) (fld w 30 5) (fld w 0 30))
  | 0x25 => some (.shri (fld w 35 5) (fld w 30 5) (fld w 0 30))
  | 0x26 => some (.sari (fld w 35 5) (fld w 30 5) (fld w 0 30))
  | 0x27 => some (.movi (fld w 35 5) (fld w 0 30))
  | 0x28 => some (.immx (fld w 0 40))
  | 0x30 => some (.cmp (fld w 36 4) (fld w 32 4) (fld w 27 5) (fld w 22 5))
  | 0x31 => some (.cmpi (fld w 36 4) (fld w 32 4) (fld w 27 5) (fld w 0 22))
  | 0x32 => some (.gset (fld w 36 4) (fld w 27 5))
  | 0x33 => some (.gcomb (fld w 36 4) (fld w 32 4) (fld w 27 4) (fld w 22 4))
  | 0x34 => match fldN w 32 4 with
    | 0 => some (.prepImm (fld w 36 4) (fld w 0 17))
    | 1 => some (.prepReg (fld w 36 4) (fld w 27 5))
    | _ => none
  | 0x35 => some (.go (fld w 36 4) (fld w 32 4))
  | 0x36 => some (.gol (fld w 36 4) (fld w 32 4) (fld w 27 5))
  | 0x37 => some (.loop (fld w 38 2) (fld w 33 5) (fld w 0 16))
  | 0x40 => some (.ld (fld w 35 5) (fld w 30 5) (fld w 28 2) (fld w 22 6) (fld w 0 22))
  | 0x41 => some (.st (fld w 35 5) (fld w 30 5) (fld w 28 2) (fld w 22 6) (fld w 0 22))
  | 0x42 => some (.ldt (fld w 35 5) (fld w 30 5) (fld w 28 2) (fld w 22 6) (fld w 0 22))
  | 0x43 => some (.stt (fld w 35 5) (fld w 30 5) (fld w 28 2) (fld w 22 6) (fld w 0 22))
  | 0x44 => some (.amo (fld w 35 5) (fld w 30 5) (fld w 25 5) (fld w 16 4) (fld w 15 1))
  | 0x45 => some (.cas (fld w 35 5) (fld w 30 5) (fld w 25 5) (fld w 20 5) (fld w 15 1))
  | 0x48 => match fldN w 38 2 with
    | 0 => some (.tdset (fld w 0 6) (fld w 33 5))
    | 1 => some (.tdsetBase (fld w 0 6) (fld w 28 5))
    | 2 => some (.tdsetExt (fld w 0 6) (fld w 28 5))
    | _ => none
  | 0x49 => match fldN w 38 2 with
    | 0 => some (.tdget (fld w 0 6) (fld w 33 5))
    | 1 => some (.tdgetBase (fld w 0 6) (fld w 33 5))
    | _ => none
  | 0x4A => match fldN w 38 2 with
    | 0 => some (.itset (fld w 0 4) (fld w 33 5))
    | 1 => some (.itsetIdx (fld w 0 4) (fld w 28 5))
    | _ => none
  | 0x4B => match fldN w 38 2 with
    | 0 => some (.itget (fld w 0 4) (fld w 33 5))
    | 1 => some (.itgetIdx (fld w 0 4) (fld w 33 5))
    | _ => none
  | 0x50 => some (.qpush (fld w 38 2) (fld w 33 5))
  | 0x51 => some (.qmask (fld w 33 5))
  | 0x52 => some (.qflush (fld w 38 2) (fld w 0 17))
  | 0x53 => match fldN w 38 2 with
    | 0 => some (.enqr (fld w 33 5) (fld w 28 5))
    | 1 => some (.enqrT (fld w 33 5) (fld w 28 5) (fld w 24 4) (fld w 0 22))
    | _ => none
  | 0x54 => some (.fork (fld w 33 5))
  | 0x55 => some (.rend)
  | 0x56 => some (.bar (fld w 0 4))
  | 0x57 => match fldN w 38 2 with
    | 0 => some (.waito (fld w 0 5) (fld w 33 5) (fld w 28 5))
    | 1 => some (.waitoT (fld w 0 5) (fld w 33 5) (fld w 28 5) (fld w 5 23))
    | _ => none
  | 0x58 => some (.sigo (fld w 0 5) (fld w 33 5))
  | 0x59 => some (.bphase (fld w 33 5))
  | 0x5A => some (.halt)
  | 0x5B => match fldN w 38 2 with
    | 0 => some (.cancelUnit (fld w 33 5))
    | 1 => some (.cancelLaunch (fld w 33 5))
    | 2 => some (.cancelGraph (fld w 33 5))
    | 3 => some (.cancelJob (fld w 33 5))
    | _ => none
  | 0x60 => some (.rent (fld w 35 5) (fld w 30 5) (fld w 25 5) (fld w 20 5) (fld w 17 3) (fld w 12 1))
  | 0x61 => some (.renew (fld w 35 5) (fld w 30 5) (fld w 25 5))
  | 0x62 => some (.prepay (fld w 35 5) (fld w 30 5) (fld w 25 5) (fld w 20 5))
  | 0x63 => some (.sublet (fld w 35 5) (fld w 30 5) (fld w 25 5) (fld w 20 5))
  | 0x64 => some (.vacate (fld w 35 5) (fld w 30 5))
  | 0x65 => some (.leaseq (fld w 35 5) (fld w 30 5) (fld w 12 3))
  | 0x66 => some (.purseq (fld w 35 5) (fld w 17 3) (fld w 12 3))
  | 0x68 => some (.xlat (fld w 35 5) (fld w 30 5) (fld w 12 2))
  | 0x69 => some (.hdrop (fld w 30 5))
  | 0x6A => some (.hqry (fld w 35 5) (fld w 30 5) (fld w 12 1))
  | 0x70 => some (.trap (fld w 0 15))
  | 0x71 => some (.eret (fld w 30 5))
  | 0x72 => some (.csrr (fld w 35 5) (fld w 18 12))
  | 0x73 => some (.csrw (fld w 18 12) (fld w 30 5))
  | 0x74 => some (.dictld (fld w 38 2) (fld w 33 5))
  | _ => none

/-- The row of an opcode of engine V, with the operand fields of `w` in their places (R66 to R72). -/
def rowV (op w : Nat) : Option Instr :=
  match op with
  | 0x00 => some (.vnop)
  | 0x01 => some (.vadd (fld w 37 3) (fld w 33 4) (fld w 29 4) (fld w 25 4) (fld w 18 3) (fld w 0 3))
  | 0x02 => some (.vsub (fld w 37 3) (fld w 33 4) (fld w 29 4) (fld w 25 4) (fld w 18 3) (fld w 0 3))
  | 0x03 => some (.vmul (fld w 37 3) (fld w 33 4) (fld w 29 4) (fld w 25 4) (fld w 18 3) (fld w 0 3))
  | 0x04 => some (.vfma (fld w 37 3) (fld w 33 4) (fld w 29 4) (fld w 25 4) (fld w 21 4) (fld w 18 3) (fld w 0 3))
  | 0x05 => some (.vfms (fld w 37 3) (fld w 33 4) (fld w 29 4) (fld w 25 4) (fld w 21 4) (fld w 18 3) (fld w 0 3))
  | 0x06 => some (.vmin (fld w 37 3) (fld w 33 4) (fld w 29 4) (fld w 25 4) (fld w 18 3))
  | 0x07 => some (.vmax (fld w 37 3) (fld w 33 4) (fld w 29 4) (fld w 25 4) (fld w 18 3))
  | 0x08 => some (.vabs (fld w 37 3) (fld w 33 4) (fld w 29 4) (fld w 18 3))
  | 0x09 => some (.vneg (fld w 37 3) (fld w 33 4) (fld w 29 4) (fld w 18 3))
  | 0x0A => some (.vrcp (fld w 37 3) (fld w 33 4) (fld w 29 4) (fld w 18 3))
  | 0x0B => some (.vrsq (fld w 37 3) (fld w 33 4) (fld w 29 4) (fld w 18 3))
  | 0x0C => some (.vsqrt (fld w 37 3) (fld w 33 4) (fld w 29 4) (fld w 18 3) (fld w 0 3))
  | 0x0D => some (.vdiv (fld w 37 3) (fld w 33 4) (fld w 29 4) (fld w 25 4) (fld w 18 3) (fld w 0 3))
  | 0x0E => some (.vexp2 (fld w 37 3) (fld w 33 4) (fld w 29 4) (fld w 18 3))
  | 0x0F => some (.vlog2 (fld w 37 3) (fld w 33 4) (fld w 29 4) (fld w 18 3))
  | 0x10 => some (.vtanh (fld w 37 3) (fld w 33 4) (fld w 29 4) (fld w 18 3))
  | 0x18 => some (.viadd (fld w 33 4) (fld w 29 4) (fld w 25 4) (fld w 18 3))
  | 0x19 => some (.visub (fld w 33 4) (fld w 29 4) (fld w 25 4) (fld w 18 3))
  | 0x1A => some (.vimul (fld w 33 4) (fld w 29 4) (fld w 25 4) (fld w 18 3))
  | 0x1B => some (.vand (fld w 33 4) (fld w 29 4) (fld w 25 4) (fld w 18 3))
  | 0x1C => some (.vor (fld w 33 4) (fld w 29 4) (fld w 25 4) (fld w 18 3))
  | 0x1D => some (.vxor (fld w 33 4) (fld w 29 4) (fld w 25 4) (fld w 18 3))
  | 0x1E => some (.vshl (fld w 33 4) (fld w 29 4) (fld w 25 4) (fld w 18 3) (fld w 15 1) (fld w 0 5))
  | 0x1F => some (.vshr (fld w 33 4) (fld w 29 4) (fld w 25 4) (fld w 18 3) (fld w 15 1) (fld w 0 5))
  | 0x20 => some (.vsar (fld w 33 4) (fld w 29 4) (fld w 25 4) (fld w 18 3) (fld w 15 1) (fld w 0 5))
  | 0x21 => some (.vimin (fld w 33 4) (fld w 29 4) (fld w 25 4) (fld w 18 3))
  | 0x22 => some (.vimax (fld w 33 4) (fld w 29 4) (fld w 25 4) (fld w 18 3))
  | 0x28 => some (.vcmp (fld w 37 3) (fld w 33 4) (fld w 29 4) (fld w 25 4) (fld w 18 3) (fld w 0 3))
  | 0x29 => some (.vsel (fld w 37 3) (fld w 33 4) (fld w 29 4) (fld w 25 4) (fld w 18 3))
  | 0x2A => some (.vmsk (fld w 33 4) (fld w 29 4) (fld w 25 4) (fld w 0 3) (fld w 6 7))
  | 0x2B => some (.vmpop (fld w 37 3))
  | 0x30 => some (.vrotr (fld w 37 3) (fld w 33 4) (fld w 29 4) (fld w 18 3) (fld w 0 6))
  | 0x31 => some (.vrotc (fld w 37 3) (fld w 33 4) (fld w 29 4) (fld w 18 3) (fld w 0 4))
  | 0x32 => some (.vbcr (fld w 37 3) (fld w 33 4) (fld w 29 4) (fld w 18 3) (fld w 0 6))
  | 0x33 => some (.vbcc (fld w 37 3) (fld w 33 4) (fld w 29 4) (fld w 18 3) (fld w 0 4))
  | 0x34 => some (.vredr (fld w 37 3) (fld w 33 4) (fld w 29 4) (fld w 18 3) (fld w 16 2))
  | 0x35 => some (.vredc (fld w 37 3) (fld w 33 4) (fld w 29 4) (fld w 18 3) (fld w 16 2))
  | 0x36 => some (.vscanr (fld w 37 3) (fld w 33 4) (fld w 29 4) (fld w 18 3) (fld w 16 2))
  | 0x37 => some (.vscanc (fld w 37 3) (fld w 33 4) (fld w 29 4) (fld w 18 3) (fld w 16 2))
  | 0x38 => some (.vperm (fld w 37 3) (fld w 33 4) (fld w 29 4) (fld w 25 4) (fld w 18 3) (fld w 0 1))
  | 0x40 => some (.vld (fld w 37 3) (fld w 33 4) (fld w 27 6) (fld w 23 4) (fld w 20 3) (fld w 4 1) (fld w 0 4))
  | 0x41 => some (.vst (fld w 37 3) (fld w 33 4) (fld w 27 6) (fld w 23 4) (fld w 20 3) (fld w 4 1) (fld w 0 4))
  | 0x42 => some (.vgath (fld w 37 3) (fld w 33 4) (fld w 27 6) (fld w 23 4) (fld w 20 3))
  | 0x43 => some (.vscat (fld w 37 3) (fld w 33 4) (fld w 27 6) (fld w 23 4) (fld w 20 3))
  | 0x44 => some (.vmap (fld w 32 8) (fld w 28 4) (fld w 24 4) (fld w 20 4) (fld w 14 6) (fld w 8 6) (fld w 2 6))
  | 0x48 => some (.vcvt (fld w 37 3) (fld w 33 4) (fld w 29 4) (fld w 18 3) (fld w 3 3) (fld w 0 3))
  | 0x49 => some (.vreq (fld w 33 4) (fld w 29 4) (fld w 25 4) (fld w 18 3) (fld w 0 5) (fld w 5 3) (fld w 8 1) (fld w 9 1))
  | 0x4A => some (.vamax (fld w 37 3) (fld w 29 4) (fld w 18 3))
  | 0x4C => some (.vrng (fld w 37 3) (fld w 33 4) (fld w 18 3) (fld w 0 2))
  | 0x50 => match fldN w 37 1 with
    | 0 => some (.vloop (fld w 38 2) (fld w 16 21) (fld w 0 16))
    | 1 => some (.vloopQ (fld w 38 2) (fld w 0 16))
    | _ => none
  | 0x51 => some (.vtake)
  | 0x54 => some (.vdefer (fld w 29 4) (fld w 18 3) (fld w 0 3) (fld w 3 4) (fld w 7 4))
  | 0x55 => some (.vdrain (fld w 33 4) (fld w 21 4) (fld w 18 3) (fld w 0 3) (fld w 3 4) (fld w 7 4))
  | 0x58 => some (.vmov (fld w 37 3) (fld w 33 4) (fld w 29 4) (fld w 18 3))
  | 0x59 => some (.vmovs (fld w 37 3) (fld w 33 4))
  | 0x60 => some (.klds (fld w 33 4) (fld w 0 8))
  | 0x61 => some (.ksts (fld w 33 4) (fld w 0 3))
  | 0x62 => some (.kemit (fld w 33 4) (fld w 0 5) (fld w 5 3))
  | 0x63 => some (.kstep)
  | _ => none

/-- The row of an opcode of engine M, with the operand fields of `w` in their places (R66 to R72). -/
def rowM (op w : Nat) : Option Instr :=
  match op with
  | 0x00 => some (.mnop)
  | 0x01 => some (.mnest (fld w 36 4) (fld w 30 1) (fld w 24 6) (fld w 0 24))
  | 0x02 => match fldN w 24 6 with
    | 0 => some (.msrcaRec (fld w 30 6) (fld w 0 12))
    | 1 => some (.msrcaDim (fld w 12 12) (fld w 0 12))
    | 2 => some (.msrcaRow0 (fld w 30 1) (fld w 0 24))
    | _ => none
  | 0x03 => match fldN w 24 6 with
    | 0 => some (.msrcbRec (fld w 30 6) (fld w 0 12))
    | 1 => some (.msrcbCol0 (fld w 30 1) (fld w 0 24))
    | _ => none
  | 0x04 => some (.mdest (fld w 36 4))
  | 0x05 => some (.mfmt (fld w 1 1) (fld w 0 1))
  | 0x06 => some (.mgo (fld w 24 2))
  | 0x07 => some (.mloadb (fld w 30 6) (fld w 24 2) (fld w 18 6) (fld w 0 12))
  | 0x08 => some (.mdrain (fld w 36 4) (fld w 30 6) (fld w 24 2) (fld w 5 1) (fld w 4 1) (fld w 3 1) (fld w 0 3))
  | 0x09 => some (.mzero (fld w 24 2) (fld w 0 16))
  | 0x0A => match fldN w 16 1 with
    | 1 => some (.mchkOn (fld w 24 2) (fld w 0 16))
    | 0 => some (.mchkOff (fld w 24 2) (fld w 0 16))
    | _ => none
  | 0x0B => some (.mdry (fld w 36 4) (fld w 30 6) (fld w 24 2) (fld w 0 24))
  | 0x0C => some (.msync)
  | _ => none

/-- The row of an opcode of engine X, with the operand fields of `w` in their places (R66 to R72). -/
def rowX (op w : Nat) : Option Instr :=
  match op with
  | 0x00 => some (.xnop)
  | 0x01 => some (.xcopy (fld w 34 6) (fld w 28 6) (fld w 23 5) (fld w 21 1) (fld w 18 3) (fld w 17 1))
  | 0x02 => some (.xred (fld w 34 6) (fld w 28 6) (fld w 23 5) (fld w 18 2) (fld w 17 1))
  | 0x03 => some (.xgath (fld w 34 6) (fld w 28 6) (fld w 23 5) (fld w 18 5) (fld w 17 1))
  | 0x04 => some (.xscat (fld w 34 6) (fld w 28 6) (fld w 23 5) (fld w 18 5) (fld w 17 1))
  | 0x05 => some (.xmcast (fld w 34 6) (fld w 28 6) (fld w 23 5) (fld w 18 5) (fld w 17 1))
  | 0x06 => some (.xrload (fld w 34 6) (fld w 28 6) (fld w 23 5) (fld w 18 5) (fld w 17 1) (fld w 0 2))
  | 0x07 => some (.xatom (fld w 34 6) (fld w 28 6) (fld w 18 5) (fld w 0 1))
  | 0x08 => match fldN w 18 5 with
    | 0 => some (.xsig (fld w 23 5) (fld w 0 18))
    | 1 => some (.xsigF (fld w 23 5) (fld w 0 18))
    | _ => none
  | 0x09 => some (.xdecl (fld w 34 6) (fld w 28 6))
  | 0x0A => some (.xpref (fld w 34 6))
  | 0x0B => some (.xcoll (fld w 34 6) (fld w 23 5) (fld w 17 1))
  | 0x0C => some (.xksend (fld w 34 6) (fld w 28 6) (fld w 0 12))
  | 0x0D => some (.xkfetch (fld w 34 6) (fld w 28 6) (fld w 23 5) (fld w 17 1) (fld w 0 12))
  | 0x0E => some (.xkparam (fld w 28 6) (fld w 0 4))
  | 0x0F => some (.xinv (fld w 34 6) (fld w 0 16))
  | 0x10 => some (.xdrain)
  | 0x11 => some (.xwait (fld w 23 5) (fld w 0 18))
  | _ => none

/-- The row of an opcode of an engine. -/
def rowOf (e : Engine) (op w : Nat) : Option Instr :=
  match e with
  | .c => rowC op w
  | .v => rowV op w
  | .m => rowM op w
  | .x => rowX op w

/-- The keeper-only opcodes (R70). -/
def keeperOp (op : Nat) : Bool := 0x60 ≤ op && op ≤ 0x63

/-- Opcode and operand field to an instruction (R69 to R73): the row's fields must be legal, and every bit that the row does not leave open must hold the row's value. `keeper`: the word stands in an update program. -/
def decodeOperands (keeper : Bool) (e : Engine) (op w : Nat) : Option Instr :=
  if e = .v && keeperOp op && !keeper then none
  else
    match rowOf e op w with
    | some i => if legal i && operandsOf i == w then some i else none
    | none => none

/-- The WAIT byte (R58); `none` is ILLOP. -/
def decodeWait (e : Engine) (b : Nat) : Option (Option (Engine × Nat)) :=
  if b = 0 then some none
  else if b / 64 = 2 && b / 16 % 4 != e.num then some (some (engineOf (b / 16), b % 16 + 1))
  else none

/-- The SIGNAL byte (R59); `none` is ILLOP. -/
def decodeSignal (e : Engine) (b : Nat) : Option (BitVec 4) :=
  if b = 0 then some 0
  else if b / 16 = 8 && b % 16 != 0 && !(b % 16).testBit e.num then some (BitVec.ofNat 4 b)
  else none

/-- A packed word (R62), WAIT byte `0x7E`. -/
def decodePacked (w : Nat) : Decoded :=
  let i : Instr := .packed (fld w 48 2) (fld w 32 16) (fld w 16 16) (fld w 0 16)
  if fldN w 50 6 = 0 && legal i then .ok ⟨none, 0⟩ i else .illop

/-- One word of engine `e` (R57 to R73). -/
def decodeWord (keeper : Bool) (e : Engine) (w : W64) : Decoded :=
  if fldN w.toNat 56 8 = 0x7E then (if keeper then .illop else decodePacked w.toNat)
  else
    match decodeWait e (fldN w.toNat 56 8), decodeSignal e (fldN w.toNat 48 8),
        decodeOperands keeper e (fldN w.toNat 40 8) (fldN w.toNat 0 40) with
    | some wt, some sg, some i =>
      match i with
      | .immx _ => if wt = none && sg = 0 then .ok ⟨none, 0⟩ i else .illop
      | _ => if keeper && !(wt = none && sg = 0) then .illop else .ok ⟨wt, sg⟩ i
    | _, _, _ => .illop

/-- The instruction of a word whose bits are `w` (numbered from the first word's bit 0). The table of this part gives its rows no bits, and the same opcode means another row on another engine, so the engine stands above the word: bits [71:64] hold 0 C, 1 V, 2 M, 3 X, 4 an update program of the keeper; without them the word is one of C. -/
def decodeTableWord (nbits w : Nat) : Option Instr :=
  let sel := if nbits ≤ 64 then 0 else w / 2 ^ 64 % 256
  match decodeWord (sel == 4) (if sel = 4 then .v else engineOf sel) (BitVec.ofNat 64 (ofBytes (toBytes 8 w))) with
  | .ok _ i => some i
  | .illop => none

/-- The code part of a word: opcode and operands, WAIT and SIGNAL zero; a packed word whole. -/
def encodeBody (i : Instr) : Nat :=
  match i with
  | .packed cnt c0 c1 c2 => put 0x7E 56 + put cnt.toNat 48 + put c0.toNat 32 + put c1.toNat 16 + c2.toNat
  | _ => match opOf i with
    | some (_, op) => put op 40 + operandsOf i
    | none => 0

/-- The WAIT and SIGNAL bytes of a frame (R58, R59). -/
def encodeFrame (f : Frame) : Nat :=
  (match f.wait with
   | none => 0
   | some (e, n) => put (128 + e.num * 16 + (n - 1)) 56) +
  (if f.signal = 0 then 0 else put (128 + f.signal.toNat) 48)

/-- The word of an instruction in a frame. -/
def encode (f : Frame) (i : Instr) : W64 := BitVec.ofNat 64 (encodeFrame f + encodeBody i)

/-! Decoding each constructor's own word: the word is written out from the manual's encoding. -/

end Sys2Proof
end

