-- ==== Sys2Proof/Machine/State.lean ====
section
/-! DEFINITION. The state of the package: everything the manual gives it (the chapters' tables of registers, records and storage), as plain data, and its reset. Fields that are the model's own say so. -/

namespace Sys2Proof.Machine

/-- Reasons why the machine stops. -/
inductive Fault where
  /-- Raised by a write of the world outside at an address that the manual gives no storage (R340). Safe: the run stops where the manual says that no storage is. -/
  | noStorage
  deriving DecidableEq, Repr, Inhabited

/-- Reasons why an instruction has no meaning here. -/
inductive Refusal where
  /-- Raised by `exec` for an instruction that the model does not give a meaning. Safe: nothing is claimed of it. -/
  | notModelled (mnemonic : String)
  deriving DecidableEq, Repr, Inhabited

/-- Fault causes and event codes of R377. -/
inductive Cause where
  | illop | illseq | bounds | align | expiry | nolease | reclaimed | record
  | steerUnset | fetchBounds | loopcnt | loopbusy | objEmpty | objLease | csrRo | csrbusy
  | dictbusy | trapNest | eretState | forkbusy | queueLeft | offcutLeft | enqTarget | cancelDenied
  | barScope | leaseArg | handleBusy | portBusy | vtarget | dowelOvf | offcutFull | qval
  | mqFull | handle | walk | unsignalled | peerLost | priv | silent | poison | placeFail
  | correctable | corrected | rollback | suspect | regen | mirrorUsed | postRefused | recordBad
  | graphStuck | stall | arrears | purseCap | reclaim | offcutLost | objDrop | linkDown
  | xpart | preempted | kblockBad | kcmdDenied | kprogBad | kprogAbort | kcabinetLost | ksubLost
  | missing | captureEnd | kcmdDone
  /-- a software code (R101) -/
  | software (v : BitVec 15)
  deriving DecidableEq, Repr, Inhabited

/-! ## Registers of a core (R17) -/

/-- A hardware loop register (R20). -/
structure Loop where
  act : Bool
  count : BitVec 24
  start : BitVec 17
  stop : BitVec 17
  deriving DecidableEq, Repr, Inhabited

/-- A loop register at reset. -/
def Loop.zero : Loop := ⟨false, 0, 0, 0⟩

/-- Whether a stream runs (R43, R320). -/
inductive RunState where
  | ended | running | frozen
  deriving DecidableEq, Repr, Inhabited

/-- What holds a stream at issue (R307). -/
inductive WaitKind where
  | none | tokens | queue | dowelRoom | object | enqr | rend | bar | halt | bphase | cancel | lease
  | dict | prep | commands | xwait | xdrain | scoreboard
  deriving DecidableEq, Repr, Inhabited

/-- The word being executed: the model's own. -/
structure Cursor where
  core : Nat
  eng : Engine
  /-- the update unit, where the word stands in an update program -/
  unit : Option Nat
  pc : Nat
  codePos : Nat
  packed : Bool
  /-- it is the last code of its word, or no code -/
  lastCode : Bool
  frame : Frame
  word : W64
  /-- the `IMMX` immediate of a pair (R65) -/
  ext : Option (BitVec 40)
  deriving DecidableEq, Repr, Inhabited

/-- The wait that a stream is making (R308, R311). -/
structure Wait where
  kind : WaitKind
  /-- resident ticks for which the wait has lasted are counted from here -/
  since : Nat
  /-- STALL has been raised for this wait -/
  stalled : Bool
  /-- the object waited on: its home, and the value awaited; for tokens and queue entries, the producer's number and how many -/
  obj : Nat
  goal : Nat
  /-- the wait ended with cancelled status (R51) -/
  cancelled : Bool
  /-- the word that waits, where an event ends its wait -/
  held : Option (Cursor × Instr)
  /-- the ac and the tick at which it began -/
  ac : Nat
  from_ : Nat
  /-- what it waited for has come, and its word retires at this ac (R98) -/
  due : Option Nat
  deriving DecidableEq, Repr, Inhabited

/-- No wait. -/
def Wait.idle : Wait := ⟨.none, 0, false, 0, 0, false, none, 0, 0, none⟩

/-- One stream's flow state. -/
structure Stream where
  pc : BitVec 17
  /-- word offset one past the last word (R42) -/
  stop : BitVec 17
  run : RunState
  /-- between the codes of a packed word, and the code to issue next (R64) -/
  packed : Bool
  codePos : Nat
  loops : List Loop
  /-- the ac at which the next word may issue -/
  nextAc : Nat
  wait : Wait
  /-- the tick since which it has been held at issue, if it is (R305) -/
  heldFrom : Option Nat
  /-- the wait that a pre-emption broke off: its kind, its resident ticks, and whether STALL has been raised for it (R311) -/
  broken : Option (WaitKind × Nat × Bool)
  deriving DecidableEq, Repr, Inhabited

/-- A stream that does not run. -/
def Stream.zero : Stream :=
  ⟨0, 0, .ended, false, 0, [.zero, .zero, .zero, .zero], 0, .idle, none, none⟩

/-- The S, steer, handle, record and object registers. -/
structure Regs where
  s : Sparse W64
  g : Sparse W32
  h : Sparse (BitVec 128)
  t : Sparse (BitVec 256)
  i : Sparse (BitVec 128)
  o : Sparse W64
  /-- the ac at which `PREP` last wrote each steer register's TARGET (R88) -/
  prepAc : Sparse Nat
  /-- the scoreboard of R81: for an S register whose result is not yet written, at 32 + n for a handle that `XLAT` writes (R120), and at 64 + n and 128 + n for a tensor and an iterator record (R93), the ac from which it may be read, and the number of the atomic that writes it (0 for any other word) -/
  due : Sparse (Nat × Nat)
  deriving DecidableEq, Repr, Inhabited

/-- The stored CSRs of R25 and R99. -/
structure Csrs where
  fflags : W32
  amax : W32
  srkey : W64
  offcutb : W32
  offcutn : BitVec 10
  trapv : BitVec 17
  trapc : BitVec 16
  trappc : BitVec 17
  trapx : W64
  trapret : W32
  tol : W32
  deriving DecidableEq, Repr, Inhabited

/-- V's registers; a keeper application has the same (R164). `k` lists `K1` to `K7`. -/
structure Vec where
  v : Sparse Tile
  k : Sparse (BitVec 1024)
  deriving DecidableEq, Repr, Inhabited

/-- What a V or C instruction writes when it retires (R44, R125). -/
inductive Effect where
  /-- lanes of a tile register -/
  | tile (d : Nat) (lanes : BitVec 1024) (vals : Tile)
  | mask (k : Nat) (v : BitVec 1024)
  | flags (e : Engine) (f : BitVec 5)
  /-- running maximum: the largest magnitude, if any, and whether a NaN was seen (R161) -/
  | amax (e : Engine) (m : Option W32) (nan : Bool)
  | offcut (delta : Int)
  | iter (n : Nat) (idx : BitVec 48)
  /-- a handle that `XLAT` leaves PENDING at 24 ac (R120) -/
  | handle (n : Nat) (v : BitVec 128)
  /-- a store of C, performed at its retirement (R90) -/
  | store (k : Nat) (bs : List Byte)
  /-- the increment of `SIGO`, performed at its retirement (R96) -/
  | object (k n : Nat)
  /-- a `SIGO` whose SIGNAL, chip × 2^32 + number, is awaited (R96) -/
  | acked (code k n : Nat)
  /-- an atomic of C, performed 4 ac after issue (R92): `n` bytes at `k`, OP or 9 for a compare with `cmp`, and `Sd`, which it writes where `Sd` still awaits the word numbered `id` -/
  | atom (k n op : Nat) (x cmp : W64) (d id : Nat)
  deriving DecidableEq, Repr, Inhabited

/-- An instruction of C or V between issue and retirement. -/
structure Flight where
  id : Nat
  eng : Engine
  signal : BitVec 4
  effects : List Effect
  /-- it has retired; its tokens wait for earlier words (R243) -/
  retired : Bool
  /-- it is a word of the stream (an index write-back is not) -/
  word : Bool
  deriving DecidableEq, Repr, Inhabited

/-- One level of the nest table (R173). -/
structure Level where
  count : BitVec 12
  mstep : BitVec 24
  kstep : BitVec 24
  nstep : BitVec 24
  tstep : BitVec 4
  deriving DecidableEq, Repr, Inhabited

/-- The nest table (R173 to R175). -/
structure Nest where
  levels : List Level
  at_ : BitVec 6
  cin : BitVec 12
  ih : BitVec 12
  iw : BitVec 12
  row0 : BitVec 24
  bt : BitVec 6
  ncol : BitVec 12
  col0 : BitVec 24
  tb : BitVec 4
  acc : Bool
  first : Bool
  deriving DecidableEq, Repr, Inhabited

/-- A level at reset. -/
def Level.zero : Level := ⟨0, 0, 0, 0, 0⟩
/-- The nest table at reset. -/
def Nest.zero : Nest :=
  ⟨[.zero, .zero, .zero, .zero, .zero, .zero], 0, 0, 0, 0, 0, 0, 0, 0, 0, false, false⟩

/-- An operation in an operation stream of M (R169). -/
structure MOp where
  id : Nat
  stream : Nat
  /-- the word that placed it -/
  word : W64
  instr : Instr
  pc : BitVec 17
  codePos : Nat
  signal : BitVec 4
  started : Bool
  /-- completed steps -/
  steps : Nat
  /-- `MSYNC` markers placed before it (R188) -/
  epoch : Nat
  nest : Nest
  /-- record images read at issue: A or source, B or destination -/
  ra : BitVec 256
  rb : BitVec 256
  leases : List Nat
  tol : W32
  srkey : W64
  flags : BitVec 5
  /-- running maximum of a drain -/
  amax : Option W32
  amaxNan : Bool
  /-- all steps done, completion pending -/
  ending : Bool
  /-- 0: it may step; 1: its leases are checked again before its next step; 2: that check failed, and it waits for M's release (R180); its holds have ended; 3: a fault stopped it, and it waits for M's release (R374) -/
  check : Nat
  deriving DecidableEq, Repr, Inhabited

/-- M's state apart from its stream. -/
structure Mat where
  a : Sparse Tile
  /-- tiles whose format is INT32: the format of the last nest that wrote each -/
  int32 : BitVec 16
  chkOn : BitVec 16
  /-- row sums, index tile × 64 + row -/
  rho : Sparse W32
  /-- column sums, index tile × 32 + column -/
  gam : Sparse W32
  shadow : Nest
  ops : List MOp
  epoch : Nat
  /-- stream just served (R170) -/
  served : Nat
  /-- the operation whose step runs now, and the ac at which that step ends -/
  stepping : Option Nat
  stepDue : Nat
  deriving DecidableEq, Repr, Inhabited

/-- A fault or event before it becomes a record (R378). -/
structure Report where
  cause : Cause
  eng : Engine
  pc : BitVec 17
  codePos : Nat
  trec : Nat
  irec : Nat
  idx : BitVec 48
  pp : Nat
  lb : Nat
  lease : Nat
  count : Nat
  detail : Nat
  /-- the X command, if one parked -/
  cmd : Option Nat
  deriving DecidableEq, Repr, Inhabited

/-- A chunk in flight (R194). -/
structure Chunk where
  no : Nat
  /-- resolved source and destination pieces: home key, bytes, first logical byte; `none` where bytes read as zero or are dropped -/
  src : List (Option Nat × Nat)
  dst : List (Option Nat × Nat)
  leases : List Nat
  /-- the pages whose translations it resolved through: first 256 KiB page, and how many of these the page holds (R209) -/
  pages : List (Nat × Nat)
  /-- the ac before which it cannot have landed (R212) -/
  due : Nat
  /-- packets that it has sent: 0 none, 1 LOADs of a far source, 2 what its destinations at other chips take (R273) -/
  phase : Nat
  /-- those that are awaited: chip × 2^32 + number -/
  acks : List Nat
  /-- its source bytes, once it has sent them -/
  bytes : Option (List Byte)
  /-- a chip has refused a packet of it, and why (R194) -/
  refused : Option Cause
  deriving DecidableEq, Repr, Inhabited

/-- Progress of an entry of a prefetch list (R208): PP, LB, and whether its object has been incremented. -/
structure PrefState where
  pp : Nat
  lb : Nat
  bumped : Bool
  deriving DecidableEq, Repr, Inhabited

/-- An accepted X command (R190 to R198). -/
structure XCmd where
  id : Nat
  /-- the word as issued -/
  word : W64
  instr : Instr
  pc : BitVec 17
  codePos : Nat
  signal : BitVec 4
  ra : BitVec 256
  rb : BitVec 256
  rx : BitVec 256
  /-- the object image, 0 where no object is named -/
  obj : W64
  ob : Bool
  srkey : W64
  pp : Nat
  lb : Nat
  flight : List Chunk
  /-- chunks started so far, from 0 -/
  started : Nat
  parked : Option Report
  /-- its park has been reported: its chunks in flight have landed (R196) -/
  raised : Bool
  /-- values read at issue: list entries, chips, header and block numbers -/
  data : List Nat
  flags : BitVec 5
  amax : Option W32
  amaxNan : Bool
  /-- it wrote a poisoned granule (R372) -/
  poison : Bool
  /-- it runs again: its object is not incremented (R198) -/
  again : Bool
  /-- it is a refetch, which no word waits for (R373) -/
  refetch : Bool
  /-- its action at the home or at the unit it was handed to is done -/
  acted : Bool
  /-- phase of the launch in which it was accepted, and the publication up to which its unit saw others' stores then (R245) -/
  phase : Nat
  view : Nat
  /-- publications of its launch before it was issued, which its object's observers join (R245) -/
  joins : List Nat
  /-- its object has been incremented, or the SIGNALs that do so are awaited -/
  bumped : Bool
  acks : List Nat
  /-- progress of each entry of a prefetch list, in the order in which they run (R208) -/
  ents : List PrefState
  deriving DecidableEq, Repr, Inhabited

/-- X's state apart from its stream. -/
structure Copy where
  /-- the command between issue and acceptance -/
  issuing : Option XCmd
  cmds : List XCmd
  /-- command words since the snapshot: the word, the command, and whether it retired -/
  log : List (W64 × XCmd × Bool)
  /-- the abandoned attempt's log, not yet matched (R372) -/
  replay : List (W64 × XCmd × Bool)
  /-- the last 32 commands with a source outside the core, with the granules each wrote (R373) -/
  kept : List (XCmd × List Nat)
  deriving DecidableEq, Repr, Inhabited

/-- The buffer-phase snapshot (R17, R97, R319). -/
structure Snapshot where
  streams : List Stream
  idx : Sparse (BitVec 48)
  tag : W64
  replayable : Bool
  rollbacks : Nat
  silents : Nat
  /-- commands of X in flight: number, PP and LB (R97) -/
  progress : List (Nat × Nat × Nat)
  deriving DecidableEq, Repr, Inhabited

/-- The unit on a core, and the queue of units for it. -/
structure Seat where
  /-- launch and unit number of the resident unit -/
  unit : Option (Nat × Nat)
  sliceTick : Nat
  sliceAc : Nat
  /-- issue has stopped, for pre-emption (R313) or for a cancel (R51) -/
  stopping : Bool
  cancelling : Bool
  /-- the dispatcher has decided to pre-empt the unit (R305, R333) -/
  leaving : Bool
  /-- cores whose `CANCEL` waits for this unit -/
  cancellers : List Nat
  /-- unit queue: block, launch and unit number (R48) -/
  queue : List (BitVec 512 × Nat × Nat)
  /-- the publication up to which the unit sees others' plain stores, and those joined since (R245) -/
  view : Nat
  joined : List Nat
  /-- commands of the replay log whose record names a lease that was reclaimed while it was stowed, and that lease (R359) -/
  lost : List (Nat × Nat)
  deriving DecidableEq, Repr, Inhabited

/-- An arrival at a barrier whose `BAR` has not retired (R55, R100): where the word stands, its bits, the barrier and the generation that it joined. -/
structure BarWait where
  pc : Nat
  codePos : Nat
  word : W64
  id : Nat
  gen : Nat
  deriving DecidableEq, Repr, Inhabited

/-- C's waits and traps. -/
structure Control where
  /-- faults held or being delivered to the handler, oldest first (R100) -/
  faults : List Report
  /-- the fault being served: engine and X command -/
  serving : Option (Engine × Option Nat)
  /-- the code position of the word that RPC names, while TRAPRET holds what the entry wrote (R64) -/
  rcode : Nat
  /-- objects on which an abandoned wait of C, and of X, is still counted (R358) -/
  countedC : Option Nat
  countedX : Option Nat
  /-- arrivals at barriers whose `BAR` has not retired -/
  bars : List BarWait
  /-- FORK since the last `REND` (R46) -/
  forked : Bool
  /-- the ac at which the last of V, M and X ended (R98) -/
  lastEnd : Nat
  /-- engines whose dictionary is being loaded, and the bytes read (R105) -/
  loads : List (Engine × List W64 × BitVec 4)
  /-- walks pending: handle, page, R, W (R120) -/
  walks : List (Nat × Nat × Bool × Bool)
  deriving DecidableEq, Repr, Inhabited

/-- Error state of a core (R368, R376, R236). -/
structure Health where
  suspect : Bool
  corrected : W32
  fixedThisTick : Nat
  frozenUntil : Nat
  /-- the ac after the one at which the last correctable error was found; 0: none -/
  foundAc : Nat
  /-- a rollback is under way (R371): issue has stopped, and what has issued completes -/
  recovering : Option Report
  /-- it has: the rollback waits for its refetches (R373) -/
  refetching : Bool
  deriving DecidableEq, Repr, Inhabited

/-- A `VMAP` sweep between row steps (R147): its word, and the records that it read at issue; IDX of `id` is that of the next step. -/
structure Sweep where
  cur : Cursor
  instr : Instr
  ra : BitVec 256
  rb : BitVec 256
  rd : BitVec 256
  ia : BitVec 128
  ib : BitVec 128
  id : BitVec 128
  deriving DecidableEq, Repr, Inhabited

/-- A core (R17). -/
structure Core where
  regs : Regs
  csr : Csrs
  c : Stream
  v : Stream
  m : Stream
  x : Stream
  vec : Vec
  /-- HEAD and PENDN of the offcut queue (R155) -/
  head : Nat
  pendn : Nat
  /-- V's read and write port, held until these ac (R128) -/
  portR : Nat
  portW : Nat
  /-- a `VMAP` sweep stands between row steps (R147), and the target of a `QFLUSH` that waits for its end (R53) -/
  sweep : Option Sweep
  vtarget : Option Nat
  /-- the region of the offcut queue is reclaimed, and instructions that use it have not retired (R158) -/
  offcutGoing : Bool
  mat : Mat
  copy : Copy
  /-- dictionaries, index engine × 1,024 + entry -/
  dict : Sparse W64
  /-- poisoned granules of the dictionaries, index engine × 128 + entry / 8 (R367) -/
  hot : List Nat
  /-- control queues: the ac from which the entry may be popped, and the entry (R95) -/
  cqv : List (Nat × W64)
  cqm : List (Nat × W64)
  /-- dowel counts, index producer × 4 + consumer -/
  dowel : Sparse Nat
  flights : List Flight
  /-- numbers the flights, operations and commands -/
  nextId : Nat
  snap : Snapshot
  ctl : Control
  seat : Seat
  health : Health
  deriving DecidableEq, Repr, Inhabited

/-- The snapshot before any. -/
def Snapshot.zero : Snapshot := ⟨[.zero, .zero, .zero, .zero], [], 0, false, 0, 0, []⟩

/-- A core at reset and at placement (R17). -/
def Core.reset : Core where
  regs := ⟨[], [], [], [], [], [], [], []⟩
  csr := ⟨0, 0, 0, 0, 0, 0, 0, 0, 0, 0, 0⟩
  c := .zero
  v := .zero
  m := .zero
  x := .zero
  vec := ⟨[], []⟩
  head := 0
  pendn := 0
  portR := 0
  portW := 0
  sweep := none
  vtarget := none
  offcutGoing := false
  mat := ⟨[], 0, 0, [], [], .zero, [], 0, 3, none, 0⟩
  copy := ⟨none, [], [], [], []⟩
  dict := []
  hot := []
  cqv := []
  cqm := []
  dowel := []
  flights := []
  nextId := 1
  snap := .zero
  ctl := ⟨[], none, 0, none, none, [], false, 0, [], []⟩
  seat := ⟨none, 0, 0, false, false, false, [], [], 0, [], []⟩
  health := ⟨false, 0, 0, 0, 0, none, false⟩

/-! ## Rent (R349, R351, R360) -/

/-- State of a lease. -/
inductive LeaseState where
  | open_ | lapsed | reclaimed | vacated
  deriving DecidableEq, Repr, Inhabited

/-- A lease table entry (R351), with the core of a tier 0 or 1 lease and the frames of the others. -/
structure Lease where
  state : LeaseState
  arrears : Bool
  sync : Bool
  tier : Nat
  stowed : Bool
  vacating : Bool
  part : Nat
  job : Nat
  base : Nat
  len : Nat
  paid : Nat
  lapseAt : Nat
  parent : Nat
  step : Nat
  escrow : Nat
  holds : Nat
  waiters : Nat
  rdue : Bool
  /-- the core whose SPM or MSM it covers -/
  core : Nat
  /-- homes and lengths of the ranges it covers: one range of the core, or the frames that the walk found (R113) -/
  ranges : List (Nat × Nat)
  deriving DecidableEq, Repr, Inhabited

/-- A purse (R349). -/
structure Purse where
  bal : Int
  unpaid : Nat
  cap : Nat
  burn : Nat
  /-- billed as overdraft so far in this tick -/
  burning : Nat
  capped : Bool
  deriving DecidableEq, Repr, Inhabited

/-- A range that is being scrubbed (R360): its homes and lengths, the lease whose slot it frees, and when it is done. -/
structure Scrub where
  id : Nat
  ranges : List (Nat × Nat)
  due : Nat
  deriving DecidableEq, Repr, Inhabited

/-! ## Partitions, jobs, records (R330, R332, R380, R381) -/

/-- A partition entry with its rate table. -/
structure Partition where
  valid : Bool
  vf : BitVec 6
  slice : BitVec 16
  stallt : BitVec 24
  grace : BitVec 16
  hpages : BitVec 22
  hbase : BitVec 21
  rates : List Nat
  /-- a rate table that takes effect at the next tick (R333) -/
  nextRates : Option (List Nat)
  deriving DecidableEq, Repr, Inhabited

/-- A partition entry at reset, with the default rates of R32. -/
def Partition.reset : Partition :=
  ⟨false, 0, 2000, 20000, 64, 0, 0, [32 * 65536, 6 * 65536, 65536, 4096, 1024], none⟩

/-- A job entry (R332, R299). -/
structure Job where
  valid : Bool
  part : BitVec 6
  asid : BitVec 16
  super : BitVec 11
  root : BitVec 52
  savewin : BitVec 52
  cap : BitVec 48
  wdisp : BitVec 8
  whbm : BitVec 8
  wfab : BitVec 8
  wcoll : BitVec 8
  wkeep : BitVec 8
  /-- the job's completion counter: graphs done (R35) -/
  graphsDone : Nat
  deriving DecidableEq, Repr, Inhabited

/-- A job entry at reset. -/
def Job.reset : Job := ⟨false, 0, 0, 0, 0, 0, 1000000, 16, 16, 16, 16, 16, 0⟩

/-- An event ring (R380). -/
structure Ring where
  recs : Sparse (BitVec 512)
  written : Nat
  read : Nat
  dropped : Nat
  loss : Bool
  deriving DecidableEq, Repr, Inhabited

/-- Capture or replay of a job (R381, R382). -/
structure Capture where
  part : Nat
  job : Nat
  va : Nat
  len : Nat
  pos : Nat
  replay : Bool
  /-- the tick at which it began -/
  since : Nat
  deriving DecidableEq, Repr, Inhabited

/-! ## Work (R35 to R56) -/

/-- A graph in the intake. -/
structure Graph where
  /-- order of acceptance -/
  seq : Nat
  part : Nat
  record : BitVec 512
  /-- launches that have completed -/
  doneCount : Nat
  stuck : Bool
  cancelled : Bool
  deriving DecidableEq, Repr, Inhabited

/-- A launch of an accepted graph. -/
structure Launch where
  id : Nat
  graph : Nat
  index : Nat
  record : BitVec 512
  deps : Nat
  done : Bool
  cancelled : Bool
  /-- units enqueued in it so far (R47) -/
  enqueued : Nat
  /-- phases ended (R56) -/
  phase : Nat
  /-- arrivals: barrier × 4,096 + unit to how many (R55) -/
  arrivals : Sparse Nat
  /-- generations completed of each barrier -/
  gens : Sparse Nat
  /-- its publications (R245) -/
  pubs : List Nat
  deriving DecidableEq, Repr, Inhabited

/-- Where a unit stands. -/
inductive UnitState where
  | waiting | queued | resident | saved | halted | cancelled
  deriving DecidableEq, Repr, Inhabited

/-- A unit of a launch. -/
structure Unit_ where
  launch : Nat
  /-- unit number within the launch (`UNITID`) -/
  no : Nat
  state : UnitState
  core : Nat
  /-- image lease rented at placement -/
  imgLease : Option Nat
  /-- the block it was launched with and the unit that issued its `ENQR`, if it was enqueued -/
  block : Option (BitVec 512)
  issuer : Nat
  /-- image region: first granule and length in granules -/
  imgOff : Nat
  imgLen : Nat
  deriving DecidableEq, Repr, Inhabited

/-- A deficit arbiter (R301): the ring of jobs, the head, FRESH and the counters. -/
structure Arbiter where
  ring : List Nat
  h : Nat
  fresh : Bool
  d : Sparse Int
  deriving DecidableEq, Repr, Inhabited

/-- A saved unit (R315 to R323): its slot, save-area lease and pages, the context, its stowed leases. -/
structure Saved where
  slot : Nat
  part : Nat
  job : Nat
  launch : Nat
  unit : Nat
  core : Nat
  lease : Nat
  pages : List Nat
  length : Nat
  /-- mask of the S registers that section 1 holds -/
  sMask : Nat
  ctx : Core
  stowed : List Nat
  /-- leases that were reclaimed while they were stowed (R359) -/
  lost : List Nat
  cancelled : Bool
  /-- where C was making a `WAITO`, the register of its status (R51) -/
  waito : Option Nat
  deriving DecidableEq, Repr, Inhabited

/-- What a walk finds (R339): the SIZE of the page, its target, chip and frame, its permissions, whether it may hold SYNC regions, and the home of the entry. -/
structure Leaf where
  size : Nat
  target : Nat
  chip : Nat
  frame : Nat
  r : Bool
  w : Bool
  sy : Bool
  entry : Nat
  deriving DecidableEq, Repr, Inhabited

/-- A completed walk in a TLB (R343): of a core's X, or, with `none`, of the collective engines and the keeper; the ASID, the first byte of the page, the leaf. -/
structure Tlb where
  agent : Option Nat
  asid : Nat
  page : Nat
  leaf : Leaf
  deriving DecidableEq, Repr, Inhabited

/-- An `XINV` of the hypervisor core that has not acknowledged (R209, R347): the ASID, the range, and the chunks that it waits for. -/
structure HyperInv where
  asid : BitVec 16
  base : Nat
  len : Nat
  waits : List Nat
  deriving DecidableEq, Repr, Inhabited

/-- An increment held for a stowed region (R315). -/
structure HeldInc where
  lease : Nat
  key : Nat
  n : Nat
  /-- publications that its observers join (R245) -/
  join : List Nat
  /-- it is a cancelling increment (R51) -/
  cancel : Bool
  deriving DecidableEq, Repr, Inhabited

/-! ## Plain stores (R204, R245) -/

/-- A plain store of device memory: staged until its phase ends, then published. -/
structure PlainStore where
  launch : Nat
  unit : Nat
  phase : Nat
  cmd : Nat
  key : Nat
  bytes : List Byte
  /-- its publication, 0 while it is staged -/
  pub : Nat
  deriving DecidableEq, Repr, Inhabited

/-! ## I/O die: collectives, fabric, keeper (R262 to R297) -/

/-- A packet of a transfer that a collective engine holds until its turn (R266); packets of one transfer stand in order. With no data, it is the news that the sender's work was cancelled (R271). -/
structure HeldTransfer where
  job : Nat
  ctag : Nat
  iter : Nat
  rank : Nat
  addr : Nat
  obj : Nat
  data : List Byte
  /-- poisoned granules of the data -/
  poison : List Nat
  deriving DecidableEq, Repr, Inhabited

/-- A copy of a collective record (R267): the unit and the command that handed it over, and where the unit is or was last. -/
structure CollCopy where
  core : Nat
  launch : Nat
  unit : Nat
  cmd : Nat
  rec_ : BitVec 1024
  deriving DecidableEq, Repr, Inhabited

/-- A collective record taken by an engine. -/
structure Coll where
  id : Nat
  part : Nat
  job : Nat
  /-- in order of die -/
  copies : List CollCopy
  /-- chips of the group, by rank -/
  peers : List Nat
  /-- transfers emitted -/
  emitted : Nat
  /-- expected transfers applied or resolved: iteration × 1,024 + sender rank -/
  applied : List Nat
  /-- destination ranges to which nothing more is applied, and iterations whose object stays (R271) -/
  dead : List (Int × Nat)
  deadIters : List Nat
  lost : List Nat
  mismatch : Bool
  cancelled : Bool
  running : Bool
  deriving DecidableEq, Repr, Inhabited

/-- The sequence state of a pair (R274). -/
structure Peer where
  chip : Nat
  /-- next number to send, and next number expected -/
  nextSeq : Nat
  expect : Nat
  held : List Instr
  unacked : List Packet
  lost : Bool
  /-- the tick at which a flit of the chip was last accepted (R271) -/
  heard : Nat
  deriving DecidableEq, Repr, Inhabited

/-- A REDUCE_LOAD that this package performs, while its LOADs are awaited (R277): the packet, its header with this package's number, its home here, and the LOADs' numbers. -/
structure Reduce where
  pk : Packet
  hdr : BitVec 512
  home : Nat
  acks : List Nat
  deriving DecidableEq, Repr, Inhabited

/-- The state of a keeper block (R287). -/
structure KBlockState where
  block : Nat
  applied : Nat
  emitted : Nat
  dups : Nat
  deriving DecidableEq, Repr, Inhabited

/-- A gradient block that a keeper holds (R287, R289). -/
structure KHeld where
  block : Nat
  step : Nat
  grad : KBlock
  /-- the stage slot in which its bytes stand -/
  slot : Option Nat
  deriving DecidableEq, Repr, Inhabited

/-- A duplicate whose block's fate is not known yet (R287), and the chunk of `XKSEND` that waits for it: core, command and chunk. -/
structure KDup where
  block : Nat
  step : Nat
  chunk : Option (Nat × Nat × Nat)
  deriving DecidableEq, Repr, Inhabited

/-- A keeper group (R279, R284). -/
structure KGroup where
  part : Nat
  job : Nat
  group : Nat
  primary : Bool
  /-- MCHIP of its SETUP -/
  mirror : Nat
  setup : BitVec 3072
  /-- blocks whose applied step is not INITSTEP -/
  blocks : List KBlockState
  held : List KHeld
  /-- deadlines: step, tick at which it passes, raised -/
  deadlines : List (Nat × Nat × Bool)
  flags : BitVec 5
  dups : Nat
  waiting : List KDup
  frozen : Bool
  lost : Bool
  /-- RETIRE commands that are not finished, and RESUMEs that have passed their check before any held application has started (R283) -/
  retiring : Nat
  resuming : Nat
  /-- subscribers dropped (R289) -/
  dropped : List Nat
  deriving DecidableEq, Repr, Inhabited

/-- An update program (R285) and its constant sets (R286). -/
structure KProg where
  part : Nat
  job : Nat
  no : Nat
  words : List W64
  deriving DecidableEq, Repr, Inhabited

/-- A set of constants with its tag. -/
structure KConsts where
  part : Nat
  job : Nat
  prog : Nat
  tag : Nat
  vals : List W32
  /-- they carry poison (R369) -/
  hot : Bool
  deriving DecidableEq, Repr, Inhabited

/-- A running application on an update unit (R288). -/
structure App where
  unit : Nat
  part : Nat
  job : Nat
  group : Nat
  block : Nat
  step : Nat
  grad : KBlock
  prog : List W64
  pc : Nat
  loops : List Loop
  vec : Vec
  flags : BitVec 5
  /-- arrays stored and the emission, held until `KSTEP` -/
  stores : Sparse Tile
  emit : Option (List Byte)
  aborted : Bool
  leases : List Nat
  /-- homes of the block in each cabinet array and of its emission slot, as found when it started -/
  arrays : List (List (Nat × Nat))
  slot : List (Nat × Nat)
  deriving DecidableEq, Repr, Inhabited

/-- A fetch that waits at the keeper (R291). -/
structure KFetch where
  core : Nat
  cmd : Nat
  part : Nat
  job : Nat
  group : Nat
  block : Nat
  step : Nat
  deriving DecidableEq, Repr, Inhabited

/-- The keeper's state. -/
structure Keeper where
  groups : List KGroup
  progs : List KProg
  consts : List KConsts
  apps : List App
  /-- blocks that wait for an update unit, in order of arrival: partition, job, group, block -/
  queue : List (Nat × Nat × Nat × Nat)
  fetches : List KFetch
  arb : Arbiter
  deriving DecidableEq, Repr, Inhabited

/-! ## Platform (R383 to R387) -/

/-- Per-die clock and telemetry state. -/
structure Die where
  ac : Nat
  /-- wall time of the last ac, in parts of which a tick has 236,880 (R13, R385) -/
  time : Nat
  /-- droop part of the clock step, and the tick of the last detection -/
  droop : Nat
  droopTick : Nat
  throttleTicks : Nat
  droopCount : W32
  corrections : W32
  /-- telemetry's ACCNT as of the end of the last tick -/
  acAtTick : Nat
  deriving DecidableEq, Repr, Inhabited

/-- A die at reset. -/
def Die.reset : Die := ⟨0, 0, 0, 0, 0, 0, 0, 0⟩

/-- Package-wide platform state. -/
structure Platform where
  /-- the thermal cause of R385 asks for step 5 -/
  thermal : Bool
  powerLimit : Nat
  /-- a power limit that takes effect at the next tick -/
  newLimit : Option Nat
  recovery : Bool
  /-- firmware slots, the active one, and the one to activate at the next reset -/
  slots : List (List Byte)
  active : Nat
  pending : Option Nat
  failed : Bool
  /-- the slot that a transfer is filling -/
  transferring : Option Nat
  /-- a reset that waits for the transfer: what its steps will find (R383, R387) -/
  resetWaiting : Option BootReport
  /-- what each measured index was extended with (R337) -/
  measured : Sparse (List Nat)
  /-- ports that are down, and CRC errors of each port in this tick (R275) -/
  downPorts : List Nat
  crcErrors : Sparse Nat
  /-- whether the switches execute packets of TYPE 4, and of TYPE 5, as they reported at bring-up (R278) -/
  mcast : Bool
  rload : Bool
  /-- the window of HBM that the host sees, in 256 MiB: base and length (R335) -/
  hdm : Nat × Nat
  /-- corrections in the stage and the HBM in this tick (R368) -/
  ioFixed : Nat
  deriving DecidableEq, Repr, Inhabited

/-- A platform at reset. -/
def Platform.reset : Platform := ⟨false, 2400, none, false, [[], []], 0, none, false, none, none, [(1, []), (2, []), (3, [])], [], [], false, false, (0, 2048), 0⟩

/-- A mailbox command that is not complete (R333). -/
inductive Mail where
  | shrink (part : Nat) (quads : List Nat)
  | destroy (part : Nat)
  | retire (part job : Nat)
  deriving DecidableEq, Repr, Inhabited

/-- Answers to commands of the mailbox and the management interface; the model's record of them. -/
inductive Response where
  | done
  | refused
  | unsupported
  | telemetry (r : BitVec 512)
  | digests (d : List (BitVec 512)) (sig : Nat)
  | firmware (active : Nat) (pending : Option Nat) (failed : Bool)
  deriving DecidableEq, Repr, Inhabited

/-! ## The whole -/

/-- A clock that a timer counts on. -/
inductive Clock where
  | ac (die : Nat)
  | tick
  deriving DecidableEq, Repr, Inhabited

/-- An event that is due at a known time; `core` is where a correction may delay it (R368). -/
structure Timer where
  clock : Clock
  due : Nat
  core : Option Nat
  event : Instr
  deriving DecidableEq, Repr, Inhabited

/-- Work that the hypervisor core may cancel (R35). -/
inductive Work where
  | unit (launch no : Nat)
  | launch (id : Nat)
  | graph (id : Nat)
  | job
  deriving DecidableEq, Repr, Inhabited

/-- What acts next: the model's own, log 1. -/
inductive Turn where
  /-- a stream of a core tries to issue -/
  | issue (core : Nat) (e : Engine)
  /-- an update unit runs its next word -/
  | issueKeeper (unit : Nat)
  /-- an event of the opcode table happens -/
  | occur (i : Instr)
  /-- a die's arithmetic clock counts, after the V streams that are ready have issued (R124) -/
  | acTick (die : Nat)
  /-- they have: the clock counts -/
  | acCount (die : Nat)
  /-- the tick counter counts: the end of the tick, then its next start -/
  | tick
  /-- the work of a tick's end is done: the counter moves on -/
  | tickStart
  /-- a chip acknowledges this many of the oldest packets that it has not acknowledged (R274) -/
  | ack (chip n : Nat)
  /-- a chip refuses a packet by its number: a lease check there fails, or a switch cannot reach the chip (R194, R276) -/
  | nack (chip seq : Nat) (cause : Cause)
  /-- the hypervisor sets the window of HBM that the host sees: base and length in 256 MiB (R335) -/
  | hdmWindow (base len : Nat)
  /-- the I/O die delivers what is due of a job's log (R382) -/
  | replay (part job : Nat)
  /-- a walker keeps a walk that it has completed, and a TLB drops an entry (R343; log 108) -/
  | tlbFill (agent : Option Nat) (part job va : Nat)
  | tlbDrop (n : Nat)
  /-- the hypervisor core issues an `XINV` of a valid job's ASID, and one acknowledges (R347) -/
  | hyperInv (asid : BitVec 16) (base len : Nat)
  | hyperAck (n : Nat)
  /-- the hypervisor core cancels work of a job: a unit of a launch, a launch, a graph, or every graph of the job (R35) -/
  | hyperCancel (part job : Nat) (work : Work)
  /-- a party outside writes memory outside the package's control (log 9) -/
  | outside (key : Nat) (bytes : List Byte)
  deriving DecidableEq, Repr, Inhabited

/-- The whole package. -/
structure State where
  tick : Nat
  dies : List Die
  cores : Sparse Core
  mem : Memory
  /-- poisoned granules (R367), by home key div 64 -/
  poison : List Nat
  stores : List PlainStore
  pubCount : Nat
  /-- publications joined by observing an object, by the object's home (R245) -/
  joins : Sparse (List Nat)
  leases : Sparse Lease
  purses : Sparse Purse
  scrubs : List Scrub
  owners : Sparse (BitVec 7)
  parts : Sparse Partition
  jobs : Sparse Job
  /-- invalidation generation of each ASID (R345) -/
  asidGen : Sparse (BitVec 16)
  tlbs : List Tlb
  hyperInvs : List HyperInv
  rings : Sparse Ring
  captures : List Capture
  /-- host counter of each partition (R381) -/
  hostSeq : Sparse Nat
  graphs : List Graph
  launches : List Launch
  units : List Unit_
  nextGraph : Nat
  nextLaunch : Nat
  placers : Sparse Arbiter
  saves : List Saved
  heldIncs : List HeldInc
  colls : List Coll
  heldTransfers : List HeldTransfer
  collArb : Arbiter
  peers : List Peer
  outbox : List Packet
  reduces : List Reduce
  keeper : Keeper
  platform : Platform
  responses : List Response
  mail : List Mail
  script : List Turn
  agenda : List Turn
  timers : List Timer
  cur : Cursor
  fresh : Nat
  deriving DecidableEq, Repr, Inhabited

/-- An empty ring of jobs. -/
def Arbiter.zero : Arbiter := ⟨[], 0, true, []⟩

/-- No word. -/
def Cursor.none : Cursor := ⟨0, .c, .none, 0, 0, false, true, ⟨.none, 0⟩, 0, .none⟩

/-- The package after reset and boot (R383). -/
def State.reset : State where
  tick := 0
  dies := [.reset, .reset, .reset, .reset]
  cores := []
  mem := []
  poison := []
  stores := []
  pubCount := 0
  joins := []
  leases := []
  purses := []
  scrubs := []
  owners := []
  parts := []
  jobs := []
  asidGen := []
  tlbs := []
  hyperInvs := []
  rings := []
  captures := []
  hostSeq := []
  graphs := []
  launches := []
  units := []
  nextGraph := 0
  nextLaunch := 1
  placers := []
  saves := []
  heldIncs := []
  colls := []
  heldTransfers := []
  collArb := .zero
  peers := []
  outbox := []
  reduces := []
  keeper := ⟨[], [], [], [], [], [], .zero⟩
  platform := .reset
  responses := []
  mail := []
  script := []
  agenda := []
  timers := []
  cur := .none
  fresh := 0

end Sys2Proof.Machine
end

