-- ==== Sys2Proof/Machine/Wire.lean ====
section
/-! DEFINITION. The Bexfer link: packet headers, the packets that this package sends, and their acknowledgement (R271, R273, R274). -/

namespace Sys2Proof.Machine

/-- Index of a job in the job tables, and its fabric job number (log 50). -/
def jobIx (p j : Nat) : Nat := p * 1024 + j

/-! ## Headers (R273) -/

/-- TYPE -/
def pkType (h : BitVec 512) : Nat := bits h 508 4
/-- SRCCHIP -/
def pkSrc (h : BitVec 512) : Nat := bits h 496 12
/-- DSTCHIP -/
def pkDst (h : BitVec 512) : Nat := bits h 484 12
/-- SEQ -/
def pkSeq (h : BitVec 512) : Nat := bits h 452 32
/-- FJOB: partition and job -/
def pkJob (h : BitVec 512) : Nat × Nat := (bits h 436 16 / 1024, bits h 436 16 % 1024)
/-- ADDR -/
def pkAddr (h : BitVec 512) : Nat := bits h 384 52
/-- LENG -/
def pkLen (h : BitVec 512) : Nat := bits h 376 8
/-- OP -/
def pkOp (h : BitVec 512) : Nat := bits h 373 3
/-- FMT -/
def pkFmt (h : BitVec 512) : Nat := bits h 368 5
/-- CTAG -/
def pkTag (h : BitVec 512) : Nat := bits h 352 16
/-- ITER -/
def pkIter (h : BitVec 512) : Nat := bits h 304 48
/-- RANK -/
def pkRank (h : BitVec 512) : Nat := bits h 294 10
/-- OBJ -/
def pkObj (h : BitVec 512) : Nat := bits h 242 52
/-- NLIST + 1 -/
def pkList (h : BitVec 512) : Nat := bits h 232 10 + 1
/-- The packet is news that the sender's work in a collective was cancelled (R271): a bit of the link layer's own (log 50). -/
def pkCancel (h : BitVec 512) : Bool := bits h 230 1 == 1
/-- The packet is part of a collective: its CTAG is not 0, or the link layer's bit says so, since a tag may be 0 (log 50). -/
def pkColl (h : BitVec 512) : Bool := pkTag h != 0 || bits h 229 1 == 1
/-- A packet of TYPE 6 that carries constants (R286): a bit of the link layer's own (log 50). -/
def pkConsts (h : BitVec 512) : Bool := bits h 228 1 == 1
/-- The sender is its job's supervisor unit: a bit of the link layer's own, which the model gives (log 50). -/
def pkSuper (h : BitVec 512) : Bool := bits h 231 1 == 1

/-! ## Chips (R271, R274) -/

/-- The sequence state of a chip with which nothing has been exchanged; the ticks of its silence count from here (R271; log 99). -/
def Peer.fresh (chip tick : Nat) : Peer := ⟨chip, 0, 0, [], [], false, tick⟩

/-- The sequence state of a chip. -/
def State.peer (s : State) (chip : Nat) : Peer := (s.peers.find? (fun q => q.chip == chip)).getD (.fresh chip s.tick)

/-- The sequence state of a chip written. -/
def State.setPeer (s : State) (q : Peer) : State :=
  if s.peers.any (fun r => r.chip == q.chip) then { s with peers := s.peers.map (fun r => if r.chip = q.chip then q else r) }
  else { s with peers := s.peers ++ [q] }

/-- A chip has been declared lost (R271). -/
def State.chipLost (s : State) (chip : Nat) : Bool := s.peers.any (fun q => q.chip == chip && q.lost)

/-- Home of bytes at a peer chip. -/
def isPeerKey (k : Nat) : Bool := 2 ^ 64 ≤ k && k < 2 * 2 ^ 64
/-- The chip of such a home. -/
def peerOf (k : Nat) : Nat := (k - 2 ^ 64) / 2 ^ 52

/-! ## Sending (R273, R274) -/

/-- What a packet carries: TYPE, ADDR, OBJ, LENG, other header fields, payload and its poisoned granules. -/
structure Cargo where
  type : Nat
  addr : Nat
  obj : Nat
  leng : Nat
  fields : Nat
  payload : List Byte
  poison : List Nat
  deriving DecidableEq, Repr, Inhabited

/-- A packet's header. -/
def Cargo.header (g : Cargo) (fjob dst seq : Nat) : BitVec 512 :=
  let f (v lo n : Nat) : Nat := v % 2 ^ n * 2 ^ lo
  BitVec.ofNat 512 (f g.type 508 4 + f Config.chip 496 12 + f dst 484 12 + f seq 452 32 + f g.addr 384 52 +
    f g.leng 376 8 + f g.obj 242 52 + f fjob 436 16 + g.fields)

/-- Under replay a job's packets are discarded at the port (R382). -/
def State.portShut (s : State) (fjob : Nat) : Bool := s.captures.any (fun c => c.replay && jobIx c.part c.job == fjob)

/-- The chip and the number of the next packet to it, as one number. -/
def State.nextCode (s : State) (chip : Nat) : Nat := chip * 2 ^ 32 + (s.peer chip).nextSeq

/-- A packet that such a number names has not been acknowledged. -/
def State.unacked (s : State) (code : Nat) : Bool :=
  s.peers.any (fun q => q.chip == code / 2 ^ 32 && q.unacked.any (fun k => pkSeq k.hdr == code % 2 ^ 32))

/-- A packet awaits its acknowledgement. -/
def State.await (s : State) (chip : Nat) (pk : Packet) : State :=
  let q := s.peer chip
  s.setPeer { q with nextSeq := (q.nextSeq + 1) % 2 ^ 32, unacked := q.unacked ++ [pk] }

/-- A packet to a chip: numbered, and put in the outbox. -/
def State.sendPacket (s : State) (fjob chip : Nat) (g : Cargo) : State :=
  if s.portShut fjob then s
  else
    let pk : Packet := ⟨g.header fjob chip (s.peer chip).nextSeq, g.payload, g.poison⟩
    { s.await chip pk with outbox := s.outbox ++ [pk] }

/-- What a SIGNAL carries that adds `n` to an object; the amount is its payload (log 53). -/
def Cargo.signal (addr n : Nat) : Cargo := ⟨3, addr % 2 ^ 52, addr % 2 ^ 52, 1, 0, toBytes 64 n, []⟩

/-- A SIGNAL packet to an object at its home on another chip. -/
def State.sendSignal (s : State) (fjob chip addr n : Nat) : State := s.sendPacket fjob chip (.signal addr n)

/-- Packets that are sent in order, and the numbers under which they are awaited; none where the job's port is shut. -/
def State.sendAll (s : State) (fjob : Nat) (l : List (Nat × Cargo)) : State × List Nat :=
  if s.portShut fjob then (s, []) else l.foldl (fun (acc : State × List Nat) e => (acc.1.sendPacket fjob e.1 e.2, acc.2 ++ [acc.1.nextCode e.1])) (s, [])

/-- The entries of a list: chip and SEQ of each (R276). -/
def listBytes (es : List (Nat × Nat)) : List Byte := es.flatMap (fun e => toBytes 8 (e.1 * 2 ^ 32 + e.2))

/-- One packet of TYPE 4 or 5 to a list of chips (R276, R277): every chip's number is taken from its own pair, and each entry awaits its own acknowledgement. -/
def State.sendList (s : State) (fjob : Nat) (chips : List Nat) (g : Cargo) : State :=
  if s.portShut fjob || chips.isEmpty then s
  else
    let es := chips.map (fun c => (c, (s.peer c).nextSeq))
    let n (k : Nat) : Nat := (k - 1) * 2 ^ 232
    let pk : Packet := ⟨{ g with fields := g.fields + n es.length }.header fjob 0xFFF 0, listBytes es ++ g.payload, g.poison⟩
    let one (e : Nat × Nat) : Packet := ⟨g.header fjob 0xFFF e.2, listBytes [e] ++ g.payload, g.poison⟩
    { es.foldl (fun (s : State) e => s.await e.1 (one e)) s with outbox := s.outbox ++ [pk] }

/-- Packets to one list of chips, and the numbers under which they are awaited. -/
def State.sendLists (s : State) (fjob : Nat) (chips : List Nat) (l : List Cargo) : State × List Nat :=
  if s.portShut fjob then (s, []) else l.foldl (fun (acc : State × List Nat) g => (acc.1.sendList fjob chips g, acc.2 ++ chips.map acc.1.nextCode)) (s, [])

/-! ## Acknowledgement (R274, R276) -/

/-- A flit of a chip has been accepted (R271). -/
def State.heardFrom (s : State) (chip : Nat) : State :=
  { s with peers := s.peers.map (fun q => if q.chip = chip then { q with heard := s.tick } else q) }

/-- A packet named by chip and number is not awaited any more. -/
def State.unawait (s : State) (chip seq : Nat) : State :=
  { s with peers := s.peers.map (fun q => if q.chip = chip then { q with unacked := q.unacked.filter (fun k => pkSeq k.hdr != seq) } else q) }

/-- Bytes cut into what one packet carries, at most `m` each: offset and length (R273). -/
def packetCuts (n m : Nat) : List (Nat × Nat) := (upto 0 (ceilDiv n m)).map (fun i => (m * i, min m (n - m * i)))

end Sys2Proof.Machine
end

