-- ==== Sys2Proof/Machine/Ops.lean ====
section
/-! DEFINITION. The named operations over the state: registers, storage and its homes, translation, leases and purses, objects, records and events, and taking an exception and returning from one. -/

namespace Sys2Proof

/-- The canonical form of memory: addresses strictly rising from `lo`, no entry that holds what an unlisted byte reads as. -/
def Memory.wfFrom (lo : Nat) : Memory → Bool
  | [] => true
  | (k, v) :: m => lo ≤ k && v != 0 && Memory.wfFrom (k + 1) m

/-- The canonical form of memory. -/
def Memory.wf (m : Memory) : Bool := Memory.wfFrom 0 m

namespace Machine

/-- The outcome of a meaning. -/
abbrev Out := Host.Outcome State Fault Refusal

/-! ## Cores and clocks -/

/-- Core `n` of the package (R8). -/
def State.core (s : State) (n : Nat) : Core := spGet Core.reset s.cores n

/-- The package with core `n` replaced. -/
def State.setCore (s : State) (n : Nat) (c : Core) : State := { s with cores := spSet s.cores n c }

/-- The package with core `n` changed. -/
def State.modCore (s : State) (n : Nat) (f : Core → Core) : State := s.setCore n (f (s.core n))

/-- The die of a core (R8). -/
def dieOf (core : Nat) : Nat := core / 512

/-- A die. -/
def State.die (s : State) (d : Nat) : Die := s.dies.getD d .reset

/-- The arithmetic clock of a core's die. -/
def State.acOf (s : State) (core : Nat) : Nat := (s.die (dieOf core)).ac

/-- Parts of a tick: an ac of every clock step is a whole number of them (R385). -/
def tickParts : Nat := 236880

/-- The clock step that a die runs at: the highest that is asked for (R385). -/
def State.clockStep (s : State) (d : Nat) : Nat := if s.platform.thermal then 5 else (s.die d).droop

/-- Parts of a tick that an ac takes at clock step `n`: the clock is 940 − 94n MHz (R385). -/
def acParts (n : Nat) : Nat := 2520 / (10 - n)

/-- Wall time of a die's next ac. -/
def State.nextAcTime (s : State) (d : Nat) : Nat := (s.die d).time + acParts (s.clockStep d)

/-- A die's clock may count (R13): its next ac lies in this tick, and no die is an ac ahead of another. -/
def State.acMay (s : State) (d : Nat) : Bool :=
  d < 4 && s.nextAcTime d ≤ (s.tick + 1) * tickParts && [0, 1, 2, 3].all (fun e => (s.die d).time ≤ s.nextAcTime e)

/-- The tick may end: no die has an ac left in it. -/
def State.tickMay (s : State) : Bool := [0, 1, 2, 3].all (fun d => (s.tick + 1) * tickParts < s.nextAcTime d)

/-- An event at a later ac of a core's die. -/
def State.after (s : State) (core n : Nat) (i : Instr) : State :=
  { s with timers := s.timers ++ [⟨.ac (dieOf core), s.acOf core + n, some core, i⟩] }

/-- An event at a later tick. -/
def State.atTick (s : State) (t : Nat) (i : Instr) : State :=
  { s with timers := s.timers ++ [⟨.tick, t, none, i⟩] }

/-- Events that must happen before anything else. -/
def State.soon (s : State) (l : List Instr) : State := { s with agenda := s.agenda ++ l.map .occur }

/-- A unit that is being cancelled, or a core that is to roll back, may have come to rest: that is looked at next (R51, R371). -/
def State.stir (s : State) (core : Nat) : State :=
  if (s.core core).seat.cancelling || (s.core core).health.recovering.isSome then s.soon [.instructionRetire core .c 0] else s

/-- Issue has stopped for a pre-emption (R313): a word held at issue issues again at restore. -/
def Core.paused (c : Core) : Bool := c.seat.stopping && !c.seat.cancelling

/-- A stream of a core. -/
def Core.stream (c : Core) : Engine → Stream
  | .c => c.c
  | .v => c.v
  | .m => c.m
  | .x => c.x

/-- The core with a stream replaced. -/
def Core.setStream (c : Core) (e : Engine) (st : Stream) : Core :=
  match e with
  | .c => { c with c := st }
  | .v => { c with v := st }
  | .m => { c with m := st }
  | .x => { c with x := st }

/-- The core with a stream changed. -/
def Core.modStream (c : Core) (e : Engine) (f : Stream → Stream) : Core := c.setStream e (f (c.stream e))

/-! ## Registers (R17, R82) -/

/-- `S(n)`; `S0` reads as zero. -/
def Core.S (c : Core) (n : Nat) : W64 := if n = 0 then 0 else spGet 0 c.regs.s n

/-- `WriteS(n, v)`; a write to `S0` is discarded. A result that the register still awaited is superseded. -/
def Core.setS (c : Core) (n : Nat) (v : W64) : Core :=
  if n = 0 then c else { c with regs := { c.regs with s := spPut 0 c.regs.s n v, due := spPut (0, 0) c.regs.due n (0, 0) } }

/-- `Sn` may be read from `ac` on (R81); `id` numbers an atomic that is to write it. -/
def Core.awaitS (c : Core) (n ac id : Nat) : Core :=
  if n = 0 then c else { c with regs := { c.regs with due := spPut (0, 0) c.regs.due n (ac, id) } }

/-- The record or handle at scoreboard key `key` may be read from `ac` on, if not later (R81). -/
def Core.awaitKey (c : Core) (key ac : Nat) : Core :=
  { c with regs := { c.regs with due := spPut (0, 0) c.regs.due key (max ac (spGet (0, 0) c.regs.due key).1, 0) } }
/-- Scoreboard key of a tensor record. -/
def keyT (n : Nat) : Nat := 64 + n
/-- Scoreboard key of an iterator record. -/
def keyI (n : Nat) : Nat := 128 + n

/-- The registers, handles and records of a list of scoreboard keys have their results written at `ac` (R81). -/
def Core.readable (c : Core) (ns : List Nat) (ac : Nat) : Bool := ns.all (fun n => n = 0 || (spGet (0, 0) c.regs.due n).1 ≤ ac)

/-- Steer register `Gn` (R19). -/
def Core.G (c : Core) (n : Nat) : W32 := spGet 0 c.regs.g n
/-- Write `Gn`. -/
def Core.setG (c : Core) (n : Nat) (v : W32) : Core := { c with regs := { c.regs with g := spPut 0 c.regs.g n v } }
/-- COND and CREC of a steer register written together (R19). -/
def Core.setCond (c : Core) (n : Nat) (cond : Bool) (crec : Nat) : Core :=
  c.setG n (putBits (putBits (c.G n) 3 1 cond.toNat) 0 3 crec)
/-- TARGET of a steer register written, with TV (R19). -/
def Core.setTarget (c : Core) (n target : Nat) : Core :=
  c.setG n (putBits (putBits (c.G n) 5 17 target) 4 1 1)
/-- COND of a steer register. -/
def Core.cond (c : Core) (n : Nat) : Bool := (c.G n).toNat.testBit 3

/-- Handle `Hn` (R21). -/
def Core.H (c : Core) (n : Nat) : BitVec 128 := spGet 0 c.regs.h n
/-- Write `Hn`. -/
def Core.setH (c : Core) (n : Nat) (v : BitVec 128) : Core := { c with regs := { c.regs with h := spPut 0 c.regs.h n v } }
/-- Tensor record `Tn` (R23). -/
def Core.T (c : Core) (n : Nat) : BitVec 256 := spGet 0 c.regs.t n
/-- Write `Tn`. -/
def Core.setT (c : Core) (n : Nat) (v : BitVec 256) : Core := { c with regs := { c.regs with t := spPut 0 c.regs.t n v } }
/-- Iterator record `In` (R24). -/
def Core.I (c : Core) (n : Nat) : BitVec 128 := spGet 0 c.regs.i n
/-- Write `In`. -/
def Core.setI (c : Core) (n : Nat) (v : BitVec 128) : Core := { c with regs := { c.regs with i := spPut 0 c.regs.i n v } }
/-- Object slot `On` (R25). -/
def Core.O (c : Core) (n : Nat) : W64 := spGet 0 c.regs.o n
/-- Write `On`. -/
def Core.setO (c : Core) (n : Nat) (v : W64) : Core := { c with regs := { c.regs with o := spPut 0 c.regs.o n v } }

/-- Tile register `Vn`. -/
def Vec.V (v : Vec) (n : Nat) : Tile := spGet [] v.v n
/-- Mask `Kn`; `K0` is all ones. -/
def Vec.K (v : Vec) (n : Nat) : BitVec 1024 := if n = 0 then BitVec.allOnes 1024 else spGet 0 v.k n
/-- Write a tile register. -/
def Vec.setV (v : Vec) (n : Nat) (t : Tile) : Vec := { v with v := spPut [] v.v n t }
/-- Write a mask; a write to `K0` is discarded. -/
def Vec.setK (v : Vec) (n : Nat) (m : BitVec 1024) : Vec := if n = 0 then v else { v with k := spPut 0 v.k n m }

/-- Accumulator tile `An` (R31). -/
def Mat.A (m : Mat) (n : Nat) : Tile := spGet [] m.a n
/-- Write an accumulator tile. -/
def Mat.setA (m : Mat) (n : Nat) (t : Tile) : Mat := { m with a := spPut [] m.a n t }

/-- Tokens in the dowel from `p` to `q` (R17). -/
def Core.dowelN (c : Core) (p q : Engine) : Nat := spGet 0 c.dowel (p.num * 4 + q.num)
/-- Set a dowel's count. -/
def Core.setDowel (c : Core) (p q : Engine) (n : Nat) : Core :=
  { c with dowel := spPut 0 c.dowel (p.num * 4 + q.num) n }

/-- The engines that a SIGNAL clause names. -/
def signalled (sg : BitVec 4) : List Engine := [Engine.c, .v, .m, .x].filter (fun e => sg.toNat.testBit e.num)

/-- Push one token to each engine of a SIGNAL clause, all in one ac (R60). -/
def Core.push (c : Core) (p : Engine) (sg : BitVec 4) : Core :=
  (signalled sg).foldl (fun c e => c.setDowel p e (c.dowelN p e + 1)) c

/-- Pop the tokens of a WAIT clause (R60). -/
def Core.pop (c : Core) (self : Engine) (w : Option (Engine × Nat)) : Core :=
  match w with
  | none => c
  | some (e, n) => c.setDowel e self (c.dowelN e self - n)

/-- Tokens that a WAIT clause popped are put back: its word issues again. -/
def Core.unpop (c : Core) (self : Engine) (w : Option (Engine × Nat)) : Core :=
  match w with
  | none => c
  | some (e, n) => c.setDowel e self (c.dowelN e self + n)

/-- A sweep stops at a row-step boundary; its `VMAP` will issue again, and waits for its tokens again (R148; log 94). -/
def Core.stopSweep (c : Core) : Core :=
  match c.sweep with
  | none => c
  | some w => { c.unpop .v w.cur.frame.wait with sweep := none, vtarget := none }

/-- The tokens of a WAIT clause are present. -/
def Core.hasTokens (c : Core) (self : Engine) (w : Option (Engine × Nat)) : Bool :=
  match w with
  | none => true
  | some (e, n) => n ≤ c.dowelN e self

/-- Tokens that words of `e` issued and not yet retired will push to `q`: flights, operations and commands. -/
def Core.pending (c : Core) (e q : Engine) : Nat :=
  (c.flights.filter (fun f => f.eng == e && f.signal.toNat.testBit q.num)).length +
  (if e = .m then (c.mat.ops.filter (fun o => o.signal.toNat.testBit q.num)).length else 0)

/-- INH of TRAPRET (R99). -/
def Core.inh (c : Core) : Bool := c.csr.trapret.toNat.testBit 17

/-! ## Homes of bytes (R340 and log 8) -/

/-- Home of an SPM byte of a core (R340). -/
def keySpm (core off : Nat) : Nat := 0x20000000000 + core * 0x100000 + off
/-- Home of an MSM byte of a core; MSM has no physical address. -/
def keyMsm (core off : Nat) : Nat := 2 ^ 52 + core * 0x40000 + off
/-- Home of a byte at the target of a leaf: 0 local, 1 peer, 2 host, 3 pool (R341). -/
def keyAt (target chip pa : Nat) : Nat := if target = 0 then pa else 2 ^ 64 * target + chip * 2 ^ 52 + pa
/-- A local physical address that holds storage (R340). -/
def isStorage (pa : Nat) : Bool :=
  pa < 0x8000000000 || (0x10000000000 ≤ pa && pa < 0x10020000000) || (0x20000000000 ≤ pa && pa < 0x20080000000)
/-- The SPM or MSM of some core. -/
def isCoreKey (k : Nat) : Bool := (0x20000000000 ≤ k && k < 0x20080000000) || (2 ^ 52 ≤ k && k < 2 ^ 64)
/-- The SPM or MSM of this core. -/
def isOwnKey (core k : Nat) : Bool :=
  (keySpm core 0 ≤ k && k < keySpm core 0x100000) || (keyMsm core 0 ≤ k && k < keyMsm core 0x40000)
/-- The size of a tier that C, V and M address by offset (R29): 0 SPM, 1 MSM. -/
def tierSize (bkind : Nat) : Nat := if bkind = 0 then 0x100000 else 0x40000
/-- Home of an offset in the SPM (0) or MSM (1) of a core. -/
def keyTier (core bkind off : Nat) : Nat := if bkind = 0 then keySpm core off else keyMsm core off

/-! ## Storage -/

/-- One byte; unlisted bytes read as zero. -/
def memByte (m : Memory) (k : Nat) : Byte := spGet 0 m k
/-- `n` bytes. -/
def memBytes (m : Memory) (k n : Nat) : List Byte := (List.range n).map (fun i => memByte m (k + i))
/-- The entries that a list of bytes from `k` on makes. -/
def memEntries : Nat → List Byte → Memory
  | _, [] => []
  | k, b :: bs => if b = 0 then memEntries (k + 1) bs else (k, b) :: memEntries (k + 1) bs
/-- Memory with the bytes from `k` on replaced. -/
def memWrite (m : Memory) (k : Nat) (bs : List Byte) : Memory :=
  m.filter (fun p => p.1 < k) ++ memEntries k bs ++ m.filter (fun p => k + bs.length ≤ p.1)

/-- Granules that a range touches. -/
def granules (k n : Nat) : List Nat := if n = 0 then [] else upto (k / 64) ((k + n - 1) / 64 - k / 64 + 1)
/-- A range touches a poisoned granule (R369). -/
def State.poisoned (s : State) (k n : Nat) : Bool :=
  s.poison.any (fun g => n != 0 && k / 64 ≤ g && g ≤ (k + n - 1) / 64)

/-- A write of clean bytes clears the poison of each granule that it covers whole (log 17). -/
def State.writeMem (s : State) (k : Nat) (bs : List Byte) : State :=
  { s with
    mem := memWrite s.mem k bs
    poison := s.poison.filter (fun g => !(k ≤ g * 64 && g * 64 + 64 ≤ k + bs.length)) }

/-- Mark the granules of a range poisoned. -/
def State.poisonAt (s : State) (k n : Nat) : State :=
  { s with poison := s.poison ++ (granules k n).filter (fun g => !s.poison.contains g) }

/-- A number of `n` bytes at `k`. -/
def State.readNat (s : State) (k n : Nat) : Nat := ofBytes (memBytes s.mem k n)
/-- Write a number of `n` bytes. -/
def State.writeNat (s : State) (k n v : Nat) : State := s.writeMem k (toBytes n v)

/-- The byte of a store at `k`, if it covers it. -/
def PlainStore.at? (p : PlainStore) (k : Nat) : Option Byte :=
  if p.key ≤ k then p.bytes[k - p.key]? else none

/-- A byte under a choice of published stores, with a unit's own stores last (R244, R245). -/
def State.viewByte (s : State) (sees own : PlainStore → Bool) (k : Nat) : Byte :=
  let pick (f : PlainStore → Bool) (b : Byte) : Byte :=
    s.stores.foldl (fun b p => if f p then (p.at? k).getD b else b) b
  pick (fun p => p.pub == 0 && own p) (pick (fun p => p.pub != 0 && sees p) (memByte s.mem k))

/-- A byte as the walker and the engines of the I/O die see it: every published store (R342). -/
def State.pubBytes (s : State) (k n : Nat) : List Byte :=
  if s.stores.isEmpty then memBytes s.mem k n
  else (List.range n).map (fun i => s.viewByte (fun _ => true) (fun _ => false) (k + i))

/-- A byte as a command of core `c`'s unit sees it (R245): own plain stores whose command has retired, and others' publications up to the phase in which the command was accepted, or joined since. -/
def State.unitBytes (s : State) (c : Core) (view k n : Nat) : List Byte :=
  if s.stores.isEmpty then memBytes s.mem k n
  else
    let u := c.seat.unit.getD (0, 0)
    let mine (p : PlainStore) : Bool := p.launch == u.1 && p.unit == u.2
    let live (p : PlainStore) : Bool := c.copy.cmds.any (fun x => x.id == p.cmd)
    (List.range n).map (fun i =>
      s.viewByte (fun p => p.pub ≤ view || c.seat.joined.contains p.pub || mine p)
        (fun p => mine p && !live p) (k + i))

/-- What is left of a store outside `n` bytes at `k`. -/
def PlainStore.outside (p : PlainStore) (k n : Nat) : List PlainStore :=
  if p.key + p.bytes.length ≤ k || k + n ≤ p.key then [p]
  else
    [{ p with bytes := p.bytes.take (k - p.key) }, { p with key := k + n, bytes := p.bytes.drop (k + n - p.key) }].filter
      (fun q => !q.bytes.isEmpty)

/-- A write at its home that is not staged. It comes after the stores that `over` picks, and so overrides them there (R244). -/
def State.writeOver (s : State) (cut : PlainStore → Bool) (k : Nat) (bs : List Byte) : State :=
  { s.writeMem k bs with stores := s.stores.flatMap (fun p => if cut p then p.outside k bs.length else [p]) }

/-- The command of a staged store has retired: what is ordered after its retirement comes after the store (R243). -/
def State.staged (s : State) (p : PlainStore) : Bool :=
  let has (u : Option (Nat × Nat)) (c : Core) : Bool := u == some (p.launch, p.unit) && c.copy.cmds.any (fun x => x.id == p.cmd)
  !s.cores.any (fun e => has e.2.seat.unit e.2) && !s.saves.any (fun v => has (some (v.launch, v.unit)) v.ctx)

/-- A write at its home: it comes after every published store, and after every staged one whose command has retired (R244). -/
def State.writeHome (s : State) (k : Nat) (bs : List Byte) : State := s.writeOver (fun p => p.pub != 0 || s.staged p) k bs

/-- The write of an indivisible access, which has read what is published: a staged store comes after it, at its publication (R245, R246). -/
def State.writeAtom (s : State) (k : Nat) (bs : List Byte) : State := s.writeOver (fun p => p.pub != 0) k bs

/-- A store of the unit on a core whose command has retired: the unit's later commands see it, staged or not (R204). -/
def State.ownStaged (s : State) (core : Nat) (p : PlainStore) : Bool :=
  (s.core core).seat.unit == some (p.launch, p.unit) && s.staged p

/-- Bytes that an indivisible access of a core's unit reads at their home (R204, R246). -/
def State.atomBytes (s : State) (core k n : Nat) : List Byte :=
  if s.stores.isEmpty then memBytes s.mem k n
  else (List.range n).map (fun i => s.viewByte (fun _ => true) (s.ownStaged core) (k + i))

/-- The write of such an access. -/
def State.writeAtomOf (s : State) (core k : Nat) (bs : List Byte) : State :=
  s.writeOver (fun p => p.pub != 0 || s.ownStaged core p) k bs

/-- A number at its home, every publication seen. -/
def State.homeNat (s : State) (k n : Nat) : Nat := ofBytes (s.pubBytes k n)

/-! ## Units, jobs and partitions -/

/-- The launch record of a launch. -/
def State.launch (s : State) (id : Nat) : Option Launch := s.launches.find? (fun l => l.id == id)
/-- A graph by its order of acceptance. -/
def State.graph (s : State) (q : Nat) : Option Graph := s.graphs.find? (fun g => g.seq == q)
/-- A unit of a launch. -/
def State.unit (s : State) (l n : Nat) : Option Unit_ := s.units.find? (fun u => u.launch == l && u.no == n)
/-- The unit on a core. -/
def State.unitOf (s : State) (core : Nat) : Option Unit_ :=
  match (s.core core).seat.unit with
  | some (l, n) => s.unit l n
  | none => none

/-- Partition and job of a launch. -/
def State.jobOfLaunch (s : State) (l : Nat) : Nat × Nat :=
  match s.launch l with
  | some la => match s.graph la.graph with
    | some g => (g.part, bits g.record 464 16)
    | none => (0, 0)
  | none => (0, 0)

/-- Partition and job of the unit on a core. -/
def State.jobOf (s : State) (core : Nat) : Nat × Nat :=
  match (s.core core).seat.unit with
  | some (l, _) => s.jobOfLaunch l
  | none => (0, 0)

/-- A job entry. -/
def State.job (s : State) (p j : Nat) : Job := spGet Job.reset s.jobs (jobIx p j)
/-- A partition entry. -/
def State.part (s : State) (p : Nat) : Partition := spGet Partition.reset s.parts p
/-- The partition of a core's quad, if it is assigned (R330). -/
def State.partOfCore (s : State) (core : Nat) : Option Nat :=
  let o := spGet 0 s.owners (core / 4)
  if o.toNat.testBit 6 then some (bits o 0 6) else none

/-- SUPER of a launch record. -/
def Launch.super (l : Launch) : Nat := bits l.record 263 11
/-- IMGLEN of the unit on a core, in granules. -/
def State.imgLen (s : State) (core : Nat) : Nat := ((s.unitOf core).map (·.imgLen)).getD 0
/-- Byte offset in SPM of the image region of the unit on a core. -/
def State.imgBase (s : State) (core : Nat) : Nat := ((s.unitOf core).map (·.imgOff)).getD 0 * 64

/-- The core on which the launch's supervisor unit stands: a unit of the job resident on core SUPER. -/
def State.superOf (s : State) (core : Nat) : Option Nat :=
  match (s.core core).seat.unit with
  | some (l, _) => match s.launch l with
    | some la => if s.jobOf la.super = s.jobOf core && (s.core la.super).seat.unit.isSome then some la.super else none
    | none => none
  | none => none

/-- The core on which a job's supervisor unit is resident (R332, R209). -/
def State.jobSuper (s : State) (p j : Nat) : Option Nat :=
  let c := (s.job p j).super.toNat
  if (s.core c).seat.unit.isSome && s.jobOf c = (p, j) then some c else none

/-! ## Translation (R338 to R342) -/

/-- Bytes of a page by SIZE (R21). -/
def pageSize (size : Nat) : Nat :=
  match size with
  | 0 => 2 ^ 18
  | 1 => 2 ^ 21
  | 2 => 2 ^ 25
  | _ => 2 ^ 30

/-- First index bit, number of entries and leaf SIZE of each level (R338). -/
def walkLevel (l : Nat) : Nat × Nat × Nat :=
  match l with
  | 0 => (40, 4096, 0)
  | 1 => (30, 1024, 3)
  | 2 => (25, 32, 2)
  | 3 => (21, 16, 1)
  | _ => (18, 8, 0)

/-- A walk from a table at `base` of level `l`, with `fuel` levels left; `own` asks that a local HBM frame be the partition's (R331). -/
def walkFrom (s : State) (own : Bool) (part va : Nat) : Nat → Nat → Nat → Option Leaf
  | 0, _, _ => none
  | fuel + 1, l, base =>
    let (sh, n, size) := walkLevel l
    let key := base + 8 * (va / 2 ^ sh % n)
    let e := s.homeNat key 8
    if !e.testBit 63 then none
    else if !e.testBit 62 then
      let next := fldN e 6 46 * 64
      let (_, n', _) := walkLevel (l + 1)
      if l = 4 || fldN e 52 10 != 0 || fldN e 0 6 != 0 || next % (8 * n') != 0 then none
      else walkFrom s own part va fuel (l + 1) next
    else
      let target := fldN e 60 2
      let chip := fldN e 48 12
      let frame := fldN e 14 34
      let pt := s.part part
      let local_ := target == 0
      let pa := frame * 2 ^ 18
      if l = 0 || fldN e 0 9 != 0 || pa % pageSize size != 0 then none
      else if local_ && (chip != Config.chip || !isStorage pa) then none
      else if own && local_ && pa < 0x8000000000 &&
          !(pt.hbase.toNat ≤ frame && frame + pageSize size / 2 ^ 18 ≤ pt.hbase.toNat + pt.hpages.toNat) then none
      else if (target == 1 && chip == Config.chip) || (target == 2 && chip != 0) then none
      else some ⟨size, target, chip, frame, e.testBit 13, e.testBit 12, e.testBit 11, key⟩

/-- The slot map of save areas (R317): the page of an occupied slot. -/
def saveLeaf (s : State) (p j va : Nat) : Option Leaf :=
  let off := va - (s.job p j).savewin.toNat
  match s.saves.find? (fun v => v.part == p && v.job == j && v.slot == off / 2 ^ 21) with
  | some v => match v.pages[off % 2 ^ 21 / 2 ^ 18]? with
    | some pa => some ⟨0, 0, Config.chip, pa / 2 ^ 18, true, false, false, 0⟩
    | none => none
  | none => none

/-- An address of a job's save window, where walks consult the slot map alone (R317). -/
def inSaveWindow (s : State) (p j va : Nat) : Bool :=
  let win := (s.job p j).savewin.toNat
  win != 0 && win ≤ va && va < win + 2 ^ 32

/-- A leaf for an access: it has the permissions that the access needs (R341). -/
def Leaf.grants (l : Leaf) (needR needW : Bool) : Option Leaf := if (needR && !l.r) || (needW && !l.w) then none else some l

/-- A walk of a job's virtual address for an access (R341). -/
def walk (s : State) (p j va : Nat) (needR needW : Bool) : Option Leaf :=
  let l := if va ≥ 2 ^ 52 then none
    else if inSaveWindow s p j va then saveLeaf s p j va
    else walkFrom s true p va 5 0 (s.job p j).root.toNat
  l.bind (fun lf => lf.grants needR needW)

/-- The walk would reach a local HBM frame outside the partition: it fails, and XPART is posted (R331). -/
def strays (s : State) (p j va : Nat) : Bool :=
  va < 2 ^ 52 && !inSaveWindow s p j va && (walk s p j va false false).isNone && (walkFrom s false p va 5 0 (s.job p j).root.toNat).isSome

/-- A TLB entry is of an agent and an ASID, and its page holds a byte of a range. -/
def Tlb.meets (e : Tlb) (asid base len : Nat) : Bool :=
  e.asid == asid && e.page < base + len && base < e.page + pageSize e.leaf.size

/-- A translation as an agent that keeps walks in a TLB makes it (R343): its cached leaf, else a walk. -/
def xlate (s : State) (agent : Option Nat) (p j va : Nat) (needR needW : Bool) : Option Leaf :=
  match s.tlbs.find? (fun e => e.agent == agent && e.meets (s.job p j).asid.toNat va 1) with
  | some e => e.leaf.grants needR needW
  | none => walk s p j va needR needW

/-- TLB entries of an ASID whose page holds a byte of a range are removed (R209). -/
def State.flushTlbs (s : State) (asid base len : Nat) : State := { s with tlbs := s.tlbs.filter (fun e => !e.meets asid base len) }

/-- A walker keeps a walk that it has completed (R343): a core's X for the job of its unit, an engine of the I/O die for any. A failed walk, and one by the slot map of save areas, are not kept. -/
def State.fillTlb (s : State) (agent : Option Nat) (p j va : Nat) : State :=
  let mine : Bool := match agent with
    | some c => (s.core c).seat.unit.isSome && s.jobOf c == (p, j)
    | none => (s.job p j).valid
  let asid := (s.job p j).asid.toNat
  if !mine || inSaveWindow s p j va || s.tlbs.any (fun e => e.agent == agent && e.meets asid va 1) then s
  else match walk s p j va false false with
    | some l => { s with tlbs := s.tlbs ++ [⟨agent, asid, va / pageSize l.size * pageSize l.size, l⟩] }
    | none => s

/-- Home of the byte that a leaf gives a virtual address. -/
def Leaf.keyOf (l : Leaf) (va : Nat) : Nat :=
  keyAt l.target l.chip (l.frame * 2 ^ 18 + va % pageSize l.size)

/-- Home of one virtual address. -/
def homeOf (s : State) (p j va : Nat) (needR needW : Bool) : Option Nat :=
  (walk s p j va needR needW).map (·.keyOf va)

/-! ## Leases and purses (R349 to R356) -/

/-- A lease entry that is not free. -/
def State.lease (s : State) (id : Nat) : Option Lease := spFind s.leases id
/-- Write a lease entry. -/
def State.setLease (s : State) (id : Nat) (l : Lease) : State := { s with leases := spSet s.leases id l }
/-- Change a lease entry. -/
def State.modLease (s : State) (id : Nat) (f : Lease → Lease) : State :=
  match s.lease id with
  | some l => s.setLease id (f l)
  | none => s

/-- The controller of an id (R108). -/
def ctrlOf (id : Nat) : Nat := id / 8192
/-- The controller of a lease of a tier on a core. -/
def ctrlFor (tier core : Nat) : Nat := if tier ≤ 1 then dieOf core else 4

/-- A purse; CAP is that of the job entry at JOB_CREATE. -/
def State.purse (s : State) (p j : Nat) : Purse := spGet ⟨0, 0, 1000000, 0, 0, false⟩ s.purses (jobIx p j)
/-- Write a purse. -/
def State.setPurse (s : State) (p j : Nat) (q : Purse) : State := { s with purses := spSet s.purses (jobIx p j) q }

/-- A range lies in the ranges of a lease. -/
def Lease.holdsRange (l : Lease) (k n : Nat) : Bool := l.ranges.any (fun r => r.1 ≤ k && k + n ≤ r.1 + r.2)
/-- A range overlaps a range of a lease. -/
def overlaps (rs : List (Nat × Nat)) (k n : Nat) : Bool := rs.any (fun r => k < r.1 + r.2 && r.1 < k + n)

/-- `LeaseCheck(id, t)` of R352, for the checking job. -/
def leaseCheck (s : State) (p j id : Nat) : Except Cause Lease :=
  match s.lease id with
  | none => .error .nolease
  | some l =>
    if id % 8192 = 0 || l.part != p || l.job != j then .error .nolease
    else if l.stowed || l.vacating || l.state == .vacated then .error .nolease
    else if l.state == .reclaimed then .error .reclaimed
    else if l.state == .lapsed || l.paid ≤ s.tick then .error .expiry
    else .ok l

/-- The check of C, V and M: RECLAIMED is reported as NOLEASE, and every byte must lie in the lease (R352). -/
def checkRange (s : State) (p j id k n : Nat) : Option Cause :=
  match leaseCheck s p j id with
  | .error .reclaimed => some .nolease
  | .error c => some c
  | .ok l => if l.holdsRange k n then none else some .nolease

/-- The job's lease that holds a range, the first that passes its check before the first that does not (R90; log 18). -/
def coveringLease (s : State) (p j k n : Nat) : Nat :=
  let l := (s.leases.filter (fun e => e.2.part == p && e.2.job == j && e.2.holdsRange k n)).map (·.1)
  let good := l.filter (fun id => match leaseCheck s p j id with
    | .ok _ => true
    | .error _ => false)
  (good ++ l).headD 0

/-- The check of an access by raw address (R90). -/
def checkCovering (s : State) (p j k n : Nat) : Option Cause :=
  checkRange s p j (coveringLease s p j k n) k n

/-- Leases of a list that a `VACATE` has left with no hold (R117). -/
def State.holdsOver (s : State) (ids : List Nat) : List Nat :=
  ids.eraseDups.filter (fun id => (s.lease id).any (fun l => l.vacating && l.holds == 0))

/-- Take or release a hold on each lease (R353). The last hold of a vacating lease ends its `VACATE`, at once (R117). -/
def State.hold (s : State) (ids : List Nat) (up : Bool) : State :=
  let s := ids.foldl (fun s id => s.modLease id (fun l =>
    { l with holds := if up then l.holds + 1 else l.holds - 1 })) s
  if up then s else (s.holdsOver ids).foldl (fun s id => s.soon [.vacateComplete id]) s

/-- `Rate(t)` of a partition (R110). -/
def State.rate (s : State) (p tier : Nat) : Nat := (s.part p).rates.getD tier 0

/-- `Charge(len, t, n)` (R110). -/
def charge (s : State) (p len tier n : Nat) : Nat := ceilDiv (ceilDiv len 64 * s.rate p tier * n) 65536

/-- A credit saturates (R110); CAPPED ends when BAL rises above −CAP (R356). -/
def Purse.credit (q : Purse) (n : Nat) : Purse :=
  let b := min (q.bal + n) (2 ^ 63 - 1)
  { q with bal := b, capped := q.capped && b ≤ -(q.cap : Int) }

/-- Add points to a purse. -/
def State.credit (s : State) (p j n : Nat) : State := s.setPurse p j ((s.purse p j).credit n)

/-- Sum of the escrow of a purse's leases (R349). -/
def State.escrowOf (s : State) (p j : Nat) : Nat :=
  (s.leases.filter (fun e => e.2.part == p && e.2.job == j)).foldl (fun n e => n + e.2.escrow) 0

/-- A storage range may be leased: no live lease and no scrub overlaps it (R109). -/
def State.taken (s : State) (rs : List (Nat × Nat)) : Bool :=
  rs.any (fun r =>
    s.leases.any (fun e => !(e.2.state == .vacated || e.2.state == .reclaimed) && !e.2.stowed && overlaps e.2.ranges r.1 r.2) ||
    s.scrubs.any (fun c => overlaps c.ranges r.1 r.2))

/-- The lowest free slot of a controller (R108). -/
def State.freeSlot (s : State) (ctrl : Nat) : Option Nat :=
  let used := (s.leases.map (·.1)).filter (fun id => ctrlOf id == ctrl)
  match (upto (ctrl * 8192 + 1) (used.length + 1)).find? (fun id => !used.contains id) with
  | some id => if id % 8192 = 0 then none else some id
  | none => none

/-! ## Records and events (R377 to R380) -/

/-- The code of a cause (R377). -/
def Cause.code : Cause → Nat
  | .illop => 0x0001 | .illseq => 0x0002 | .bounds => 0x0003 | .align => 0x0004
  | .expiry => 0x0005 | .nolease => 0x0006 | .reclaimed => 0x0007 | .record => 0x0008
  | .steerUnset => 0x0009 | .fetchBounds => 0x000A | .loopcnt => 0x000B | .loopbusy => 0x000C
  | .objEmpty => 0x000D | .objLease => 0x000E | .csrRo => 0x000F | .csrbusy => 0x0010
  | .dictbusy => 0x0011 | .trapNest => 0x0012 | .eretState => 0x0013 | .forkbusy => 0x0014
  | .queueLeft => 0x0015 | .offcutLeft => 0x0016 | .enqTarget => 0x0017 | .cancelDenied => 0x0018
  | .barScope => 0x0019 | .leaseArg => 0x001A | .handleBusy => 0x001B | .portBusy => 0x001C
  | .vtarget => 0x001D | .dowelOvf => 0x001E | .offcutFull => 0x001F | .qval => 0x0020
  | .mqFull => 0x0021 | .handle => 0x0022 | .walk => 0x0023 | .unsignalled => 0x0024
  | .peerLost => 0x0025 | .priv => 0x0026 | .silent => 0x0027 | .poison => 0x0028 | .placeFail => 0x0029
  | .correctable => 0x0100 | .corrected => 0x0101 | .rollback => 0x0102 | .suspect => 0x0103
  | .regen => 0x0104 | .mirrorUsed => 0x0105 | .postRefused => 0x0106 | .recordBad => 0x0107
  | .graphStuck => 0x0108 | .stall => 0x0109 | .arrears => 0x010A | .purseCap => 0x010B
  | .reclaim => 0x010C | .offcutLost => 0x010D | .objDrop => 0x010E | .linkDown => 0x010F
  | .xpart => 0x0110 | .preempted => 0x0111 | .kblockBad => 0x0112 | .kcmdDenied => 0x0113
  | .kprogBad => 0x0114 | .kprogAbort => 0x0115 | .kcabinetLost => 0x0116 | .ksubLost => 0x0117
  | .missing => 0x0118 | .captureEnd => 0x0119 | .kcmdDone => 0x011A
  | .software v => 0x8000 + v.toNat

/-- A report with only a cause. -/
def Report.of (c : Cause) : Report := ⟨c, .c, 0, 0, 0, 0, 0, 0, 0, 0, 0, 0, none⟩

/-- Who a record is about. -/
structure Whom where
  part : Nat
  job : Nat
  core : Nat
  launch : Nat
  unit : Nat
  deriving DecidableEq, Repr, Inhabited

/-- The unit on a core, as a record names it. -/
def State.whom (s : State) (core : Nat) : Whom :=
  let pj := s.jobOf core
  let u := (s.core core).seat.unit.getD (0, 0)
  ⟨pj.1, pj.2, core, u.1, u.2⟩

/-- The 64-byte record of R378. -/
def recordBits (s : State) (r : Report) (w : Whom) (evt loss : Bool) (seq : Nat) : BitVec 512 :=
  let f (v lo n : Nat) : Nat := v % 2 ^ n * 2 ^ lo
  BitVec.ofNat 512 <|
    [f r.cause.code 496 16, f r.eng.num 494 2, f evt.toNat 493 1, f loss.toNat 492 1, f r.pc.toNat 475 17,
     f r.codePos 473 2, f r.trec 467 6, f r.irec 463 4, f r.idx.toNat 415 48, f r.pp 391 24, f r.lb 387 4,
     f r.lease 371 16, f s.tick 323 48, f w.unit 291 32, f w.core 280 11, f w.launch 248 32, f w.job 232 16,
     f w.part 226 6, f r.count 194 32, f r.detail 130 64, f seq 66 64].foldl (· + ·) 0

/-- Append a record to an event ring (R380). -/
def Ring.append (g : Ring) (mk : Bool → Nat → BitVec 512) : Ring :=
  if g.written - g.read = 4096 then { g with dropped := g.dropped + 1, loss := true }
  else { g with recs := spSet g.recs (g.written % 4096) (mk g.loss g.written), written := g.written + 1, loss := false }

/-- A ring, empty at reset. -/
def State.ring (s : State) (p : Nat) : Ring := spGet ⟨[], 0, 0, 0, false⟩ s.rings p

/-- A record to the event ring of partition `p` about `w`. -/
def State.toRing (s : State) (p : Nat) (r : Report) (w : Whom) (evt : Bool) : State :=
  { s with rings := spSet s.rings p ((s.ring p).append (recordBits s r w evt)) }

/-- The home of an object slot's object for the unit on a core: KIND 1 in the core's SPM, KIND 2 by a walk (R25, R96). -/
def objHome (s : State) (core : Nat) (o : W64) : Option Nat :=
  let a := bits o 3 49 * 8
  let pj := s.jobOf core
  match bits o 62 2 with
  | 1 => if a + 8 ≤ 0x100000 then some (keySpm core a) else none
  | 2 => homeOf s pj.1 pj.2 a true true
  | _ => none

/-- The lease under which an object lies: a SYNC lease of the job; a stowed one only where no other holds the range, which may have been leased anew (R315). -/
def syncLease (s : State) (p j k n : Nat) : Option (Nat × Lease) :=
  let l := s.leases.filter (fun e => e.2.part == p && e.2.job == j && e.2.sync && e.2.holdsRange k n &&
    !(e.2.state == .vacated || e.2.state == .reclaimed))
  (l.filter (fun e => !e.2.stowed) ++ l.filter (fun e => e.2.stowed)).head?

/-- An object's region is under an OPEN SYNC lease of the job that passes the check (R96, R358). -/
def syncOpen (s : State) (p j k n : Nat) : Bool :=
  match syncLease s p j k n with
  | some (id, _) => match leaseCheck s p j id with
    | .ok _ => true
    | .error _ => false
  | none => false

/-- An object that an instruction or a command names may be named (R96); its home on another chip checks the lease there when the increment comes (R361; log 98). -/
def objectOpen (s : State) (p j k : Nat) : Bool := isPeerKey k || syncOpen s p j k 8

/-- A record to a unit's inbox (R379): written, then the object of `OBJ31` incremented. `none` where the region is no OPEN SYNC lease. -/
def State.inbox (s : State) (core : Nat) (rec : BitVec 512) : Option State :=
  let o := (s.core core).O 31
  let pj := s.jobOf core
  match objHome s core o with
  | some k =>
    if syncOpen s pj.1 pj.2 k (64 + 1024) then
      let v := s.homeNat k 8
      let s := s.writeHome (k + 64 + 64 * (v % 16)) (toBytes 64 rec.toNat)
      some (s.writeHome k (toBytes 8 (v + 1)))
    else none
  | none => none

/-- Waits on an object whose value is now reached: they end within 64 ac (R96). -/
def State.wake (s : State) (k : Nat) : State :=
  s.cores.foldl (fun s e =>
    let due (st : Stream) : Bool := st.wait.obj == k && (st.wait.cancelled || st.wait.goal ≤ s.homeNat k 8)
    let s := if e.2.c.wait.kind == .object && due e.2.c then s.after e.1 64 (.waitoEnd e.1) else s
    if e.2.x.wait.kind == .xwait && due e.2.x then s.after e.1 4 (.xwaitEnd e.1) else s) s

/-- A record about `w` to partition `p`'s ring, and to the inbox of a receiving unit. Bit 0 of DETAIL says that the inbox could not take it. -/
def State.post (s : State) (p : Nat) (recv : Option Nat) (r : Report) (w : Whom) (evt : Bool) : State :=
  match recv with
  | none => s.toRing p r w evt
  | some c =>
    let o := (s.core c).O 31
    if bits o 62 2 = 0 || bits o 62 2 = 3 then s.toRing p r w evt
    else match s.inbox c (recordBits s r w evt (s.ring p).loss (s.ring p).written) with
      | some s' => (s'.toRing p r w evt).wake ((objHome s c o).getD 0)
      | none => s.toRing p { r with detail := r.detail / 2 * 2 + 1 } w evt

/-- An event about the unit on a core, to the launch's supervisor unit and the ring. -/
def State.eventAt (s : State) (core : Nat) (r : Report) : State :=
  s.post (s.jobOf core).1 (s.superOf core) r (s.whom core) true

/-- An event of a job, to the job's supervisor unit and the ring. -/
def State.eventJob (s : State) (p j : Nat) (r : Report) : State :=
  s.post p (s.jobSuper p j) r ⟨p, j, 0, 0, 0⟩ true

/-- An instruction of V in flight uses the offcut queue. -/
def Flight.usesOffcut (f : Flight) : Bool := f.effects.any (fun e => match e with
  | .offcut _ => true
  | _ => false)

/-- The region of a core's offcut queue is reclaimed (R158, R359): once no instruction that uses it is in flight, its counts become 0, and OFFCUT_LOST is raised where it held entries (log 95). -/
def State.emptyOffcut (s : State) (core : Nat) : State :=
  let c := s.core core
  if c.flights.any Flight.usesOffcut then s.modCore core (fun c => { c with offcutGoing := true })
  else
    let s := s.modCore core (fun c => { c with csr := { c.csr with offcutn := 0 }, head := 0, pendn := 0, offcutGoing := false })
    let pj := s.jobOf core
    if c.csr.offcutn = 0 && c.pendn = 0 then s
    else s.post pj.1 (s.jobSuper pj.1 pj.2) { Report.of .offcutLost with eng := .v } (s.whom core) true

/-- XPART to the hypervisor's ring, naming the offending partition (R331, R334). -/
def State.xpart (s : State) (p j : Nat) : State := s.toRing 0 (.of .xpart) ⟨p, j, 0, 0, 0⟩ true

/-! ## Object increments (R361, R315) -/

/-- Publications that an increment by a launch joins (R245). -/
def State.joinOf (s : State) (launch : Nat) : List Nat := ((s.launch launch).map (·.pubs)).getD []

/-- An object takes an increment. -/
def State.addObject (s : State) (k n : Nat) (join : List Nat) : State :=
  let s := s.writeAtom k (toBytes 8 (s.homeNat k 8 + n))
  let s := if join.isEmpty then s else
    { s with joins := spSet s.joins k ((spGet [] s.joins k ++ join).eraseDups) }
  s.wake k

/-- Waits of a job's units on an object end with cancelled status (R51). -/
def State.cancelWaits (s : State) (p j k : Nat) : State :=
  let mark (st : Stream) : Stream :=
    if (st.wait.kind == .object || st.wait.kind == .xwait) && st.wait.obj == k then { st with wait := { st.wait with cancelled := true } }
    else st
  { s with cores := s.cores.map (fun e =>
    if e.2.seat.unit.isSome && s.jobOf e.1 == (p, j) then (e.1, { e.2 with c := mark e.2.c, x := mark e.2.x }) else e) }

/-- An object increment by a job under a lease that is not stowed (R361): taken, or dropped with OBJ_DROP. -/
def State.incrementUnder (s : State) (p j id k n : Nat) (join : List Nat) (pc : BitVec 17) (cancel : Bool) : State :=
  match leaseCheck s p j id with
  | .ok _ => (if cancel then s.cancelWaits p j k else s).addObject k n join
  | .error _ => s.eventJob p j { Report.of .objDrop with lease := id, pc := pc }

/-- An object increment by a job at its home (R361): taken, held for a stowed region (a 65th is refused with `none`, R315), or dropped with OBJ_DROP. -/
def State.incrementBy (s : State) (p j k n : Nat) (join : List Nat) (pc : BitVec 17) (cancel : Bool) : Option State :=
  match syncLease s p j k 8 with
  | some (id, l) =>
    if l.stowed then
      if (s.heldIncs.filter (fun h => h.lease == id)).length < 64 then
        some { s with heldIncs := s.heldIncs ++ [⟨id, k, n, join, cancel⟩] }
      else none
    else some (s.incrementUnder p j id k n join pc cancel)
  | none => some (s.eventJob p j { Report.of .objDrop with lease := coveringLease s p j k 8, pc := pc })

/-- An object increment that completes no cancelled work. -/
def State.increment (s : State) (p j k n : Nat) (join : List Nat) (pc : BitVec 17) : Option State := s.incrementBy p j k n join pc false

/-- The increment of a DONEOBJ by its virtual address (R39, R51): one that cannot be performed is dropped. -/
def State.incrementDone (s : State) (p j va : Nat) (join : List Nat) (cancel : Bool) : State :=
  if va = 0 then s
  else match homeOf s p j va true true with
    | some k =>
      -- its home on another chip checks it and takes it (R206, R361); the model's account of that memory follows
      if isPeerKey k then (s.sendSignal (jobIx p j) (peerOf k) (k % 2 ^ 52) 1).addObject k 1 join
      else (s.incrementBy p j k 1 join 0 cancel).getD (s.eventJob p j (.of .objDrop))
    | none => s.eventJob p j (.of .objDrop)

/-- Count a wait on an object in its lease, or uncount it (R358). -/
def State.waiter (s : State) (p j k : Nat) (up : Bool) : State :=
  match syncLease s p j k 8 with
  | some (id, _) => s.modLease id (fun l => { l with waiters := if up then l.waiters + 1 else l.waiters - 1 })
  | none => s

/-! ## Taking an exception, and returning from one (R83, R100, R102) -/

/-- A stream stops where it is. -/
def Core.freeze (c : Core) (e : Engine) : Core := c.modStream e (fun st => { st with run := .frozen })

/-- A fault that goes to the launch's supervisor unit: the stream freezes with its PC at the word, and the record is posted (R83). -/
def State.toSuper (s : State) (core : Nat) (r : Report) : State :=
  let s := s.modCore core (fun c => c.freeze r.eng)
  s.post (s.jobOf core).1 (s.superOf core) r (s.whom core) false

/-- TRAPX of a fault (R25). -/
def trapxOf (r : Report) : W64 := BitVec.ofNat 64 (r.eng.num + r.trec % 64 * 4 + r.irec % 16 * 256)

/-- C enters its handler (R100): TRAPRET takes INH and the resume word, the trap registers the fault, PC the vector. A wait of C that is abandoned stays counted until the word issues again (R358). -/
def Core.enter (c : Core) (rpc code trappc : Nat) (trapx : W64) : Core :=
  let c := { c with csr := { c.csr with
    trapret := BitVec.ofNat 32 (2 ^ 17 + rpc % 2 ^ 17)
    trapc := BitVec.ofNat 16 code
    trappc := BitVec.ofNat 17 trappc
    trapx := trapx } }
  c.modStream .c (fun st => { st with pc := c.csr.trapv, packed := false, codePos := 0, wait := .idle, heldFrom := none, broken := none })

/-- A command that a rollback runs again (R373). -/
def Core.refetches (c : Core) (cmd : Option Nat) : Bool := c.health.refetching && c.copy.cmds.any (fun x => x.refetch && some x.id == cmd)

/-- The faults that C may take now: while the core rolls back, the parks of its refetches alone (R373). -/
def Core.takeable (c : Core) : List Report :=
  if c.health.recovering.isSome then c.ctl.faults.filter (fun r => c.refetches r.cmd) else c.ctl.faults

/-- The oldest held fault enters the handler, if C may take one (R100). -/
def State.takeFault (s : State) (core : Nat) : State :=
  let c := s.core core
  match c.takeable with
  | [] => s
  | r :: _ =>
    let rest := c.ctl.faults.erase r
    if c.inh || c.c.run != .running || c.seat.stopping || c.c.wait.kind == .lease || c.c.wait.kind == .cancel then s
    else
      let s := s.post (s.jobOf core).1 (some core) r (s.whom core) false
      s.modCore core (fun c =>
        let pos := if c.c.packed then c.c.codePos else 0
        let c := c.enter c.c.pc.toNat r.cause.code r.pc.toNat (trapxOf r)
        { c with ctl := { c.ctl with faults := rest, serving := some (r.eng, r.cmd), rcode := pos } })

/-- A fault of V, M or X (R100): the stream freezes; with TRAPV 0 the record goes to the supervisor unit, else the fault waits for C's handler and enters it at once where C may. -/
def State.engineFault (s : State) (core : Nat) (r : Report) : State :=
  let s := s.modCore core (fun c => c.freeze r.eng)
  if (s.core core).csr.trapv = 0 then s.toSuper core r
  else
    let s := s.modCore core (fun c => { c with ctl := { c.ctl with faults := c.ctl.faults ++ [r] } })
    s.soon [.trapEntry core]

/-- A fault of any stream. -/
def State.raise (s : State) (core : Nat) (r : Report) : State :=
  if r.eng = .c then s.toSuper core r else s.engineFault core r

/-- Return from the handler (R102): PC and INH of TRAPRET, and the streams that the mask releases. -/
def Core.leave (c : Core) (mask : Nat) : Core :=
  let rpc := sub c.csr.trapret 0 17
  let c := { c with csr := { c.csr with trapret := putBits c.csr.trapret 17 1 0 } }
  let pos := c.ctl.rcode
  let c := c.modStream .c (fun st => { st with pc := rpc, packed := pos != 0, codePos := pos })
  [Engine.v, .m, .x].foldl (fun c e =>
    -- a stream with another fault that waits for the handler stays frozen (R100, R196)
    if mask.testBit e.num && !c.ctl.faults.any (fun r => r.eng == e) then
      c.modStream e (fun st => if st.run == .frozen then { st with run := .running } else st)
    else c) c

end Machine

end Sys2Proof
end

