-- ==== Sys2Proof/Machine/Flags.lean ====
section
/-! DEFINITION. Flags and the running maximum (R25 to R27, R161), and what a retiring instruction writes (R44, R125). -/

namespace Sys2Proof.Machine

/-- Set sticky flags of engine `e` in FFLAGS (R25, R27). -/
def orFlags (ff : W32) (e : Engine) (f : Fl) : W32 := ff ||| BitVec.ofNat 32 (f.toNat * 2 ^ (8 * e.num))

/-- The update of AMAX by a magnitude `m` with sign 0 (R27): a current value that is negative or NaN is replaced. -/
def amaxUpdate (cur m : W32) : W32 :=
  if cur.toNat.testBit 31 || cur.toNat > 0x7F800000 then m
  else if cur.toNat < m.toNat then m else cur

/-- The magnitude of an FP32 value, with sign 0. -/
def magOf (x : Nat) : W32 := BitVec.ofNat 32 (x % 2 ^ 31)

/-- One more value for a running maximum: NaN is noted and does not enter (R161). -/
def amaxStep (acc : Option W32 × Bool) (x : Num) : Option W32 × Bool :=
  if x.isNan then (acc.1, true)
  else
    let m := magOf (roundRne x).1
    (some (match acc.1 with
      | some a => if a.toNat < m.toNat then m else a
      | none => m), acc.2)

/-- AMAX and AMAXNAN of engine `e` brought up to date (R161). -/
def Csrs.noteAmax (q : Csrs) (e : Engine) (m : Option W32) (nan : Bool) : Csrs :=
  let q := match m with
    | some m => { q with amax := amaxUpdate q.amax m }
    | none => q
  if nan then { q with fflags := orFlags q.fflags e flAmaxNan } else q

/-- Lanes of `vals` in `lanes`, the others of `old` (R126). -/
def mergeTile (lanes : BitVec 1024) (vals old : Tile) : Tile :=
  if lanes = BitVec.allOnes 1024 then vals
  else vals.foldl (fun t p => spPut 0 t p.1 p.2) (old.filter (fun p => !lanes.getLsbD p.1))

/-- V's registers after one effect. -/
def Vec.apply (v : Vec) : Effect → Vec
  | .tile d lanes vals => v.setV d (mergeTile lanes vals (v.V d))
  | .mask k m => v.setK k m
  | _ => v

/-- A core after one effect of a retiring instruction. -/
def Core.apply (c : Core) : Effect → Core
  | .tile d lanes vals => { c with vec := c.vec.apply (.tile d lanes vals) }
  | .mask k m => { c with vec := c.vec.apply (.mask k m) }
  | .flags e f => { c with csr := { c.csr with fflags := orFlags c.csr.fflags e f } }
  | .amax e m nan => { c with csr := c.csr.noteAmax e m nan }
  | .offcut d => { c with csr := { c.csr with offcutn := BitVec.ofInt 10 ((c.csr.offcutn.toNat : Int) + d) } }
  | .iter n idx => c.setI n (putBits (c.I n) 48 48 idx.toNat)
  | .handle n v => c.setH n v
  | .store .. => c
  | .object .. => c
  | .acked .. => c
  | .atom .. => c

end Sys2Proof.Machine
end

