-- ==== Sys2Proof/Machine/Operands.lean ====
section
/-! DEFINITION. Operand forms: immediates (R65, R85), fields of tensor and iterator records (R23, R24), the addresses of C (R90), V (R142, R143) and X (R192), and their checks. -/

namespace Sys2Proof.Machine

/-! ## Immediates -/

/-- The immediate of a CI word: signed or unsigned 30 bits, or the 64 bits of an `IMMX` pair (R65, R85). -/
def immOf (s : State) (signed : Bool) (imm : BitVec 30) : W64 :=
  match s.cur.ext with
  | some hi => BitVec.ofNat 64 (hi.toNat * 2 ^ 24 + imm.toNat % 2 ^ 24)
  | none => if signed then BitVec.ofInt 64 (sx imm.toNat 30) else BitVec.ofNat 64 imm.toNat

/-! ## Tensor records (R23) -/

/-- BKIND -/
def tBkind (t : BitVec 256) : Nat := bits t 254 2
/-- BASE -/
def tBase (t : BitVec 256) : Nat := bits t 202 52
/-- EXTENT -/
def tExtent (t : BitVec 256) : Nat := bits t 162 40
/-- STRIDE1 -/
def tStride1 (t : BitVec 256) : Int := sx (bits t 130 32) 32
/-- STRIDE2 -/
def tStride2 (t : BitVec 256) : Int := sx (bits t 98 32) 32
/-- FMT -/
def tFmt (t : BitVec 256) : Nat := bits t 93 5
/-- SCALE -/
def tScale (t : BitVec 256) : Nat := bits t 61 32
/-- BOUNDS -/
def tBounds (t : BitVec 256) : Nat := bits t 59 2
/-- LEASE -/
def tLease (t : BitVec 256) : Nat := bits t 43 16
/-- the unfolding fields, KH to PR -/
def tUnfold (t : BitVec 256) : Nat := bits t 0 36
/-- A record image that `TDSET` takes (R93). -/
def tLegal (t : BitVec 256) : Bool := tBounds t != 3 && bits t 36 7 == 0 && tFmt t < 0x14

/-! ## Iterator records (R24) -/

/-- IDX counter `n` -/
def iIdx (r : BitVec 128) (n : Nat) : Nat := bits r (48 + 12 * n) 12
/-- count of dimension `n` minus 1 -/
def iDim (r : BitVec 128) (n : Nat) : Nat := bits r (12 * n) 12
/-- dimension `n` is broadcast -/
def iBc (r : BitVec 128) (n : Nat) : Bool := r.toNat.testBit (96 + n)
/-- IDX as one field. -/
def idxOf (i0 i1 i2 i3 : Nat) : BitVec 48 :=
  BitVec.ofNat 48 (i0 % 4096 + i1 % 4096 * 2 ^ 12 + i2 % 4096 * 2 ^ 24 + i3 % 4096 * 2 ^ 36)
/-- An iterator image that `ITSET` takes (R93). -/
def iLegal (r : BitVec 128) : Bool :=
  bits r 100 28 == 0 && [0, 1, 2, 3].all (fun n => iIdx r n ≤ iDim r n)

/-- The carry of R144 from a row counter `i1` that may stand above DIM1: `i2` takes one for each DIM1 + 1 rows, and goes to 0 with one carry into `i3` where it then stands above DIM2. The flag says that `i3` wrapped. -/
def advance (r : BitVec 128) (i0 i1 i2 i3 : Nat) : BitVec 48 × Bool :=
  let d1 := iDim r 1 + 1
  let i2 := i2 + i1 / d1
  let (i2, i3) := if iDim r 2 < i2 then (0, i3 + 1) else (i2, i3)
  if iDim r 3 < i3 then (idxOf i0 (i1 % d1) i2 0, true) else (idxOf i0 (i1 % d1) i2 i3, false)

/-! ## Addresses of C, V and M in the core's SPM and MSM -/

/-- Where an element access goes. -/
inductive Access where
  /-- zero-filled: a load gives 0, a store is dropped -/
  | zero
  | at_ (key : Nat)
  deriving DecidableEq, Repr, Inhabited

/-- A record's window (R90, R143): `Min(EXTENT, tier size − BASE)`. -/
def window (t : BitVec 256) : Int := min (tExtent t : Int) ((tierSize (tBkind t) : Int) - tBase t)

/-- BOUNDS acting on an offset (R90). -/
def boundOff (t : BitVec 256) (off : Int) (size : Nat) : Except Cause (Option Int) :=
  let limit := window t
  if off < 0 || off + size > limit then
    match tBounds t with
    | 1 =>
      if limit < size then .error .bounds
      else
        let o := max 0 (min off (limit - size))
        .ok (some (o - o % size))
    | 2 => .ok none
    | _ => .error .bounds
  else .ok (some off)

/-- Where an element of a record lies (R90, R143), after its bounds and alignment; none where it is zero-filled. -/
def recPlace (core : Nat) (t : BitVec 256) (off : Int) (size : Nat) : Except Cause (Option Nat) :=
  if tBkind t > 1 then .error .record
  else
    match boundOff t off size with
    | .error c => .error c
    | .ok none => if ((tBase t : Int) + off) % size = 0 then .ok none else .error .align
    | .ok (some o) =>
      let a := ((tBase t : Int) + o).toNat
      if a % size != 0 then .error .align else .ok (some (keyTier core (tBkind t) a))

/-- The lease check of an element that has been placed (R90, R143). -/
def recCheck (s : State) (core : Nat) (t : BitVec 256) (size : Nat) (k : Option Nat) : Except Cause Access :=
  match k with
  | none => .ok .zero
  | some k =>
    let pj := s.jobOf core
    match checkRange s pj.1 pj.2 (tLease t) k size with
    | some c => .error c
    | none => .ok (.at_ k)

/-- An element of a record by C (R90): bounds, alignment, lease. -/
def recAccess (s : State) (core : Nat) (t : BitVec 256) (off : Int) (size : Nat) : Except Cause Access :=
  (recPlace core t off size).bind (recCheck s core t size)

/-- Elements of a record by V (R143): for each element its checks, in order of the elements; the first check that fails is the fault (log 60). -/
def recAccesses (s : State) (core : Nat) (t : BitVec 256) (size : Nat) (offs : List Int) : Except Cause (List Access) :=
  offs.mapM (fun o => recAccess s core t o size)

/-- A raw SPM range of C (R90): bounds, alignment, covering lease. -/
def rawAccess (s : State) (core : Nat) (off : Int) (size align : Nat) : Except Cause Nat :=
  if off < 0 || off + size > 0x100000 then .error .bounds
  else if off % align != 0 then .error .align
  else
    let k := keySpm core off.toNat
    let pj := s.jobOf core
    match checkCovering s pj.1 pj.2 k size with
    | some c => .error c
    | none => .ok k

/-- The offset of `LD`, `ST` (record form) and of `LDT`, `STT` (R90). -/
def offLd (v : W64) (imm : BitVec 22) : Int := v.toInt + sx imm.toNat 22
/-- The two-index offset (R90). -/
def offLdt (v : W64) (t : BitVec 256) (size : Nat) (imm : BitVec 22) : Int :=
  sx (bits v 32 32) 32 * tStride1 t + sx (bits v 0 32) 32 * size + sx imm.toNat 22

/-- Element size in memory of a V type (R142). -/
def tySize (ty : Nat) : Nat := if ty < 2 then 4 else 2

/-- The offset of element `(r, c)` under an iterator (R142); `dim2` is the DIM2 that the strides use. -/
def iterOff (t : BitVec 256) (it : BitVec 128) (dim2 i0 i1 i2 i3 size : Nat) : Int :=
  let e0 := if iBc it 0 then 0 else i0
  let e1 := if iBc it 1 then 0 else i1
  let e2 := if iBc it 2 then 0 else i2
  let e3 := if iBc it 3 then 0 else i3
  (e0 * size : Nat) + e1 * tStride1 t + ((e2 + e3 * (dim2 + 1) : Nat) : Int) * tStride2 t

/-! ## Records as X reads them (R192) -/

/-- RLEN. -/
def xRlen (t : BitVec 256) : Nat := if tStride2 t = 0 then tExtent t else (tStride2 t).toNat
/-- ROWS. -/
def xRows (t : BitVec 256) : Nat := if tStride2 t = 0 then 1 else tExtent t / xRlen t

/-- The range of bytes, from BASE, that a record reaches: lowest and one past the highest. -/
def xReach (t : BitVec 256) : Int × Int :=
  let last := ((xRows t : Int) - 1) * tStride1 t
  if xRows t ≤ 1 then (0, xRlen t) else (min 0 last, max 0 last + xRlen t)

/-- The issue checks of R192 on one record. `dest`: it is a destination; `atom`: `XATOM` takes other alignments. -/
def xCheck (t : BitVec 256) (dest atom : Bool) : Option Cause :=
  if tStride2 t < 0 || tBounds t == 1 || tBounds t == 3 || tUnfold t != 0 then some .record
  else if tExtent t = 0 || tExtent t % xRlen t != 0 then some .record
  else if dest && xRows t > 1 && (tStride1 t).natAbs < xRlen t then some .record
  else if !atom && (tBase t % 8 != 0 || xRlen t % 8 != 0 || tStride1 t % 8 != 0) then some .align
  else
    let base : Int := if tBkind t = 3 then (tBase t % 2 ^ 47 : Nat) else tBase t
    let (lo, hi) := xReach t
    if tBounds t = 0 && (tBkind t ≤ 1 && (base + lo < 0 || base + hi > tierSize (tBkind t))) then some .bounds
    else if tBounds t = 0 && (tBkind t = 3 && (base + lo < 0 || base + hi > 2 ^ 30)) then some .bounds
    else none

/-- The address (offset, virtual address or page offset) of logical byte `b` of a record (R192). -/
def xAddr (t : BitVec 256) (b : Nat) : Int :=
  let base : Int := if tBkind t = 3 then (tBase t % 2 ^ 47 : Nat) else tBase t
  base + ((b / xRlen t : Nat) : Int) * tStride1 t + (b % xRlen t : Nat)

/-- The spans of a record's logical bytes `b` to `b + n - 1`: address and length, split at rows. -/
def xSpans (t : BitVec 256) (b n : Nat) : List (Int × Nat) :=
  let rl := xRlen t
  if rl = 0 || n = 0 then []
  else
    (upto (b / rl) ((b + n - 1) / rl - b / rl + 1)).map (fun j =>
      let lo := max b (j * rl)
      let hi := min (b + n) (j * rl + rl)
      (xAddr t lo, hi - lo))

end Sys2Proof.Machine
end

