-- ==== Sys2Proof/Machine/Recovery.lean ====
section
/-! DEFINITION. Poison and buffer-phase rollback (R369 to R374, R376). -/

namespace Sys2Proof.Machine

/-- Poisoned granules of a core's SPM and MSM. -/
def State.ownPoison (s : State) (core : Nat) : List Nat := s.poison.filter (fun g => isOwnKey core (g * 64))

/-- A write by C, V, M or an unkept command: the granules lose their kept writer (R373). -/
def State.writeOwn (s : State) (core k : Nat) (bs : List Byte) : State :=
  let s := s.writeMem k bs
  if (s.core core).copy.kept.isEmpty then s
  else
    let gs := granules k bs.length
    s.modCore core (fun c => { c with copy := { c.copy with
      kept := c.copy.kept.map (fun e => (e.1, e.2.filter (fun g => !gs.contains g))) } })

/-- One effect of a word, in the package: a C access is performed (R90, R92); any other effect writes the core. -/
def State.perform (s : State) (core : Nat) (e : Effect) : State :=
  match e with
  | .store k bs => s.writeOwn core k bs
  | .object k n => s.addObject k n []
  | .acked code k n => if s.chipLost (code / 2 ^ 32) then s else s.addObject k n []
  | .handle n v =>
    s.modCore core (fun c =>
      -- unless its walk has ended, or `HDROP` has emptied it
      if c.ctl.walks.any (fun w => w.1 == n) && (spGet (0, 0) c.regs.due (32 + n)).1 ≤ s.acOf core then c.setH n v else c)
  | .atom k n op x cmp d id =>
    let old := s.readNat k n
    let s := if op < 9 then s.writeOwn core k (toBytes n (atomic op n old x.toNat))
      else if old = cmp.toNat % 2 ^ (8 * n) then s.writeOwn core k (toBytes n x.toNat)
      else s
    s.modCore core (fun c =>
      let w := spGet (0, 0) c.regs.due d
      if w.2 = id then (c.setS d (BitVec.ofNat 64 old)).awaitS d w.1 0 else c)
  | e => s.modCore core (fun c => c.apply e)

/-- Stores of C that are not yet performed, oldest first. -/
def Core.cStores (c : Core) : List (Nat × List Byte) :=
  c.flights.flatMap (fun f => f.effects.filterMap (fun e => match e with
    | .store k bs => some (k, bs)
    | _ => none))

/-- `n` bytes at `k` as C reads them: its own earlier stores are seen (R91). -/
def State.cBytes (s : State) (c : Core) (k n : Nat) : List Byte :=
  c.cStores.foldl (fun bs w => bs.zipIdx.map (fun b => if w.1 ≤ k + b.2 then (w.2[k + b.2 - w.1]?).getD b.1 else b.1)) (memBytes s.mem k n)

/-- A number of `n` bytes at `k` as C reads it. -/
def State.cNat (s : State) (c : Core) (k n : Nat) : Nat := ofBytes (s.cBytes c k n)

/-- An atomic of C on some of these bytes is not yet performed: a later read of C waits for it (R91). -/
def Core.behindAtom (c : Core) (k n : Nat) : Bool :=
  c.flights.any (fun f => f.effects.any (fun e => match e with
    | .atom a m .. => a < k + n && k < a + m
    | _ => false))

/-- An access of C to these bytes is not yet performed. -/
def Core.cPending (c : Core) (k n : Nat) : Bool :=
  c.behindAtom k n || c.cStores.any (fun w => w.1 < k + n && k < w.1 + w.2.length)

/-- A command starts again from chunk 0, under a new number (R372, R373). -/
def XCmd.anew (x : XCmd) (id : Nat) : XCmd :=
  { x with id := id, again := true, started := 0, pp := 0, lb := 0, ents := [], flight := [], parked := none, poison := false,
           acted := false, bumped := false, acks := [] }

/-- The streams take the snapshot's flow state (R371). -/
def Core.toSnapshot (c : Core) : Core :=
  let back (e : Engine) (now : Stream) : Stream :=
    let sn := c.snap.streams.getD e.num .zero
    { now with pc := sn.pc, codePos := sn.codePos, packed := sn.packed, loops := sn.loops, run := sn.run, stop := sn.stop, wait := .idle, heldFrom := none, broken := none }
  let its := upto 0 16
  let c := { c with c := back .c c.c, v := back .v c.v, m := back .m c.m, x := back .x c.x, cqv := [], cqm := [], dowel := [], sweep := none, vtarget := none }
  its.foldl (fun c n => c.setI n (putBits (c.I n) 48 48 (spGet 0 c.snap.idx n).toNat)) c

/-- The kept commands that must run again: the last writer of each poisoned granule; `none` where one is not kept (R373). -/
def refetchOf (c : Core) (gs : List Nat) : Option (List XCmd) :=
  if gs.all (fun g => c.copy.kept.any (fun e => e.2.contains g)) then
    some ((c.copy.kept.filter (fun e => gs.any (fun g => e.2.contains g))).map (·.1))
  else none

/-- The streams stop and the fault goes to the supervisor unit (R374). -/
def State.noRollback (s : State) (core : Nat) (r : Report) : State :=
  let s := s.modCore core (fun c =>
    let c := [Engine.c, .v, .m, .x].foldl (fun c e => if (c.stream e).run == .running then c.freeze e else c) c
    { c with
      health := { c.health with recovering := none, refetching := false }
      mat := { c.mat with ops := c.mat.ops.map (fun o => if o.check = 0 then { o with check := 3 } else o) } })
  (s.soon [.preempt core]).toSuper core r

/-- The end of a rollback, when its refetches have retired (R371): all four streams resume issue in the same ac; a refetch that read poison again ends it as R374 gives. A pre-emption that has waited for it follows. -/
def State.endRollback (s : State) (core : Nat) (r : Report) : State :=
  if (s.ownPoison core).isEmpty then
    let now := s.acOf core
    let go (st : Stream) : Stream := { st with nextAc := now }
    let s := s.modCore core (fun c => { c with
      c := go c.c, v := go c.v, m := go c.m, x := go c.x
      health := { c.health with recovering := none, refetching := false } })
    (s.eventAt core { Report.of .rollback with eng := r.eng, pc := r.pc, detail := (s.core core).snap.tag.toNat }).soon [.trapEntry core, .preempt core]
  else s.noRollback core { r with cause := .poison }

/-- The start of `Rollback(cause)` (R371): issue stops in all four streams, and what has been issued completes; a phase that cannot roll back has its fault at once (R374). A core that already rolls back goes on with that. -/
def State.rollback (s : State) (core : Nat) (r : Report) : State :=
  let c := s.core core
  if c.health.recovering.isSome then s
  else if !c.snap.replayable || c.snap.rollbacks ≥ 2 then s.noRollback core r
  else
    let s := (s.modCore core (fun c => { c with health := { c.health with recovering := some r, refetching := false } })).soon [.instructionRetire core .c 0]
    -- a command word that has issued is accepted within 8 ac (R190)
    if c.copy.issuing.isSome then s.after core 8 (.instructionRetire core .c 0) else s

/-- A retired `XRED` or `XATOM` of the abandoned attempt wrote poison: to run it again would apply it twice (R374). -/
def Core.staleReduce (c : Core) : Bool :=
  c.copy.log.any (fun e => e.2.2 && e.2.1.poison &&
    match e.2.1.instr with
    | .xred .. | .xatom .. => true
    | _ => false)

/-- The core at the snapshot of its phase (R371), with what its words will be matched with (R372). Operations of M that have not completed are dropped: their words issue again (log 19). -/
def Core.rolledBack (c : Core) : Core :=
  let c := c.toSnapshot
  { c with
    mat := { c.mat with ops := [] }
    copy := { c.copy with
      cmds := c.copy.cmds.map (fun x => { x with signal := 0 })
      replay := c.copy.log ++ c.copy.replay
      log := [] }
    snap := { c.snap with rollbacks := c.snap.rollbacks + 1 } }

/-- Kept commands run again from chunk 0, and increment no object (R373). -/
def Core.fetchAgain (c : Core) (cmds : List XCmd) : Core :=
  let again := cmds.zipIdx.map (fun p => { p.1.anew (c.nextId + p.2) with refetch := true, signal := 0 })
  { c with copy := { c.copy with cmds := c.copy.cmds ++ again }, nextId := c.nextId + cmds.length, health := { c.health with refetching := true } }

/-- A stream of a core consumes poison (R369, R371). -/
def State.consume (s : State) (core : Nat) (r : Report) : State := s.rollback core { r with cause := .poison }

/-- SILENT (R376): the phase rolls back; `dry`: a dry-fit mismatch, which marks the core suspect. A second one in the replay of the phase marks it and goes to the supervisor unit. -/
def State.silentError (s : State) (core : Nat) (dry : Bool) (r : Report) : State :=
  let second := (s.core core).snap.silents ≥ 1
  let s := s.modCore core (fun c => { c with
    snap := { c.snap with silents := c.snap.silents + 1 }
    health := { c.health with suspect := c.health.suspect || dry || second } })
  let s := if dry || second then s.eventAt core { Report.of .suspect with eng := .m, pc := r.pc } else s
  if second then s.noRollback core { r with cause := .silent } else s.rollback core { r with cause := .silent }

end Sys2Proof.Machine
end

