-- ==== Sys2Proof/Machine/Issue.lean ====
section
/-! DEFINITION. The rules that every word shares: what it waits for at issue (R60, R81, R124, R168, R190, R307), faults at issue (R83, R127), where its stream goes next (R64, R89), and its retirement (R44, R243). -/

namespace Sys2Proof.Machine

/-! ## Flow -/

/-- The end test of R89 at word offset `p`: the loops after it and the next word; loops are tested from `L3` down. -/
def loopTest (loops : List Loop) (p : Nat) : Nat → List Loop × Nat
  | 0 => (loops, p + 1)
  | l + 1 =>
    let lp := loops.getD l .zero
    if lp.act && lp.stop.toNat == p then
      if lp.count.toNat > 1 then (putAt 4 .zero loops l { lp with count := lp.count - 1 }, lp.start.toNat)
      else loopTest (putAt 4 .zero loops l { lp with act := false, count := 0 }) p l
    else loopTest loops p l

/-- `ClearLoopsLeft` (R87). -/
def clearLoopsLeft (loops : List Loop) (target : Nat) : List Loop :=
  loops.map (fun l => if l.act && !(l.start.toNat ≤ target && target ≤ l.stop.toNat) then { l with act := false } else l)

/-- Where the stream goes after the word under the cursor. `target`: a redirect, past the end test. `test`: the end test applies. -/
def Stream.next (st : Stream) (cur : Cursor) (test : Bool) (target : Option Nat) : Stream :=
  match target with
  | some t => { st with pc := BitVec.ofNat 17 t, packed := false, codePos := 0 }
  | none =>
    if cur.packed && !cur.lastCode then { st with codePos := cur.codePos + 1 }
    else
      let p := cur.pc + (if cur.ext.isSome then 1 else 0)
      let (loops, nx) := if test then loopTest st.loops p 4 else (st.loops, p + 1)
      { st with pc := BitVec.ofNat 17 nx, loops := loops, packed := false, codePos := 0 }

/-- The stream makes wait `w` from this tick on; a wait of the same kind that a pre-emption broke off goes on counting (R311). -/
def Stream.hold (st : Stream) (tick : Nat) (w : Wait) : Stream :=
  let (n, told) : Nat × Bool := match st.broken with
    | some (k, n, told) => if k = w.kind then (n, told) else (0, false)
    | none => (0, false)
  { st with
    wait := { w with since := tick - n, stalled := told, from_ := tick }
    heldFrom := some (st.heldFrom.getD tick)
    broken := none }

/-- The stream waits, since this tick unless it already made this wait, for `n` entries of its queue or, for tokens, those of its word. -/
def State.holdFor (s : State) (core : Nat) (e : Engine) (k : WaitKind) (n : Nat) : State :=
  let (prod, n) : Nat × Nat := if k = .tokens then ((s.cur.frame.wait).map (fun w => (w.1.num, w.2))).getD (0, 0) else (0, n)
  s.modCore core (fun c => c.modStream e (fun st =>
    if st.wait.kind = k then st else st.hold s.tick { Wait.idle with kind := k, obj := prod, goal := n, ac := s.acOf core }))

/-- The stream waits, since this tick unless it already made this wait. -/
def State.holdAt (s : State) (core : Nat) (e : Engine) (k : WaitKind) : State := s.holdFor core e k 0

/-- The word under the cursor, `i`, waits until an event ends its wait. -/
def State.park (s : State) (k : WaitKind) (i : Instr) (obj goal : Nat) : State :=
  s.modCore s.cur.core (fun c => c.modStream s.cur.eng (fun st =>
    st.hold s.tick { Wait.idle with kind := k, obj := obj, goal := goal, held := some (s.cur, i), ac := s.acOf s.cur.core }))

/-- What the held word of C waits for has come: it retires `n` ac from now. -/
def State.retireIn (s : State) (core n : Nat) : State :=
  (s.modCore core (fun c => c.modStream .c (fun st => { st with wait := { st.wait with due := some (s.acOf core + n) } }))).after core n
    (.instructionRetire core .c 0)

/-- The word under the cursor has passed issue: tokens are popped, the stream goes on, and its retirement is due. -/
def State.finish (s : State) (occ lat : Nat) (target : Option Nat) (effects : List Effect) : State :=
  let cur := s.cur
  -- an `IMMX` pair uses two issue ac, and its latency counts from the second (R81)
  let now := s.acOf cur.core + (if cur.ext.isSome then 1 else 0)
  let lat := lat + (if cur.ext.isSome then 1 else 0)
  let id := (s.core cur.core).nextId
  let s := s.modCore cur.core (fun c =>
    let c := c.pop cur.eng cur.frame.wait
    let c := c.modStream cur.eng (fun st =>
      { st.next cur (cur.eng != .c || !c.inh) target with nextAc := now + occ, wait := .idle, heldFrom := none, broken := none })
    { c with flights := c.flights ++ [⟨id, cur.eng, cur.frame.signal, effects, false, true⟩], nextId := id + 1 })
  if lat = 0 then s.soon [.instructionRetire cur.core cur.eng id] else s.after cur.core lat (.instructionRetire cur.core cur.eng id)

/-- The word that a stream of a core holds for an event of kind `k`, with the cursor put back on it. -/
def State.resume (s : State) (core : Nat) (e : Engine) (k : WaitKind) : Option (State × Instr) :=
  let w := ((s.core core).stream e).wait
  match w.held with
  | some (cur, i) => if w.kind = k then some ({ s with cur := cur }, i) else none
  | none => none

/-- Tokens of retired words leave in stream order: the head flights of `e` that have retired push and go (R243). -/
def Core.release (c : Core) (e : Engine) : Core :=
  let rec go : List Flight → Core → List Flight → Core
    | [], c, acc => { c with flights := acc.reverse }
    | f :: fs, c, acc =>
      if f.eng == e && f.word then
        if f.retired then go fs (c.push e f.signal) acc else { c with flights := acc.reverse ++ f :: fs }
      else go fs c (f :: acc)
  go c.flights c []

/-- A flight cannot retire yet: a `SIGO` whose object stands at another chip sends its SIGNAL, and waits for the acknowledgement (R96, R206); the packet's number, and the object. -/
def State.outbound (s : State) (core : Nat) (f : Flight) : Option State :=
  match f.effects with
  | [.object k n] =>
    if !isPeerKey k || s.chipLost (peerOf k) then none
    else
      let pj := s.jobOf core
      let code := s.nextCode (peerOf k)
      let s := (s.sendSignal (jobIx pj.1 pj.2) (peerOf k) (k % 2 ^ 52) n).modCore core (fun c =>
        { c with flights := c.flights.map (fun g => if g.id = f.id then { g with effects := [.acked code k n] } else g) })
      -- under replay nothing was sent, and nothing is awaited (R382)
      some (if s.unacked code then s else s.soon [.instructionRetire core f.eng f.id])
  | [.acked code _ _] => if s.unacked code then some s else none
  | _ => none

/-- A flight is due: its effects are written (R125), and its tokens pushed once every earlier word of its stream has retired (R243). -/
def State.retireFlight (s : State) (core : Nat) (e : Engine) (id : Nat) : State :=
  match (s.core core).flights.find? (fun f => f.id == id && f.eng == e && !f.retired) with
  | none => s
  | some f =>
    match s.outbound core f with
    | some s => s
    | none =>
    let s := (f.effects.foldl (fun s e => s.perform core e) s).modCore core (fun c =>
    let c := if f.word then
        { c with flights := replaceFirst (fun g => g.id == id) (fun g => { g with retired := true, effects := [] }) c.flights }
      else { c with flights := c.flights.filter (fun g => g.id != id) }
    c.release e)
    if (s.core core).offcutGoing then s.emptyOffcut core else s

/-- The report of a fault at the word under the cursor (R378). -/
def State.report (s : State) (r : Report) : Report :=
  { r with eng := s.cur.eng, pc := BitVec.ofNat 17 s.cur.pc, codePos := if s.cur.packed then s.cur.codePos else 0 }

/-- A fault at issue (R83, R127): no token is popped, nothing else changes, the stream freezes; poison goes to the rollback. A word of an update program ends its application (R285 keeps illegal words out). -/
def State.faultHere (s : State) (r : Report) : State :=
  match s.cur.unit with
  | some u => { s with keeper := { s.keeper with apps := s.keeper.apps.map (fun a => if a.unit = u then { a with aborted := true } else a) } }
  | none =>
    let r := s.report r
    if r.cause = .poison then s.consume s.cur.core r else s.raise s.cur.core r

/-- The result of a C word in `Sd`: written, for readers that issue `lat` ac later (R81). -/
def State.result (s : State) (c : Core) (d : Nat) (v : W64) (lat : Nat) : Core :=
  let c := c.setS d v
  if lat ≤ 1 then c else c.awaitS d (s.acOf s.cur.core + lat) 0

/-- What a body decides. -/
inductive Body where
  /-- performed: the state, ac until the next word may issue, ac to retirement, a redirect, and what retirement writes -/
  | done (s : State) (occ lat : Nat) (target : Option Nat) (effects : List Effect)
  /-- a fault with its cause and details -/
  | fault (r : Report)
  /-- held at issue -/
  | hold (k : WaitKind)
  /-- held at issue until an event: the state with the wait noted -/
  | wait (s : State)

/-- A plain cause. -/
def Body.cause (c : Cause) : Body := .fault (.of c)

/-- A word of C (R81, R83, R307): tokens, room in the dowels it signals, then its body. A word of C on no core does nothing. -/
def cOp (s : State) (body : Core → Body) : Out :=
  let cur := s.cur
  let c := s.core cur.core
  if !c.hasTokens .c cur.frame.wait then .next (s.holdAt cur.core .c .tokens)
  else if !(signalled cur.frame.signal).all (fun q => c.dowelN .c q + c.pending .c q < 16) then
    .next (s.holdAt cur.core .c .dowelRoom)
  else
    match body c with
    | .done s' occ lat target effects => .next (s'.finish occ lat target effects)
    | .fault r => .next (s.faultHere r)
    | .hold k => .next (s.holdAt cur.core .c k)
    | .wait s' => .next s'

/-- A C instruction that computes one S register (R84, R85). -/
def cWrite (s : State) (d lat : Nat) (v : Core → W64) : Out :=
  cOp s (fun c => .done (s.setCore s.cur.core (s.result c d (v c) lat)) 1 lat none [])

/-- What V reads at issue, on a core or in an update program (R125, R164). -/
structure VCtx where
  vec : Vec
  /-- key and first place of the SR draws (R220) -/
  key : W64
  place : Nat
  /-- entries popped from CQV -/
  pops : List W64
  deriving DecidableEq, Repr, Inhabited

/-- The loops and place in the program of an application after a word (R151, R288). -/
def App.next (a : App) : App :=
  let (loops, nx) := loopTest a.loops a.pc 4
  { a with pc := nx, loops := loops }

/-- A word of V that works on tiles and masks alone (R124 to R127, R154). `pops`: entries it pops from CQV. On a core its effects are written at issue + `lat`; in an update program at once, and there is no CQV there (R164). -/
def vTile (s : State) (occ lat pops : Nat) (body : VCtx → Except Cause (List Effect)) : Out :=
  let cur := s.cur
  match cur.unit with
  | some u =>
    if pops > 0 then .next (s.faultHere (.of .illop))
    else
    match s.keeper.apps.find? (fun a => a.unit == u) with
    | none => .next s
    | some a =>
      let seed := bits ((s.keeper.groups.find? (fun g => g.part == a.part && g.job == a.job && g.group == a.group)).map (·.setup) |>.getD 0) 282 64
      match body ⟨a.vec, BitVec.ofNat 64 seed, a.block * 1024, []⟩ with
      | .error c => .next (s.faultHere (.of c))
      | .ok effs =>
        let fl : Fl := effs.foldl (fun f e => match e with
          | .flags _ g => f ||| g
          | .amax _ _ true => f ||| flAmaxNan
          | _ => f) 0
        let a' := { a.next with vec := effs.foldl Vec.apply a.vec, flags := a.flags ||| fl }
        .next { s with keeper := { s.keeper with apps := s.keeper.apps.map (fun b => if b.unit = u then a' else b) } }
  | none =>
    let c := s.core cur.core
    if !c.hasTokens .v cur.frame.wait then .next (s.holdAt cur.core .v .tokens)
    else if pops > 0 && ((c.cqv.take pops).filter (fun q => q.1 ≤ s.acOf cur.core)).length < pops then
      .next (s.holdFor cur.core .v .queue pops)
    else if !(signalled cur.frame.signal).all (fun q => c.dowelN .v q + c.pending .v q + 1 ≤ 64) then
      .next (s.faultHere (.of .dowelOvf))
    else
      match body ⟨c.vec, c.csr.srkey, 0, (c.cqv.take pops).map (·.2)⟩ with
      | .error r => .next (s.faultHere (.of r))
      | .ok effs => .next ((s.setCore cur.core { c with cqv := c.cqv.drop pops }).finish occ lat none effs)

/-- A word of V that only a core runs: memory, flow, queue (R164 excludes them from update programs, but for `VLOOP`). -/
def vOp (s : State) (pops : Nat) (body : Core → List W64 → Body) : Out :=
  let cur := s.cur
  let c := s.core cur.core
  if cur.unit.isSome then .next (s.faultHere (.of .illop))
  else if !c.hasTokens .v cur.frame.wait then .next (s.holdAt cur.core .v .tokens)
  else if pops > 0 && ((c.cqv.take pops).filter (fun q => q.1 ≤ s.acOf cur.core)).length < pops then
    .next (s.holdFor cur.core .v .queue pops)
  else if !(signalled cur.frame.signal).all (fun q => c.dowelN .v q + c.pending .v q + 1 ≤ 64) then
    .next (s.faultHere (.of .dowelOvf))
  else
    match body c ((c.cqv.take pops).map (·.2)) with
    | .done s' occ lat target effects =>
      .next ((s'.modCore cur.core (fun c => { c with cqv := c.cqv.drop pops })).finish occ lat target effects)
    | .fault r => .next (s.faultHere r)
    | .hold k => .next (s.holdAt cur.core .v k)
    | .wait s' => .next s'

/-- What a word of M does. -/
inductive MBody where
  /-- the shadow table or nothing: retires at issue -/
  | now (c : Core)
  /-- an operation placed (its number is the core's next), which retires when it completes if `late`, else at issue; the core, and the leases it holds -/
  | place (c : Core) (op : MOp) (late : Bool)
  | fault (r : Report)

/-- A word of M (R168, R169, R171): tokens, CQM entries, room in dowels; then its body. -/
def mOp (s : State) (pops : Nat) (body : Core → List W64 → MBody) : Out :=
  let cur := s.cur
  let c := s.core cur.core
  if !c.hasTokens .m cur.frame.wait then .next (s.holdAt cur.core .m .tokens)
  else if pops > 0 && ((c.cqm.take pops).filter (fun q => q.1 ≤ s.acOf cur.core)).length < pops then
    .next (s.holdFor cur.core .m .queue pops)
  else if !(signalled cur.frame.signal).all (fun q => c.dowelN .m q + c.pending .m q + 1 ≤ 16) then
    .next (s.faultHere (.of .dowelOvf))
  else
    let go (c : Core) (sg : BitVec 4) : Core :=
      let c := (c.pop .m cur.frame.wait).push .m sg
      c.modStream .m (fun st => { st.next cur true none with nextAc := s.acOf cur.core + 1, wait := .idle, heldFrom := none, broken := none })
    match body c ((c.cqm.take pops).map (·.2)) with
    | .fault r =>
      -- a value out of range has been consumed (R173)
      let s := if r.cause = .qval then s.setCore cur.core { c with cqm := c.cqm.drop pops } else s
      .next (s.faultHere r)
    | .now c => .next (s.setCore cur.core (go { c with cqm := c.cqm.drop pops } cur.frame.signal))
    | .place c op late =>
      let op := { op with signal := if late then cur.frame.signal else 0 }
      let c := { c with mat := { c.mat with ops := c.mat.ops ++ [op] }, nextId := c.nextId + 1 }
      let s := (s.setCore cur.core (go c (if late then 0 else cur.frame.signal))).hold op.leases true
      .next (s.soon [.mOperationStart cur.core op.stream])

end Sys2Proof.Machine
end

