-- ==== Sys2Proof/Machine/Fetch.lean ====
section
/-! DEFINITION. Fetching a word, its check in full before issue, and the codes of packed words (R41, R57 to R65, R74). -/

namespace Sys2Proof.Machine

/-- Home of word offset `p` of the unit's image region (R41, R57). -/
def wordHome (s : State) (core p : Nat) : Nat := keySpm core (s.imgBase core + 8 * p)

/-- Fetch a word (R41, R74, R369). -/
def fetchWord (s : State) (core p : Nat) : Except Cause W64 :=
  if p < 8 || p ≥ 8 * s.imgLen core then .error .fetchBounds
  else
    let k := wordHome s core p
    let pj := s.jobOf core
    match checkCovering s pj.1 pj.2 k 8 with
    | some c => .error c
    | none => if s.poisoned k 8 then .error .poison else .ok (BitVec.ofNat 64 (s.readNat k 8))

/-- A word in CI format whose imm[29:24] is zero (R65). -/
def pairable (w : W64) : Bool :=
  bits w 56 8 != 0x7E && 0x20 ≤ bits w 40 8 && bits w 40 8 ≤ 0x27 && bits w 24 6 == 0

/-- First bit, width and modulus of the first register field of the format that an opcode selects (R63, R66 to R71). -/
def firstField (e : Engine) (op : Nat) : Option (Nat × Nat × Nat) :=
  match e with
  | .c =>
    if op = 0x28 then none
    else if op ≤ 0x27 then some (35, 5, 32)
    else if op ≤ 0x36 then some (36, 4, 12)
    else if op = 0x37 then some (38, 2, 4)
    else if op ≤ 0x45 then some (35, 5, 32)
    else if op ≤ 0x5F then some (33, 5, 32)
    else if op ≤ 0x6F then some (35, 5, 32)
    else if op = 0x74 then some (33, 5, 32)
    else some (35, 5, 32)
  | .v =>
    if op = 0x44 then some (28, 4, 16)
    else if op = 0x50 then some (38, 2, 4)
    else if op = 0x2B || op = 0x51 || op = 0x59 then some (37, 3, 8)
    else some (33, 4, 16)
  | .m => some (36, 4, 16)
  | .x => some (34, 6, 64)

/-- A word with a bias added to its first register field (R63). -/
def biased (e : Engine) (w : W64) (bias : Nat) : W64 :=
  match firstField e (bits w 40 8) with
  | some (lo, n, m) => putBits w lo n ((bits w lo n + bias) % m)
  | none => w

/-- A dictionary entry with its bias, as it issues (R62, R63): the entry is checked before the bias is added. -/
def decodeCode (e : Engine) (w : W64) (bias : Nat) : Except Cause (Frame × Instr) :=
  if bits w 56 8 = 0x7E || (e = .c && bits w 40 8 = 0x28) then .error .illseq
  else
    match decodeWord false e w with
    | .illop => .error .illop
    | .ok f i =>
      let w' := biased e w bias
      match decodeWord false e w' with
      | .ok _ i' => .ok (f, i')
      -- a field that the instruction leaves unused takes the bias without effect; a limit of the entry refuses it
      | .illop =>
        if rowOf e (bits w 40 8) (bits w' 0 40) = rowOf e (bits w 40 8) (bits w 0 40) then .ok (f, i) else .error .illop

/-- Scoreboard keys of a record access: the index register, and the record unless the access is raw. -/
def recReads (t : BitVec 6) (ns : List Nat) : List Nat := if t = 63 then ns else ns ++ [keyT t.toNat]

/-- What a word of C reads (R81): S registers, the handle of `HQRY` or `XLAT` at 32 + n (R120), tensor and iterator records (R80, R93). -/
def sReads (i : Instr) : List Nat :=
  match i with
  | .add _ a b | .sub _ a b | .mul _ a b | .mulh _ a b | .mulhu _ a b | .divu _ a b | .remu _ a b | .and _ a b | .or _ a b
  | .xor _ a b | .andn _ a b | .shl _ a b | .shr _ a b | .sar _ a b | .rotl _ a b | .min _ a b | .max _ a b | .minu _ a b
  | .maxu _ a b | .cmp _ _ a b | .amo _ a b _ _ | .enqr a b | .enqrT a b _ _ | .renew _ a b => [a.toNat, b.toNat]
  | .clz _ a | .popc _ a | .addi _ a _ | .andi _ a _ | .ori _ a _ | .xori _ a _ | .shli _ a _ | .shri _ a _ | .sari _ a _
  | .cmpi _ _ a _ | .gset _ a | .prepReg _ a | .loop _ a _ | .tdset _ a | .tdsetBase _ a
  | .tdsetExt _ a | .itset _ a | .qpush _ a | .qmask a | .fork a | .waito _ a _
  | .waitoT _ a _ _ | .sigo _ a | .bphase a | .cancelUnit a | .cancelLaunch a | .cancelGraph a | .cancelJob a | .vacate _ a
  | .leaseq _ a _ | .eret a | .csrw _ a | .dictld _ a => [a.toNat]
  | .ld _ a _ t _ | .ldt _ a _ t _ => recReads t [a.toNat]
  | .tdget n a => [a.toNat, keyT n.toNat]
  | .tdgetBase n _ => [keyT n.toNat]
  -- a counter is checked against the record's DIM
  | .itsetIdx n a => [a.toNat, keyI n.toNat]
  | .itget n a => [a.toNat, keyI n.toNat]
  | .itgetIdx n _ => [keyI n.toNat]
  | .hqry _ h _ => [32 + h.toNat]
  | .xlat h a _ => [a.toNat, 32 + h.toNat]
  | .addp _ a b => [a.toNat, a.toNat + 1, b.toNat, b.toNat + 1]
  | .st d a _ t _ | .stt d a _ t _ => recReads t [a.toNat, d.toNat]
  | .cas _ a b c _ | .rent _ a b c _ _ | .prepay _ a b c => [a.toNat, b.toNat, c.toNat]
  | .sublet _ a b c => [a.toNat, b.toNat, b.toNat + 1, c.toNat, c.toNat + 1]
  | _ => []

/-- `IMMX` at word offset `pc` of a core's C stream is misused (R65): it ends a loop body or the stream, or the next word is no CI word that may follow it. A next word that cannot be fetched is no misuse: its cause is raised instead (log 85). -/
def immxMisused (s : State) (core pc : Nat) : Bool :=
  let st := (s.core core).c
  st.loops.any (fun l => l.act && l.stop.toNat == pc) || pc + 1 == st.stop.toNat ||
    (match fetchWord s core (pc + 1) with
     | .ok w => !pairable w
     | .error _ => false)

/-- The cause of a word that does not decode (R61): ILLSEQ where it is an `IMMX` that is misused as well, else ILLOP. -/
def illegalCause (s : State) (core : Nat) (e : Engine) (pc : Nat) (w : W64) : Cause :=
  if e = .c && bits w 56 8 != 0x7E && bits w 40 8 == 0x28 && immxMisused s core pc then .illseq else .illop

/-- What an issue turn comes to. -/
inductive Ready where
  /-- the stream cannot issue now -/
  | idle
  /-- the word faults before it pops a token (R61), or waits for a result that it reads (R81) -/
  | stop (s : State)
  /-- it issues this instruction, under this cursor -/
  | run (s : State) (i : Instr)

/-- The stream may try a word: it runs, its time has come (R81, R124), and nothing stops its core. -/
def mayIssue (s : State) (core : Nat) (e : Engine) : Bool :=
  let c := s.core core
  let st := c.stream e
  st.run == .running && st.nextAc ≤ s.acOf core && c.health.frozenUntil ≤ s.acOf core &&
    (c.health.recovering.isNone || (e == .c && c.ctl.serving.any (fun q => c.refetches q.2))) &&
    (!c.seat.stopping || (e == .v && c.sweep.isSome && c.seat.cancelling)) && c.seat.unit.isSome &&
    (e == .c || st.pc != st.stop) && !(e == .x && c.copy.issuing.isSome) &&
    st.wait.held.isNone && !(e == .c && c.ctl.loads.any (fun l => l.1 == .c))

/-- An issue turn of a stream (R57 to R65): fetch, check in full, and the instruction that issues. -/
def ready (s : State) (core : Nat) (e : Engine) : Ready :=
  if !mayIssue s core e then .idle
  else
    -- a sweep has issued already: its word is not fetched again (R147)
    match (if e == .v then (s.core core).sweep else none) with
    | some w => .run { s with cur := w.cur } w.instr
    | none =>
    let st := (s.core core).stream e
    let p := st.pc.toNat
    let cur : Cursor := ⟨core, e, none, p, st.codePos, st.packed, true, ⟨none, 0⟩, 0, none⟩
    let s := { s with cur := cur }
    match fetchWord s core p with
    | .error c => .stop (s.faultHere (.of c))
    | .ok w =>
      match decodeWord false e w with
      | .illop => .stop (s.faultHere (.of (illegalCause s core e p w)))
      | .ok f i =>
        match i, st.packed with
        | .packed cnt c0 c1 c2, true =>
          let code := [c0, c1, c2].getD st.codePos c0
          let ent := spGet 0 (s.core core).dict (e.num * 1024 + bits code 6 10)
          if (s.core core).hot.contains ((e.num * 1024 + bits code 6 10) / 8) then .stop (s.faultHere (.of .poison))
          else
          match decodeCode e ent (bits code 0 6) with
          | .error c => .stop (s.faultHere (.of c))
          | .ok (f, i) =>
            if e == .c && !(s.core core).readable (sReads i) (s.acOf core) then .stop (s.holdAt core .c .scoreboard)
            else .run { s with cur := { cur with frame := f, word := biased e ent (bits code 0 6), lastCode := st.codePos ≥ cnt.toNat } } i
        | _, _ =>
          if e == .c && !(s.core core).readable (sReads i) (s.acOf core) then .stop (s.holdAt core .c .scoreboard)
          else .run { s with cur := { cur with frame := f, word := w, packed := false, codePos := 0 } } i

/-- A turn of an update unit (R164, R288): the next word of its program, unless the application has ended. -/
def readyKeeper (s : State) (u : Nat) : Ready :=
  match s.keeper.apps.find? (fun a => a.unit == u) with
  | none => .idle
  | some a =>
    if a.aborted then .idle
    else
      match a.prog[a.pc]? with
      | none => .idle
      | some w =>
        match decodeWord true .v w with
        | .ok f i => .run { s with cur := ⟨0, .v, some u, a.pc, 0, false, true, f, w, none⟩ } i
        | .illop => .idle

end Sys2Proof.Machine
end

