-- ==== Sys2Proof/Machine/Clock.lean ====
section
/-! DEFINITION. The clocks (R4, R13, R354) and which events may happen of themselves. -/

namespace Sys2Proof.Machine

/-- The timers of a clock that are due, in the order in which they were set, and those that are not. -/
def dueTimers (ts : List Timer) (c : Clock) (now : Nat) : List Timer × List Timer :=
  ts.partition (fun t => t.clock == c && t.due ≤ now)

/-- Lease instructions of a die's cores whose controller must answer before the die's next ac after wall time `t` (R112). -/
def State.lateLeases (s : State) (die t : Nat) : List Nat :=
  (s.cores.filter (fun e => let w := e.2.c.wait
    dieOf e.1 == die && w.kind == .lease && w.obj == 0 && w.goal != 0 && w.goal < t + acParts (s.clockStep die))).map (·.1)

/-- A die's arithmetic clock counts one ac; what is due now happens next. -/
def State.acStep (s : State) (die : Nat) : State :=
  if die < 4 then
    let d := s.die die
    let (due, rest) := dueTimers s.timers (.ac die) (d.ac + 1)
    { s with dies := putAt 4 .reset s.dies die { d with ac := d.ac + 1, time := s.nextAcTime die }, timers := rest, agenda := s.agenda ++ due.map (fun t => .occur t.event) ++
        (s.lateLeases die (s.nextAcTime die)).map (fun c => .occur (.leaseAck c)) }
  else s

/-- V streams of a die that may try a word (R124). -/
def State.vDue (s : State) (die : Nat) : List Nat :=
  (s.cores.filter (fun e => dieOf e.1 == die && mayIssue s e.1 .v)).map (·.1)

/-- A die's clock is to count: V issues at the first ac at which it can (R124), so each V stream of the die that may try a word does so before the clock moves. -/
def State.acTurn (s : State) (die : Nat) : State :=
  if !s.acMay die then s
  else match s.vDue die with
    | [] => s.acStep die
    | cs => { s with agenda := s.agenda ++ cs.map (fun c => .issue c .v) ++ [.acCount die] }

/-- A stream that is held at issue. -/
def Stream.held (st : Stream) : Bool := st.run == .running && st.wait.kind != .none

/-- Cores with a resident unit. -/
def State.seated (s : State) : List (Nat × Core) := s.cores.filter (fun e => e.2.seat.unit.isSome)

/-- Streams whose wait has lasted STALLT resident ticks (R311). -/
def State.stalls (s : State) : List Instr :=
  s.seated.flatMap (fun e =>
    let lim := (s.part (s.jobOf e.1).1).stallt.toNat
    ([Engine.c, .v, .m, .x].filter (fun g =>
      let st := e.2.stream g
      st.held && !st.wait.stalled && st.wait.since + lim ≤ s.tick)).map (fun g => .stall e.1 g))

/-- CORRECTABLE (R368): one event of a core for the corrections of the tick, and one of the I/O die. -/
def State.postFixed (s : State) : State :=
  let s := (s.cores.filter (fun e => e.2.health.fixedThisTick != 0)).foldl (fun (s : State) e =>
    s.toRing ((s.partOfCore e.1).getD 0) { Report.of .correctable with count := e.2.health.fixedThisTick } (s.whom e.1) true) s
  if s.platform.ioFixed = 0 then s
  else s.toRing 0 { Report.of .correctable with count := s.platform.ioFixed } ⟨0, 0, 0, 0, 0⟩ true

/-- The work of a tick's end, in order: the corrections' events; overdraft of lapsed leases, the seats, the watchdogs; then the next tick (R354, R355, R33, R311). -/
def State.tickEnd (s : State) : State :=
  let bills := (s.leases.filter (fun e => e.2.state == .lapsed)).map (fun e => Turn.occur (.overdraft e.1))
  let s := s.postFixed
  { s with agenda := s.agenda ++ bills ++ [.occur (.seatBilling s.tick)] ++ s.stalls.map .occur ++ [.tickStart] }

/-- All four streams of a core have been held at issue for 256 ticks in a row (R305). -/
def Core.idleFor (c : Core) (tick : Nat) : Bool :=
  c.seat.unit.isSome && [c.c, c.v, c.m, c.x].all (fun st => st.held && st.heldFrom.any (fun f => f + 256 ≤ tick))

/-- Chips of which no flit has been accepted for 50,000 ticks at tick `t` (R271; log 99). -/
def State.silentPeers (s : State) (t : Nat) : List Nat :=
  (s.peers.filter (fun q => q.chip != Config.chip && !q.lost && q.heard + 50000 ≤ t)).map (·.chip)

/-- The work of a tick's start (R354, R333): rate tables take effect; leases that are due, in slot order, then the reclaims; timers on ticks; chips that have been silent too long (R271). -/
def State.tickBegin (s : State) : State :=
  let t := s.tick + 1
  let s : State := { s with parts := s.parts.map (fun e => (e.1, { e.2 with rates := e.2.nextRates.getD e.2.rates, nextRates := none })) }
  let due := s.leases.filter (fun e => e.2.state == .open_ && e.2.paid == t)
  let act (e : Nat × Lease) : Instr :=
    if e.2.parent = 0 && e.2.step > 0 && e.2.escrow ≥ charge s e.2.part e.2.len e.2.tier e.2.step then .escrowRenewal e.1
    else if e.2.sync && e.2.waiters > 0 then .arrears e.1
    else .lapse e.1
  let recl := (s.leases.filter (fun e => e.2.state == .lapsed || (e.2.state == .open_ && (e.2.paid == t || e.2.parent != 0)))).map (fun e => Instr.reclaim e.1)
  let (tm, rest) := dueTimers s.timers .tick t
  let idle (e : Nat × Core) : Core := { e.2 with health := { e.2.health with fixedThisTick := 0 } }
  { s with
    tick := t
    cores := s.cores.map (fun e => (e.1, idle e))
    dies := s.dies.map (fun d => { d with acAtTick := d.ac, throttleTicks := d.throttleTicks + (if s.platform.thermal then 1 else 0) })
    platform := { s.platform with crcErrors := [], ioFixed := 0, powerLimit := s.platform.newLimit.getD s.platform.powerLimit, newLimit := none }
    timers := rest
    agenda := (due.map act).map .occur ++ recl.map .occur ++ tm.map (fun x => .occur x.event) ++
      (s.cores.filter (fun e => e.2.idleFor t)).map (fun e => .occur (.idleSliceEnd e.1)) ++
      (s.silentPeers t).map (fun c => .occur (.peerLost c)) ++
      (s.captures.filter (·.replay)).map (fun c => .replay c.part c.job) ++ s.agenda }

/-- Events that may happen whenever their own condition holds; every other event happens only when its time comes. -/
def spontaneous (i : Instr) : Bool :=
  match i with
  | .waitoEnd .. | .xwaitEnd .. | .rendJoin .. | .bphaseSnapshot .. | .haltRetire .. | .streamEnd .. | .enqrQueued ..
  | .leaseAck .. | .xlatWalkEnd .. | .barGenerationComplete .. | .vacateComplete .. | .xinvAck ..
  | .chunkStart .. | .chunkLand .. | .xRetire .. | .xAccept ..
  | .collectiveEmit .. | .collectiveApply .. | .collectiveComplete .. | .peerLost ..
  | .pktStore .. | .pktLoad .. | .pktAtom .. | .pktSignal .. | .mcastStore .. | .reduceLoad ..
  | .flitCrcError .. | .linkDown ..
  | .kGrad .. | .kSetup .. | .kPromote .. | .kResume .. | .kRetire .. | .kProgram .. | .blockApplication ..
  | .fetchServe .. | .graphPost .. | .unitPlace .. | .launchComplete ..
  | .sliceEnd .. | .idleSliceEnd .. | .preempt .. | .contextSave .. | .restore ..
  | .partCreate .. | .partGrow .. | .partShrink .. | .partDestroy .. | .jobCreate .. | .jobRetire .. | .rateSet ..
  | .purseCredit .. | .coreClear .. | .captureSet .. | .replaySet .. | .telemRead .. | .getMeasurements ..
  | .getFwInfo .. | .transferFw .. | .activateFw .. | .powerLimit .. | .packageReset .. | .registerWrite ..
  | .correctable .. | .uncorrectableError .. | .thermalThrottle .. | .throttleExit .. | .droopDetect ..
  | .hostCxlMemWrite .. => true
  -- the keeper of this package sends to itself on its own account
  | .kweights b => bits b.hdr 496 12 != Config.chip
  | _ => false

/-- The core whose engines do an event of themselves; while a correction freezes it, the event waits (R368). -/
def engineEvent (i : Instr) : Option Nat :=
  match i with
  | .waitoEnd c | .xwaitEnd c | .rendJoin c | .bphaseSnapshot c | .haltRetire c | .streamEnd c _ | .enqrQueued c
  | .leaseAck c | .xlatWalkEnd c _ | .xinvAck c _ | .chunkStart c _ | .chunkLand c _ _ | .xRetire c _ | .xAccept c
  | .preempt c | .contextSave c => some c
  | _ => none

/-- A correction freezes the core of an event of its engines. -/
def State.eventFrozen (s : State) (i : Instr) : Bool :=
  match engineEvent i with
  | some c => s.acOf c < (s.core c).health.frozenUntil
  | none => false

/-- A party outside writes storage outside the package (log 9). -/
def State.outsideWrite (s : State) (k : Nat) (bs : List Byte) : State :=
  if 2 ^ 64 ≤ k then s.writeMem k bs else s

end Sys2Proof.Machine
end

