-- ==== Sys2Proof/Machine/CMem.lean ====
section
/-! DEFINITION. C's accesses to SPM and MSM, records and control queues (R90 to R95). -/

namespace Sys2Proof.Machine

/-- A fault of an access through tensor record `t`. -/
def recFault (c : Cause) (t : Nat) (r : BitVec 256) : Body :=
  .fault { Report.of c with trec := t, lease := if c = .record then 0 else tLease r }

/-- Bytes of a size code (R90). -/
def szBytes (sz : Nat) : Nat := 2 ^ sz

/-- Where a C access of `size` bytes through record `t`, or raw where `t` is 63, goes (R90). -/
def cAccess (s : State) (c : Core) (t : BitVec 6) (off : Int) (size : Nat) : Except Cause Access :=
  if t = 63 then (rawAccess s s.cur.core off size size).map .at_
  else recAccess s s.cur.core (c.T t.toNat) off size

/-- A load (R90): zero-extended to 64 bits; poison is consumed (R369). DESIGN CHOICE: a zero-filled load through a record of MSM has the latency of SPM (log 97). -/
def cLoad (s : State) (d : BitVec 5) (t : BitVec 6) (off : Core → Int) (size lat : Nat) : Out :=
  cOp s (fun c =>
    match cAccess s c t (off c) size with
    | .error e => recFault e (if t = 63 then 0 else t.toNat) (if t = 63 then 0 else c.T t.toNat)
    | .ok .zero => .done (s.setCore s.cur.core (s.result c d.toNat 0 lat)) 1 lat none []
    | .ok (.at_ k) =>
      if s.poisoned k size then .cause .poison
      else if c.behindAtom k size then .hold .scoreboard
      else
        let lat := lat + (if k ≥ 2 ^ 52 then 3 else 0)
        .done (s.setCore s.cur.core (s.result c d.toNat (BitVec.ofNat 64 (s.cNat c k size)) lat)) 1 lat none [])

/-- A store (R90): it is performed, in program order (R91), 4 ac after issue, and retires then. -/
def cStore (s : State) (d : BitVec 5) (t : BitVec 6) (off : Core → Int) (size : Nat) : Out :=
  cOp s (fun c =>
    match cAccess s c t (off c) size with
    | .error e => recFault e (if t = 63 then 0 else t.toNat) (if t = 63 then 0 else c.T t.toNat)
    | .ok .zero => .done s 1 4 none []
    | .ok (.at_ k) => .done s 1 4 none [.store k (toBytes size (c.S d.toNat).toNat)])

/-- `LD` (R90). -/
def execLd (d a : BitVec 5) (sz : BitVec 2) (t : BitVec 6) (imm : BitVec 22) (s : State) : Out :=
  cLoad s d t (fun c => offLd (c.S a.toNat) imm) (szBytes sz.toNat) 6

/-- `ST` (R90). -/
def execSt (d a : BitVec 5) (sz : BitVec 2) (t : BitVec 6) (imm : BitVec 22) (s : State) : Out :=
  cStore s d t (fun c => offLd (c.S a.toNat) imm) (szBytes sz.toNat)

/-- `LDT` (R90). -/
def execLdt (d a : BitVec 5) (sz : BitVec 2) (t : BitVec 6) (imm : BitVec 22) (s : State) : Out :=
  cLoad s d t (fun c => offLdt (c.S a.toNat) (c.T t.toNat) (szBytes sz.toNat) imm) (szBytes sz.toNat) 7

/-- `STT` (R90). -/
def execStt (d a : BitVec 5) (sz : BitVec 2) (t : BitVec 6) (imm : BitVec 22) (s : State) : Out :=
  cStore s d t (fun c => offLdt (c.S a.toNat) (c.T t.toNat) (szBytes sz.toNat) imm) (szBytes sz.toNat)

/-- An indivisible access to an SPM element (R92): checked at issue, performed 4 ac later, with the old value in `Sd` at 10 ac. -/
def cAtomic (s : State) (d a : BitVec 5) (size op : Nat) (x cmp : Core → W64) : Out :=
  cOp s (fun c =>
    match rawAccess s s.cur.core (c.S a.toNat).toInt size size with
    | .error e => .cause e
    | .ok k =>
      if s.poisoned k size then .cause .poison
      else
        let id := c.nextId
        let fl : Flight := ⟨id, .c, 0, [.atom k size op (x c) (cmp c) d.toNat id], false, false⟩
        let c := (c.awaitS d.toNat (s.acOf s.cur.core + 10) id)
        let s := (s.setCore s.cur.core { c with flights := c.flights ++ [fl], nextId := id + 1 }).after s.cur.core 4
          (.instructionRetire s.cur.core .c id)
        .done s 1 10 none [])

/-- `AMO` (R92). -/
def execAmo (d a b : BitVec 5) (op : BitVec 4) (sz : BitVec 1) (s : State) : Out :=
  cAtomic s d a (if sz = 0 then 4 else 8) op.toNat (fun c => c.S b.toNat) (fun _ => 0)

/-- `CAS` (R92). -/
def execCas (d a b c' : BitVec 5) (sz : BitVec 1) (s : State) : Out :=
  cAtomic s d a (if sz = 0 then 4 else 8) 9 (fun c => c.S b.toNat) (fun c => c.S c'.toNat)

/-! ## Records (R93) -/

/-- A read of a record image of `n` bytes at raw SPM `S(a)`. -/
def cImage (s : State) (c : Core) (a : BitVec 5) (n : Nat) : Except Body Nat :=
  match rawAccess s s.cur.core (c.S a.toNat).toInt n n with
  | .error e => .error (.cause e)
  | .ok k =>
    if s.poisoned k n then .error (.cause .poison)
    else if c.behindAtom k n then .error (.hold .scoreboard)
    else .ok (s.cNat c k n)

/-- `TDSET` (R93). -/
def execTdset (n : BitVec 6) (a : BitVec 5) (s : State) : Out :=
  cOp s (fun c =>
    match cImage s c a 32 with
    | .error e => e
    | .ok v =>
      let t := BitVec.ofNat 256 v
      if tLegal t then .done (s.setCore s.cur.core ((c.setT n.toNat t).awaitKey (keyT n.toNat) (s.acOf s.cur.core + 8))) 1 8 none []
      else .fault { Report.of .record with trec := n.toNat })

/-- `TDSET.BASE` (R93). -/
def execTdsetBase (n : BitVec 6) (b : BitVec 5) (s : State) : Out :=
  cOp s (fun c => .done (s.setCore s.cur.core (c.setT n.toNat (putBits (c.T n.toNat) 202 52 (c.S b.toNat).toNat))) 1 1 none [])

/-- `TDSET.EXT` (R93). -/
def execTdsetExt (n : BitVec 6) (b : BitVec 5) (s : State) : Out :=
  cOp s (fun c => .done (s.setCore s.cur.core (c.setT n.toNat (putBits (c.T n.toNat) 162 40 (c.S b.toNat).toNat))) 1 1 none [])

/-- A write of a record image to raw SPM `S(a)`. -/
def cPutImage (s : State) (a : BitVec 5) (n : Nat) (v : Core → Nat) : Out :=
  cOp s (fun c =>
    match rawAccess s s.cur.core (c.S a.toNat).toInt n n with
    | .error e => .cause e
    | .ok k => .done s 1 4 none [.store k (toBytes n (v c))])

/-- `TDGET` (R93). -/
def execTdget (n : BitVec 6) (a : BitVec 5) (s : State) : Out := cPutImage s a 32 (fun c => (c.T n.toNat).toNat)

/-- `TDGET.BASE` (R93). -/
def execTdgetBase (n : BitVec 6) (a : BitVec 5) (s : State) : Out :=
  cWrite s a.toNat 2 (fun c => BitVec.ofNat 64 (tBase (c.T n.toNat)))

/-- `ITSET` (R93). -/
def execItset (n : BitVec 4) (a : BitVec 5) (s : State) : Out :=
  cOp s (fun c =>
    match cImage s c a 16 with
    | .error e => e
    | .ok v =>
      let r := BitVec.ofNat 128 v
      if iLegal r then .done (s.setCore s.cur.core ((c.setI n.toNat r).awaitKey (keyI n.toNat) (s.acOf s.cur.core + 6))) 1 6 none []
      else .fault { Report.of .record with irec := n.toNat, idx := sub (c.I n.toNat) 48 48 })

/-- `ITSET.IDX` (R93): an IDX counter above its DIM, or a value with bits above 47, is RECORD. -/
def execItsetIdx (n : BitVec 4) (b : BitVec 5) (s : State) : Out :=
  cOp s (fun c =>
    let v := c.S b.toNat
    let r := putBits (c.I n.toNat) 48 48 v.toNat
    if bits v 48 16 = 0 && iLegal r then .done (s.setCore s.cur.core (c.setI n.toNat r)) 1 1 none []
    else .fault { Report.of .record with irec := n.toNat, idx := sub (c.I n.toNat) 48 48 })

/-- `ITGET` (R93). -/
def execItget (n : BitVec 4) (a : BitVec 5) (s : State) : Out := cPutImage s a 16 (fun c => (c.I n.toNat).toNat)

/-- `ITGET.IDX` (R93). -/
def execItgetIdx (n : BitVec 4) (a : BitVec 5) (s : State) : Out :=
  cWrite s a.toNat 2 (fun c => BitVec.ofNat 64 (bits (c.I n.toNat) 48 48))

/-! ## Control queues (R95) -/

/-- Entries pushed at one ac; each may be popped from 2 ac later on. -/
def State.pushQ (s : State) (vq : Bool) (es : List W64) : State :=
  let at_ := s.acOf s.cur.core + 2
  s.modCore s.cur.core (fun c =>
    if vq then { c with cqv := c.cqv ++ es.map (fun e => (at_, e)) } else { c with cqm := c.cqm ++ es.map (fun e => (at_, e)) })

/-- `QPUSH` (R95): a full queue holds it at issue. -/
def execQpush (q : BitVec 2) (a : BitVec 5) (s : State) : Out :=
  cOp s (fun c =>
    let vq := q == 0
    if (if vq then c.cqv else c.cqm).length ≥ 64 then .hold .queue
    else .done (s.pushQ vq [c.S a.toNat]) 1 1 none [])

/-- `QMASK` (R95): 16 entries in one ac. -/
def execQmask (a : BitVec 5) (s : State) : Out :=
  cOp s (fun c =>
    match rawAccess s s.cur.core (c.S a.toNat).toInt 128 8 with
    | .error e => .cause e
    | .ok k =>
      if c.cqv.length > 48 then .hold .queue
      else if s.poisoned k 128 then .cause .poison
      else if c.behindAtom k 128 then .hold .scoreboard
      else .done (s.pushQ true ((upto 0 16).map (fun j => BitVec.ofNat 64 (s.cNat c (k + 8 * j) 8)))) 1 1 none [])

end Sys2Proof.Machine
end

