-- ==== Sys2Proof/Machine/Arbitrate.lean ====
section
/-! DEFINITION. The deficit arbiter that every shared resource has (R301, R302). -/

namespace Sys2Proof.Machine

/-- What an arbiter chooses among: for each job, the cost of its head request if it is backlogged, `W * Q`, and `Cap`. -/
structure Demand where
  cost : Nat → Option Nat
  quantum : Nat → Nat
  cap : Nat → Int

/-- The loop of `Arbitrate()`; `fuel` bounds it. -/
def Arbiter.loop (q : Demand) : Nat → Arbiter → Option (Nat × Arbiter)
  | 0, _ => none
  | fuel + 1, a =>
    match a.ring[a.h]? with
    | none => none
    | some j =>
      let dj := spGet 0 a.d j
      let dj := if a.fresh then (match q.cost j with
        | some _ => min (dj + q.quantum j) (q.cap j)
        | none => min dj 0) else dj
      let a := { a with fresh := false, d := spPut 0 a.d j dj }
      match q.cost j with
      | some c =>
        if (c : Int) ≤ dj then some (j, { a with d := spPut 0 a.d j (dj - c) })
        else Arbiter.loop q fuel { a with h := (a.h + 1) % a.ring.length, fresh := true }
      | none => Arbiter.loop q fuel { a with h := (a.h + 1) % a.ring.length, fresh := true }

/-- Passes of the ring within which a backlogged job's head is served (R303), from its counter. -/
def Demand.passes (q : Demand) (d : Sparse Int) (j : Nat) : Nat :=
  match q.cost j with
  | some c => ceilDiv ((c : Int) - spGet 0 d j).toNat (q.quantum j)
  | none => 0

/-- `Arbitrate()` (R301) among jobs of which `jobs` are backlogged: the job whose head is served, and the arbiter after. A job enters the ring with its first request, if it is not there yet. The loop ends within the passes of R303, however deep in debt the jobs are. -/
def Arbiter.choose (a : Arbiter) (jobs : List Nat) (q : Demand) : Option (Nat × Arbiter) :=
  if jobs.isEmpty then none
  else
    let a := { a with ring := a.ring ++ (jobs.filter (fun j => !a.ring.contains j)).eraseDups }
    Arbiter.loop q (a.ring.length * ((jobs.map (q.passes a.d)).foldl max 0 + 2) + 1) a

/-- A job may use the resource from now on (R301). -/
def Arbiter.enter (a : Arbiter) (j : Nat) : Arbiter := if a.ring.contains j then a else { a with ring := a.ring ++ [j] }

/-- A job may no longer use it. -/
def Arbiter.leave (a : Arbiter) (j : Nat) : Arbiter :=
  let i := a.ring.idxOf j
  if a.ring.contains j then
    { a with ring := a.ring.filter (· != j), d := spPut 0 a.d j 0,
             h := if i < a.h then a.h - 1 else if a.h + 1 = a.ring.length && i = a.h then 0 else a.h }
  else a

end Sys2Proof.Machine
end

