-- ==== Sys2Proof/Machine/Commands.lean ====
section
/-! DEFINITION. Accepted X commands: their progress, parking and landing (R194 to R198, R208). -/

namespace Sys2Proof.Machine

/-- A command by number. -/
def Core.cmd (c : Core) (id : Nat) : Option XCmd := c.copy.cmds.find? (fun x => x.id == id)

/-- A command changed. -/
def State.modCmd (s : State) (core id : Nat) (f : XCmd → XCmd) : State :=
  s.modCore core (fun c => { c with copy := { c.copy with
    cmds := c.copy.cmds.map (fun x => if x.id = id then f x else x) } })

/-- Record numbers of destination and source. -/
def xNums (i : Instr) : Nat × Nat :=
  match i with
  | .xcopy a b .. | .xred a b .. | .xgath a b .. | .xscat a b .. | .xmcast a b .. | .xrload a b .. | .xatom a b ..
  | .xdecl a b | .xksend a b _ | .xkfetch a b .. => (a.toNat, b.toNat)
  | .xpref a | .xcoll a .. | .xinv a _ => (a.toNat, 0)
  | .xkparam b _ => (0, b.toNat)
  | _ => (0, 0)

/-! ## Prefetch lists (R208) -/

/-- An entry of a prefetch list (R208): source, destination, kind, length, layer, the image of its object slot as read at issue, OB. -/
structure PrefEntry where
  src : Nat
  dst : Nat
  dkind : Nat
  len : Nat
  layer : Nat
  slot : Nat
  ob : Bool
  img : W64
  deriving DecidableEq, Repr, Inhabited

/-- The fields of a list entry; above its 256 bits stands the image of its object slot. -/
def prefEntry (v : Nat) : PrefEntry :=
  ⟨fldN v 204 52, fldN v 152 52, fldN v 150 2, fldN v 110 40, fldN v 94 16, fldN v 89 5, v.testBit 88, fld v 256 64⟩

/-- Entries in the order in which they run: by LAYER, then as listed. -/
def prefOrder (data : List Nat) : List PrefEntry :=
  let rec ins (e : PrefEntry) : List PrefEntry → List PrefEntry
    | [] => [e]
    | f :: fs => if e.layer < f.layer then e :: f :: fs else f :: ins e fs
  (data.map prefEntry).foldl (fun l e => ins e l) []

/-- Chunks of an entry. -/
def PrefEntry.chunks (e : PrefEntry) : Nat := ceilDiv e.len 65536

/-- Chunk `c` of a list: the place of its entry, the entry, and the chunk of the entry. -/
def prefAt : List PrefEntry → Nat → Nat → Option (Nat × PrefEntry × Nat)
  | [], _, _ => none
  | e :: es, i, c => if c < e.chunks then some (i, e, c) else prefAt es (i + 1) (c - e.chunks)

/-- Progress of the entry at a place. -/
def XCmd.entAt (x : XCmd) (i : Nat) : PrefState := x.ents.getD i ⟨0, 0, false⟩

/-- Progress of an entry written. -/
def XCmd.setEnt (x : XCmd) (i : Nat) (q : PrefState) : XCmd := { x with ents := putAt x.data.length ⟨0, 0, false⟩ x.ents i q }

/-! ## Progress (R195) -/

/-- Chunk `c` has landed, by a progress pointer. -/
def landedAt (pp lb c : Nat) : Bool := c < pp || (pp < c && c ≤ pp + 4 && lb.testBit (c - pp - 1))

/-- A progress pointer after chunk `n` has landed: PP moves past it and past those that LB marks. -/
def landAt (pp lb n : Nat) : Nat × Nat :=
  let rec go : Nat → Nat → Nat → Nat × Nat
    | 0, pp, lb => (pp, lb)
    | k + 1, pp, lb => if lb % 2 = 1 then go k (pp + 1) (lb / 2) else (pp + 1, lb / 2)
  if n < pp || pp + 4 < n then (pp, lb)
  else if n = pp then go 5 pp lb
  else (pp, lb ||| 2 ^ (n - pp - 1))

/-- Chunk `n` of a command has landed; in a prefetch list, in the pointer of its entry (R208). -/
def XCmd.landed (x : XCmd) (n : Nat) : XCmd :=
  let x := { x with flight := x.flight.filter (fun f => f.no != n) }
  match x.instr with
  | .xpref _ =>
    match prefAt (prefOrder x.data) 0 n with
    | some (i, _, c) =>
      let q := x.entAt i
      let (pp, lb) := landAt q.pp q.lb c
      x.setEnt i { q with pp := pp, lb := lb }
    | none => x
  | _ =>
    let (pp, lb) := landAt x.pp x.lb n
    { x with pp := pp, lb := lb }

/-- The pointer that a record of a command shows (R196): of a prefetch list, that of its first entry that is not complete. -/
def XCmd.progress (x : XCmd) : Nat × Nat :=
  match x.instr with
  | .xpref _ =>
    match (prefOrder x.data).zipIdx.find? (fun e => (x.entAt e.2).pp < e.1.chunks) with
    | some e => let q := x.entAt e.2; (q.pp, q.lb)
    | none => (0, 0)
  | _ => (x.pp, x.lb)

/-! ## Parking (R196) -/

/-- The address at which a parked walk failed is kept in the report's DETAIL. -/
def parkReport (x : XCmd) (c : Cause) (trec lease va : Nat) : Report :=
  { Report.of c with eng := .x, pc := x.pc, codePos := x.codePos, trec := trec, pp := x.progress.1, lb := x.progress.2, lease := lease, detail := va, cmd := some x.id }

/-- A parked command whose chunks in flight have landed records its progress and is reported (R196): WALK to the supervisor unit as an event, every other cause to the C handler. -/
def State.raisePark (s : State) (core id : Nat) : State :=
  match (s.core core).cmd id with
  | some x =>
    match x.parked with
    | some r =>
      if x.raised || !x.flight.isEmpty then s
      else
        let r := { r with pp := x.progress.1, lb := x.progress.2 }
        let s := s.modCmd core id (fun y => { y with parked := some r, raised := true })
        if r.cause == .walk then s.eventAt core r else s.engineFault core r
    | none => s
  | none => s

/-- A command parks (R196): WALK goes to the supervisor unit as an event and X goes on; every other cause goes to the C handler and X freezes. One that is parked already stays so. -/
def State.parkCmd (s : State) (core : Nat) (x : XCmd) (c : Cause) (trec lease va : Nat) : State :=
  if x.parked.isSome then s
  else (s.modCmd core x.id (fun y => { y with parked := some (parkReport x c trec lease va), raised := false })).raisePark core x.id

/-! ## Landing (R194) -/

/-- A chunk in flight changed. -/
def State.modChunk (s : State) (core cmd chunk : Nat) (f : Chunk → Chunk) : State :=
  s.modCmd core cmd (fun y => { y with flight := y.flight.map (fun c => if c.no = chunk then f c else c) })

/-- A chunk lands: its leases are released, and its command's pointer moves. -/
def State.landCmd (s : State) (core cmd chunk : Nat) : State :=
  match ((s.core core).cmd cmd).bind (fun x => x.flight.find? (fun f => f.no == chunk)) with
  | some ch => (((s.hold ch.leases false).modCmd core cmd (fun y => y.landed chunk)).raisePark core cmd).stir core
  | none => s

/-- Keepers that a PCHIP and an MCHIP name (R281, R286). -/
def namedKeepers (pc mc : Nat) : List Nat := [pc] ++ (if mc = 0xFFF then [] else [mc])

/-- Keepers that the header of a send names, in order (R281): each is sent every block. -/
def XCmd.keepers (x : XCmd) : List Nat := let h := x.data.headD 0; namedKeepers (fldN h 85 12) (fldN h 73 12)

/-- This package's keeper has taken a block of a send (R282): its chunk lands, unless the header names this keeper again. -/
def State.takenBlock (s : State) (core cmd chunk : Nat) : State :=
  match (s.core core).cmd cmd with
  | some x =>
    if x.flight.any (fun f => f.no == chunk && f.phase + 1 < (x.keepers.filter (· == Config.chip)).length + 2) then
      s.modChunk core cmd chunk (fun f => { f with phase := f.phase + 1, acks := [] })
    else s.landCmd core cmd chunk
  | none => s

/-- A chunk that has been refused ends without landing (R194): its leases are released, and its command parks. -/
def State.dropChunk (s : State) (core : Nat) (x : XCmd) (ch : Chunk) (c : Cause) (trec : Nat) : State :=
  let s := (s.hold ch.leases false).modCmd core x.id (fun y => { y with flight := y.flight.filter (fun f => f.no != ch.no) })
  (match (s.core core).cmd x.id with
   | some y => (s.parkCmd core y c trec 0 0).raisePark core x.id
   | none => s).stir core

end Sys2Proof.Machine
end

