-- ==== Sys2Proof/Machine/KeeperBase.lean ====
section
/-! DEFINITION. What the keeper's groups occupy, and what they meet when a lease ends (R279, R284, R289, R293). -/

namespace Sys2Proof.Machine

/-! ## Virtual ranges -/

/-- A span of virtual addresses cut at 256 KiB pages. -/
def cutPages (a n : Nat) : List (Nat × Nat) :=
  if n = 0 then []
  else (upto (a / 2 ^ 18) ((a + n - 1) / 2 ^ 18 - a / 2 ^ 18 + 1)).map (fun pg =>
    let lo := max a (pg * 2 ^ 18)
    (lo, min (a + n) (pg * 2 ^ 18 + 2 ^ 18) - lo))

/-- Homes and lengths of a virtual range of a job, page by page; `none` where a walk fails. -/
def vaPieces (s : State) (p j va n : Nat) (r w : Bool) : Option (List (Nat × Nat)) :=
  (cutPages va n).mapM (fun pc => (homeOf s p j pc.1 r w).map (fun k => (k, pc.2)))

/-- The bytes of pieces, every publication seen. -/
def State.pieceBytes (s : State) (ps : List (Nat × Nat)) : List Byte := ps.flatMap (fun p => s.pubBytes p.1 p.2)

/-- Bytes written over pieces at their homes. -/
def State.writePieces (s : State) : List (Nat × Nat) → List Byte → State
  | [], _ => s
  | p :: ps, bs => (s.writeHome p.1 (bs.take p.2)).writePieces ps (bs.drop p.2)

/-- A granule of pieces is poisoned. -/
def State.piecePoison (s : State) (ps : List (Nat × Nat)) : Bool := ps.any (fun p => s.poisoned p.1 p.2)

/-- The first lease that does not pass for pieces, if there is one: each must lie in an open lease of the job, of a tier where one is asked. -/
def pieceLease (s : State) (p j : Nat) (tier : Option Nat) (ps : List (Nat × Nat)) : Except Nat (List Nat) :=
  ps.foldl (fun acc r => match acc with
    | .error id => .error id
    | .ok ids =>
      let id := coveringLease s p j r.1 r.2
      match leaseCheck s p j id with
      | .ok l => if l.holdsRange r.1 r.2 && (match tier with
          | some t => l.tier == t
          | none => true) then .ok (if ids.contains id then ids else ids ++ [id]) else .error id
      | .error _ => .error id) (.ok [])

/-- Home of one virtual address, as an engine of the I/O die translates it (R343). -/
def ioHome (s : State) (p j va : Nat) (r w : Bool) : Option Nat := (xlate s none p j va r w).map (·.keyOf va)

/-- Homes and lengths of a virtual range, as an engine of the I/O die translates it (R343). -/
def ioPieces (s : State) (p j va n : Nat) (r w : Bool) : Option (List (Nat × Nat)) :=
  (cutPages va n).mapM (fun pc => (ioHome s p j pc.1 r w).map (fun k => (k, pc.2)))

/-- The home of the byte at an offset of pieces. -/
def pieceAt : List (Nat × Nat) → Nat → Option Nat
  | [], _ => none
  | p :: ps, o => if o < p.2 then some (p.1 + o) else pieceAt ps (o - p.2)

/-- Pieces of which those in the package lie under open leases of the job; `none` where one does not (R329; log 103). -/
def underLease (s : State) (p j : Nat) (ps : List (Nat × Nat)) : Option (List (Nat × Nat)) :=
  match pieceLease s p j none (ps.filter (fun q => q.1 < 2 ^ 64)) with
  | .ok _ => some ps
  | .error _ => none

/-- Pieces of a virtual range of a job, those in the package under its open leases; `none` where a walk or a lease fails (R329; log 103). -/
def openPieces (s : State) (p j va n : Nat) (r w : Bool) : Option (List (Nat × Nat)) := (vaPieces s p j va n r w).bind (underLease s p j)

/-- The same, as the keeper translates it (R343). -/
def ioOpen (s : State) (p j va n : Nat) (r w : Bool) : Option (List (Nat × Nat)) := (ioPieces s p j va n r w).bind (underLease s p j)

/-- The leases of a virtual range of the keeper, or the one at fault (0 where a walk fails). -/
def vaLeases (s : State) (p j : Nat) (tier : Option Nat) (va n : Nat) : Except Nat (List Nat) :=
  match ioPieces s p j va n true true with
  | some ps => pieceLease s p j tier ps
  | none => .error 0

/-! ## A group's fields (R284) -/

/-- PROG -/
def gProg (b : BitVec 3072) : Nat := bits b 508 4
/-- NBLK + 1 -/
def gBlocks (b : BitVec 3072) : Nat := bits b 488 20 + 1
/-- NARR + 1 -/
def gArrays (b : BitVec 3072) : Nat := bits b 485 3 + 1
/-- EFMT -/
def gFmt (b : BitVec 3072) : Nat := bits b 480 5
/-- ESR -/
def gEsr (b : BitVec 3072) : Bool := bits b 479 1 == 1
/-- NCONTRIB -/
def gContrib (b : BitVec 3072) : Nat := bits b 467 12
/-- DEADLINE -/
def gDeadline (b : BitVec 3072) : Nat := bits b 443 24
/-- NSUB -/
def gSubs (b : BitVec 3072) : Nat := bits b 438 5
/-- STGBASE -/
def gStage (b : BitVec 3072) : Nat := bits b 386 52
/-- STGLEN -/
def gStageLen (b : BitVec 3072) : Nat := bits b 346 40
/-- SEED -/
def gSeed (b : BitVec 3072) : W64 := sub b 282 64
/-- EMBASE -/
def gEmit (b : BitVec 3072) : Nat := bits b 230 52
/-- INITSTEP -/
def gInit (b : BitVec 3072) : Nat := bits b 198 32
/-- ARRAYj -/
def gArray (b : BitVec 3072) (j : Nat) : Nat := bits b (512 + 64 * j) 52
/-- Chip, DST and OBJ of subscriber `n` -/
def gSub (b : BitVec 3072) (n : Nat) : Nat × Nat × Nat :=
  let o := 1024 + 128 * n
  (bits b (o + 104) 12, bits b (o + 52) 52, bits b o 52)

/-- E and the slot (R279). -/
def emitSize (fmt : Nat) : Nat := 1024 * contBits fmt / 8 + (if isBlock fmt then 32 * scaleBytes fmt else 0)
/-- The slot length of a format. -/
def emitSlot (fmt : Nat) : Nat := ceilDiv (emitSize fmt) 64 * 64

/-- A group of a job. -/
def State.kgroup (s : State) (p j g : Nat) : Option KGroup :=
  s.keeper.groups.find? (fun k => k.part == p && k.job == j && k.group == g)

/-- A group changed. -/
def State.modGroup (s : State) (p j g : Nat) (f : KGroup → KGroup) : State :=
  { s with keeper := { s.keeper with groups := s.keeper.groups.map (fun k => if k.part = p && k.job = j && k.group = g then f k else k) } }

/-- DETAIL of a keeper event (R378). -/
def kDetail (group block step : Nat) : Nat := group * 2 ^ 52 + block * 2 ^ 32 + step

/-- An event of a group. -/
def State.kEvent (s : State) (g : KGroup) (c : Cause) (block step lease count : Nat) : State :=
  s.eventJob g.part g.job { Report.of c with detail := kDetail g.group block step, lease := lease, count := count }

/-! ## Leases that end (R289) -/

/-- What a region of a group is. -/
inductive KRegion where
  | cabinet
  | stage
  | subscriber (n : Nat)
  deriving DecidableEq, Repr, Inhabited

/-- The regions of a group at this package that overlap ranges. -/
def kRegions (s : State) (g : KGroup) (rs : List (Nat × Nat)) : List KRegion :=
  let hits (va n : Nat) : Bool := (cutPages va n).any (fun pc => match ioHome s g.part g.job pc.1 false false with
    | some k => overlaps rs k pc.2
    | none => false)
  let b := g.setup
  let n := gBlocks b
  let cab := (upto 0 (gArrays b)).any (fun i => hits (gArray b i) (4096 * n)) || hits (gEmit b) (emitSlot (gFmt b) * n)
  let subs := (upto 0 (gSubs b)).filter (fun i =>
    let (chip, dst, obj) := gSub b i
    chip == Config.chip && (hits dst ((emitSlot (gFmt b) + 64) * n) || hits obj (8 * n)))
  (if cab then [.cabinet] else []) ++ (if hits (gStage b) (gStageLen b) then [.stage] else []) ++ subs.map .subscriber

/-- A lease has lapsed: groups whose cabinet or emission area it covers freeze, and EXPIRY names it, in a frozen group too (R289). -/
def State.keeperLapse (s : State) (id : Nat) : State :=
  match s.lease id with
  | none => s
  | some l =>
    (s.keeper.groups.filter (fun g => g.part == l.part && g.job == l.job && !g.lost)).foldl (fun s g =>
      if (kRegions s g l.ranges).contains .cabinet then
        (s.modGroup g.part g.job g.group (fun k => { k with frozen := true })).kEvent g .expiry 0 0 id 0
      else s) s

/-- The state of a block (R287). -/
def KGroup.block (g : KGroup) (b : Nat) : KBlockState :=
  (g.blocks.find? (fun k => k.block == b)).getD ⟨b, gInit g.setup, gInit g.setup, 0⟩

/-- The group with a block's state written. -/
def KGroup.setBlock (g : KGroup) (k : KBlockState) : KGroup := { g with blocks := g.blocks.filter (fun q => q.block != k.block) ++ [k] }

/-- Duplicates of a block are discarded and counted (R287). -/
def KGroup.countDups (g : KGroup) (b n : Nat) : KGroup :=
  if n = 0 then g else let k := g.block b; { (g.setBlock { k with dups := k.dups + n }) with dups := g.dups + n }

/-- A held block is the next of its index. -/
def KGroup.isNext (g : KGroup) (h : KHeld) : Bool := h.step == (g.block h.block).applied + 1

/-- Blocks with a held block of the next step, in the order in which they are held: the one that failed its check first (R289). -/
def KGroup.ready (g : KGroup) : List Nat := (g.held.filter g.isNext).map (·.block)

/-- KCMD_DONE (R283). -/
def State.kDone (s : State) (p j num kind count : Nat) : State :=
  s.eventJob p j { Report.of .kcmdDone with detail := num + kind * 2 ^ 8 + Config.chip * 2 ^ 16, count := count }

/-- Every RESUME of a group that has passed its check is finished (R283). -/
def State.kResumed (s : State) (p j gn : Nat) : State :=
  let n := ((s.kgroup p j gn).map (·.resuming)).getD 0
  (upto 0 n).foldl (fun (s : State) _ => s.kDone p j gn 3 0) (s.modGroup p j gn (fun g => { g with resuming := 0 }))

/-- The fate of a block is known: its waiting duplicates are discarded and counted (R287). -/
def State.kFate (s : State) (p j g b st : Nat) : State :=
  match s.kgroup p j g with
  | none => s
  | some k =>
    let mine (d : KDup) : Bool := d.block == b && d.step == st
    let ds := k.waiting.filter mine
    let s := s.modGroup p j g (fun k => { (k.countDups b ds.length) with waiting := k.waiting.filter (fun d => !mine d) })
    ds.foldl (fun s d => match d.chunk with
      | some (c, m, n) => s.takenBlock c m n
      | none => s) s

/-- Held blocks are dropped (R284, R289): their requests are withdrawn, and their fate is known. A RESUME that waits for one to start, where none is left, is finished (log 101). -/
def State.dropHeld (s : State) (g : KGroup) (gone : KHeld → Bool) : State :=
  let out := g.held.filter gone
  let left := g.held.filter (fun h => !gone h)
  let s := s.modGroup g.part g.job g.group (fun k => { k with held := left })
  let s : State := { s with keeper := { s.keeper with queue := s.keeper.queue.filter (fun q =>
    !(q.1 == g.part && q.2.1 == g.job && q.2.2.1 == g.group && !left.any (fun h => h.block == q.2.2.2))) } }
  let s := out.foldl (fun s h => s.kFate g.part g.job g.group h.block h.step) s
  match s.kgroup g.part g.job g.group with
  | some k => if k.ready.isEmpty then s.kResumed g.part g.job g.group else s
  | none => s

/-- A lease is reclaimed, or vacated by its job (R289). -/
def State.keeperEnd (s : State) (id : Nat) : State :=
  match s.lease id with
  | none => s
  | some l =>
    (s.keeper.groups.filter (fun g => g.part == l.part && g.job == l.job)).foldl (fun s g =>
      (kRegions s g l.ranges).foldl (fun s r => match r with
        | .cabinet =>
          if g.lost then s
          else ((s.modGroup g.part g.job g.group (fun k => { k with lost := true })).dropHeld g (fun _ => true)).kEvent g .kcabinetLost 0 0 id 0
        | .stage => s.dropHeld ((s.kgroup g.part g.job g.group).getD g) (fun h => h.slot.isSome)
        | .subscriber n =>
          if g.dropped.contains n then s
          else (s.modGroup g.part g.job g.group (fun k => { k with dropped := k.dropped ++ [n] })).kEvent g .ksubLost 0 0 id 0) s) s

/-! ## Deadlines (R293) -/

/-- A group sees step `step` of a block or a fetch: its deadline starts if it is the first. -/
def State.kSees (s : State) (p j g step : Nat) : State :=
  match s.kgroup p j g with
  | none => s
  | some k =>
    let d := gDeadline k.setup
    if d = 0 || k.deadlines.any (fun e => e.1 == step) then s
    else
      let s := s.modGroup p j g (fun k => { k with deadlines := k.deadlines ++ [(step, s.tick + d, false)] })
      s.atTick (s.tick + d) (.missing p j g step)

end Sys2Proof.Machine
end

