-- ==== Sys2Proof/Machine/Capture.lean ====
section
/-! DEFINITION. Capture of a job's inputs to a log (R381), and the entries of a log (R382). -/

namespace Sys2Proof.Machine

/-- An entry of a log before it is written (R381). -/
structure LogEntry where
  /-- 0 host, 1 fabric, 2 key -/
  src : Nat
  chip : Nat
  seq : Nat
  addr : Nat
  typ : Nat
  key : Nat
  payload : List Byte
  poison : List Nat
  deriving DecidableEq, Repr, Inhabited

/-- The header of an entry. -/
def LogEntry.header (e : LogEntry) (tick : Nat) : Nat :=
  let f (v lo n : Nat) : Nat := v % 2 ^ n * 2 ^ lo
  [f e.src 510 2, f e.chip 498 12, f e.seq 466 32, f tick 418 48, f e.addr 366 52, f (ceilDiv e.payload.length 64) 358 8,
   f e.typ 354 4, f e.key 290 64].foldl (· + ·) 0

/-- The capture of a job that is running. -/
def State.capturing (s : State) (p j : Nat) : Option Capture := s.captures.find? (fun c => c.part == p && c.job == j && !c.replay)

/-- A job's capture ends, with CAPTURE_END (R381). -/
def State.endCapture (s : State) (p j : Nat) : State :=
  State.eventJob { s with captures := s.captures.filter (fun c => !(c.part == p && c.job == j && !c.replay)) } p j (.of .captureEnd)

/-- An input of a job is appended to its log, if capture runs: 64-byte header, then the payload in granules. A write that fails its lease check, or that reaches the end, ends capture. -/
def State.capture (s : State) (p j : Nat) (e : LogEntry) : State :=
  match s.capturing p j with
  | none => s
  | some c =>
    let n := ceilDiv e.payload.length 64
    let body := e.payload ++ List.replicate (64 * n - e.payload.length) 0
    let total := 64 + 64 * n
    let s := if e.src = 0 then { s with hostSeq := spPut 0 s.hostSeq p (spGet 0 s.hostSeq p + 1) } else s
    if c.pos + total > c.len then s.endCapture p j
    else
      match vaPieces s p j (c.va + c.pos) total false true with
      | none => s.endCapture p j
      | some ps =>
        match pieceLease s p j (some 3) ps with
        | .error _ => s.endCapture p j
        | .ok _ =>
          let s := s.writePieces ps (toBytes 64 (e.header s.tick) ++ body)
          let s := (e.poison.filterMap (fun g => pieceAt ps (64 + 64 * g))).foldl (fun (s : State) k => s.poisonAt k 64) s
          { s with captures := s.captures.map (fun d => if d = c then { d with pos := d.pos + total } else d) }

/-- The host counter that the next entry of a partition takes. -/
def State.hostCount (s : State) (p : Nat) : Nat := spGet 0 s.hostSeq p

/-- A host input of a job (R381): 0 post, 1 write, 2 read. -/
def State.captureHost (s : State) (p j typ addr : Nat) (bs : List Byte) : State :=
  s.capture p j ⟨0, 0, s.hostCount p, addr, typ, 0, bs, []⟩

/-- A key of a job (R381): the core or the group, and the key; TYPE is 0 for a core and 1 for a group (log 56). -/
def State.captureKey (s : State) (p j typ addr : Nat) (key : W64) : State := s.capture p j ⟨2, 0, 0, addr, typ, key.toNat, [], []⟩

end Sys2Proof.Machine
end

