-- ==== Sys2Proof/Machine/Rental.lean ====
section
/-! DEFINITION. The operations of the lease controllers: renting, ending, scrubbing and billing (R109 to R117, R354 to R361). -/

namespace Sys2Proof.Machine

/-- Bytes in a tier's leasing unit (R32). -/
def leaseUnit (tier : Nat) : Nat := if tier ≤ 2 then 64 else 262144

/-- Adjacent ranges joined. -/
def joinRanges : List (Nat × Nat) → List (Nat × Nat)
  | [] => []
  | r :: rs =>
    match joinRanges rs with
    | q :: qs => if r.1 + r.2 = q.1 then (r.1, r.2 + q.2) :: qs else r :: q :: qs
    | [] => [r]

/-- A leaf maps a frame of the tier (R109). -/
def tierFrame (tier : Nat) (l : Leaf) (va : Nat) : Bool :=
  let k := l.keyOf va
  match tier with
  | 2 => l.target == 0 && 0x10000000000 ≤ k && k < 0x10020000000
  | 3 => l.target == 0 && k < 0x8000000000
  | _ => l.target == 3

/-- The homes of a range to be leased: the core's own, or what the walk of each 256 KiB page finds (R109, R113); `none` is UNMAPPED. -/
def rentRanges (s : State) (p j core tier base len : Nat) (sync : Bool) : Option (List (Nat × Nat)) :=
  match tier with
  | 0 => some [(keyMsm core base, len)]
  | 1 => some [(keySpm core base, len)]
  | _ =>
    let pages := upto (base / 2 ^ 18) ((base + len - 1) / 2 ^ 18 - base / 2 ^ 18 + 1)
    let piece (pg : Nat) : Option (Nat × Nat) :=
      let lo := max base (pg * 2 ^ 18)
      let hi := min (base + len) (pg * 2 ^ 18 + 2 ^ 18)
      match walk s p j lo false false with
      | some l => if tierFrame tier l lo && (!sync || l.sy) then some (l.keyOf lo, hi - lo) else none
      | none => none
    (pages.mapM piece).map joinRanges

/-- Status codes of R109. -/
def stOk : Nat := 0
/-- NOFUNDS -/
def stNofunds : Nat := 1
/-- TAKEN -/
def stTaken : Nat := 2
/-- NOTABLE -/
def stNotable : Nat := 3
/-- NOTOWNER -/
def stNotowner : Nat := 4
/-- STATE -/
def stState : Nat := 5
/-- RANGE -/
def stRange : Nat := 6
/-- HELD -/
def stHeld : Nat := 7
/-- UNMAPPED -/
def stUnmapped : Nat := 8

/-- A purse can pay: its balance does not fall below 0, and CAPPED does not hold it (R110, R356). -/
def Purse.canPay (q : Purse) (n : Nat) : Bool := 0 ≤ q.bal - n && !q.capped

/-- A debit. -/
def State.debit (s : State) (p j n : Nat) : State :=
  let q := s.purse p j
  s.setPurse p j { q with bal := q.bal - n }

/-- The effect of `RENT` at the controller (R113): status and id. -/
def State.rent (s : State) (p j core tier base len n : Nat) (sync : Bool) : State × Nat × Nat :=
  match rentRanges s p j core tier base len sync with
  | none => (s, stUnmapped, 0)
  | some rs =>
    if s.taken rs then (s, stTaken, 0)
    else
      match s.freeSlot (ctrlFor tier core) with
      | none => (s, stNotable, 0)
      | some id =>
        let cost := charge s p len tier n
        if !(s.purse p j).canPay cost then (s, stNofunds, 0)
        else
          let l : Lease := ⟨.open_, false, sync, tier, false, false, p, j, base, len, s.tick + n, 0, 0, n, 0, 0, 0, false, core, rs⟩
          ((s.debit p j cost).setLease id l, stOk, id)

/-- The subleases of a lease. -/
def State.sublets (s : State) (id : Nat) : List (Nat × Lease) := s.leases.filter (fun e => e.2.parent == id && id != 0)

/-- `Renew` of R114: the status. -/
def State.renew (s : State) (p j id n : Nat) : State × Nat :=
  match s.lease id with
  | none => (s, stNotowner)
  | some l =>
    if l.part != p || l.job != j then (s, stNotowner)
    else if l.state == .reclaimed || l.state == .vacated || l.vacating then (s, stState)
    else
      let start := if l.state == .open_ && s.tick < l.paid then l.paid else s.tick
      let cost := charge s p l.len l.tier n
      let par := s.lease l.parent
      if l.parent != 0 && start + n > (par.map (·.paid)).getD 0 then (s, stRange)
      else if !(s.purse p j).canPay cost then (s, stNofunds)
      else
        let s := s.debit p j cost
        let s := match par with
          | some q => if l.parent != 0 then s.credit q.part q.job cost else s
          | none => s
        (s.setLease id { l with paid := start + n, state := .open_, arrears := false }, stOk)

/-- `PREPAY` at the controller (R115). -/
def State.prepay (s : State) (p j id : Nat) (n : Int) (step : Nat) : State × Nat :=
  match s.lease id with
  | none => (s, stNotowner)
  | some l =>
    if l.part != p || l.job != j then (s, stNotowner)
    else if l.state != .open_ || l.paid ≤ s.tick || l.vacating || l.parent != 0 then (s, stState)
    else
      let l := if step != 0 then { l with step := step } else l
      if 0 ≤ n then
        if !(s.purse p j).canPay n.toNat && n != 0 then (s, stNofunds)
        else ((s.debit p j n.toNat).setLease id { l with escrow := l.escrow + n.toNat }, stOk)
      else
        let back := min l.escrow (-n).toNat
        ((s.credit p j back).setLease id { l with escrow := l.escrow - back }, stOk)

/-- The part of a lease's ranges from a byte offset on, of a length. -/
def sliceRanges : List (Nat × Nat) → Nat → Nat → List (Nat × Nat)
  | [], _, _ => []
  | (k, n) :: rs, off, len =>
    if len = 0 then []
    else if off ≥ n then sliceRanges rs (off - n) len
    else
      let m := min len (n - off)
      (k + off, m) :: sliceRanges rs 0 (len - m)

/-- `SUBLET` at the controller (R116): status and id. -/
def State.sublet (s : State) (p j id off len who till : Nat) : State × Nat × Nat :=
  match s.lease id with
  | none => (s, stNotowner, 0)
  | some l =>
    if l.part != p || l.job != j || who ≥ 1024 || !(s.job p who).valid then (s, stNotowner, 0)
    else if l.state != .open_ || l.vacating || l.parent != 0 then (s, stState, 0)
    else if off + len > l.len || till ≤ s.tick || till > l.paid then (s, stRange, 0)
    else
      match s.freeSlot (ctrlOf id) with
      | none => (s, stNotable, 0)
      | some nid =>
        let cost := charge s p len l.tier (till - s.tick)
        if !(s.purse p who).canPay cost then (s, stNofunds, 0)
        else
          let sub : Lease := { l with
            state := .open_, arrears := false, sync := false, part := p, job := who, base := l.base + off, len := len,
            paid := till, lapseAt := 0, parent := id, step := 0, escrow := 0, holds := 0, waiters := 0, rdue := false,
            ranges := sliceRanges l.ranges off len }
          (((s.debit p who cost).credit p j cost).setLease nid sub, stOk, nid)

/-! ## Ending a lease -/

/-- Ticks that a scrub takes at most (R360). -/
def scrubTicks (tier len : Nat) : Nat := if tier ≤ 1 then 1 else ceilDiv len (2 ^ 30) + 1

/-- The reclaim of a region empties the offcut queue that lies in it (R158, R359). -/
def State.loseOffcut (s : State) (l : Lease) : State :=
  let c := s.core l.core
  if l.tier == 1 && !l.stowed && c.seat.unit.isSome && s.jobOf l.core == (l.part, l.job) &&
      overlaps l.ranges (keySpm l.core c.csr.offcutb.toNat) 32768 then s.emptyOffcut l.core
  else s

/-- A lease becomes RECLAIMED or VACATED (R357): its escrow returns; a lease that is no sublease is scrubbed before its slot is freed (R360), a sublease or a stowed lease frees its slot at once. -/
def State.endLease (s : State) (id : Nat) (st : LeaseState) : State :=
  match s.lease id with
  | none => s
  | some l =>
    let s := s.keeperEnd id
    let s : State := if st = .reclaimed then s.loseOffcut l else s
    let s : State := if l.escrow = 0 then s else s.credit l.part l.job l.escrow
    if l.parent != 0 || l.stowed then
      let s : State := { s with saves := s.saves.map (fun v : Saved => { v with
        stowed := v.stowed.filter (· != id)
        lost := if st == .reclaimed && v.stowed.contains id then v.lost ++ [id] else v.lost }) }
      -- increments held for it are dropped (R359)
      let dropped := s.heldIncs.filter (fun h => h.lease == id)
      let s := dropped.foldl (fun s _ => s.eventJob l.part l.job { Report.of .objDrop with lease := id }) s
      { s with heldIncs := s.heldIncs.filter (fun h => h.lease != id), leases := spDel s.leases id }
    else
      let due := s.tick + scrubTicks l.tier l.len
      let s : State := s.setLease id { l with state := st, vacating := false, escrow := 0, arrears := false, rdue := false }
      State.atTick { s with scrubs := s.scrubs ++ [⟨id, l.ranges, due⟩] } due (.scrubComplete id)

/-- A save-area lease becomes VACATED: its slot is cleared, and its translations are removed (R317). -/
def State.clearSlot (s : State) (id : Nat) : State :=
  match s.saves.find? (fun v => v.lease == id) with
  | none => s
  | some v =>
    let lo := (s.job v.part v.job).savewin.toNat + v.slot * 2 ^ 21
    let asid := (s.job v.part v.job).asid
    let stale (h : BitVec 128) : Bool :=
      bits h 126 2 == 2 && bits h 90 16 == asid.toNat && lo ≤ bits h 6 34 * 2 ^ 18 && bits h 6 34 * 2 ^ 18 < lo + 2 ^ 21
    { s with
      saves := s.saves.filter (fun w => w.lease != id)
      cores := s.cores.map (fun e => (e.1, { e.2 with regs := { e.2.regs with
        h := e.2.regs.h.map (fun h => (h.1, if stale h.2 then putBits h.2 125 1 0 else h.2)) } })) }

/-- Subleases of a lease that have not ended. -/
def State.liveSubs (s : State) (id : Nat) : List (Nat × Lease) :=
  (s.sublets id).filter (fun e => e.2.state == .open_ || e.2.state == .lapsed)

/-- Nothing holds a lease or a sublease of it (R353, R357). -/
def State.unheld (s : State) (id : Nat) : Bool :=
  (s.lease id).any (fun l => l.holds == 0) && (s.liveSubs id).all (fun e => e.2.holds == 0)

/-- A `VACATE` is complete: the lease and its subleases are VACATED (R117, R357). -/
def State.vacated (s : State) (id : Nat) : State :=
  let subs := (s.sublets id).map (·.1)
  let s := subs.foldl (fun s i => s.endLease i .vacated) s
  (s.clearSlot id).endLease id .vacated

/-- A lease is to become VACATED (R117, R357): at once, or when its holds and those of its subleases end; until then it and they are VACATING, and a sublease that nothing holds ends first. -/
def State.endByVacate (s : State) (id : Nat) : State :=
  if s.unheld id then s.vacated id
  else
    let subs := s.liveSubs id
    let s := (id :: subs.map (·.1)).foldl (fun (s : State) i => s.modLease i (fun l => { l with vacating := true })) s
    (subs.filter (fun e => e.2.holds == 0)).foldl (fun s e => s.endLease e.1 .vacated) s

/-- `VACATE` at the controller (R117): the status; with holds it is left VACATING. -/
def State.vacate (s : State) (p j id : Nat) : State × Nat :=
  match s.lease id with
  | none => (s, stNotowner)
  | some l =>
    if l.part != p || l.job != j then (s, stNotowner)
    else if l.state == .reclaimed || l.state == .vacated || l.vacating then (s, stState)
    else if (s.sublets id).any (fun e => e.2.state == .open_) then (s, stHeld)
    else if l.sync && l.waiters > 0 then (s, stHeld)
    else if s.saves.any (fun v => v.lease == id && !v.cancelled) then (s, stHeld)
    else (s.endByVacate id, stOk)

/-- The controller ends a lease of its own accord: a unit's image region at HALT, PART_SHRINK, JOB_RETIRE. -/
def State.vacateNow (s : State) (id : Nat) : State :=
  match s.lease id with
  | none => s
  | some l =>
    if l.state == .reclaimed || l.state == .vacated || l.vacating then s
    else s.endByVacate id

/-- `Lapse(L, T)` (R354): the lease and its open subleases. -/
def State.lapse (s : State) (id : Nat) : State :=
  let low (s : State) (i : Nat) : State :=
    let s : State := if (s.lease i).any (fun l => l.state == .open_) then s.keeperLapse i else s
    s.modLease i (fun l => if l.state == .open_ then { l with state := .lapsed, lapseAt := s.tick, arrears := false } else l)
  (id :: (s.sublets id).map (·.1)).foldl low s

/-- `Reclaim` of one lease (R354): its event goes to the job that holds it. -/
def State.reclaimOne (s : State) (id : Nat) : State :=
  match s.lease id with
  | none => s
  | some l => (s.endLease id .reclaimed).eventJob l.part l.job { Report.of .reclaim with lease := id }

/-- `Reclaim(L)` (R354): the lease and its subleases. -/
def State.reclaim (s : State) (id : Nat) : State :=
  (((s.liveSubs id).map (·.1)).foldl (fun (s : State) i => s.reclaimOne i) s).reclaimOne id

/-- A lapsed lease is due for reclaim (R354). -/
def State.reclaimDue (s : State) (id : Nat) : Bool :=
  match s.lease id with
  | none => false
  | some l =>
    l.state == .lapsed && !l.vacating && (l.rdue || l.lapseAt + (s.part l.part).grace.toNat ≤ s.tick) &&
      l.holds == 0 && (s.sublets id).all (fun e => e.2.holds == 0)

/-- `Overdraft(L, c)` (R355), for a lease id or, where `id` is 0, a seat. -/
def State.bill (s : State) (p j id c : Nat) : State :=
  let q := s.purse p j
  let t := min c (max 0 (q.bal + q.cap)).toNat
  let q' := { q with bal := q.bal - t, burning := q.burning + c }
  if t < c then
    let s := s.setPurse p j { q' with unpaid := q'.unpaid + (c - t), capped := true }
    let s := if q.capped then s else s.eventJob p j { Report.of .purseCap with lease := id }
    s.modLease id (fun l => if l.state == .lapsed then { l with rdue := true } else l)
  else s.setPurse p j q'

/-- A scrub is complete (R360): the bytes are zero, their poison is clear, the slot is free. -/
def State.scrubbed (s : State) (id : Nat) : State :=
  match s.scrubs.find? (fun c => c.id == id) with
  | none => s
  | some c =>
    let inside (k : Nat) : Bool := overlaps c.ranges k 1
    { s with
      mem := s.mem.filter (fun e => !inside e.1)
      poison := s.poison.filter (fun g => !inside (g * 64))
      stores := s.stores.filter (fun p => !inside p.key)
      scrubs := s.scrubs.filter (fun d => d.id != id)
      leases := spDel s.leases id }

end Sys2Proof.Machine
end

