-- ==== Sys2Proof/Machine/Copy.lean ====
section
/-! DEFINITION. The words of X: what each checks at issue, and the command it makes (R190 to R211). -/

namespace Sys2Proof.Machine

/-- A word of X (R190): tokens; then its body. -/
def xWord (s : State) (body : Core → Out) : Out :=
  let c := s.core s.cur.core
  if !c.hasTokens .x s.cur.frame.wait then .next (s.holdAt s.cur.core .x .tokens) else body c

/-- It is a command (R190), not a word without one that waits for room to push its tokens. -/
def XCmd.isCommand (x : XCmd) : Bool :=
  match x.instr with
  | .xnop => false
  | _ => true

/-- A core's X commands. -/
def Core.xcmds (c : Core) : List XCmd := c.copy.cmds.filter XCmd.isCommand

/-- Each dowel that a SIGNAL clause of X names has room (R306, R307). -/
def Core.xRoom (c : Core) (sg : BitVec 4) : Bool := (signalled sg).all (fun q => c.dowelN .x q < 16)

/-- What an X command is made of at issue: record images, object, values read, or the fault of an issue check. -/
structure XReq where
  ra : BitVec 256
  rb : BitVec 256
  rx : BitVec 256
  obj : W64
  ob : Bool
  data : List Nat
  deriving DecidableEq, Repr, Inhabited

/-- The command that the word under the cursor makes. -/
def mkXCmd (s : State) (c : Core) (i : Instr) (q : XReq) : XCmd :=
  ⟨c.nextId, s.cur.word, i, BitVec.ofNat 17 s.cur.pc, if s.cur.packed then s.cur.codePos else 0, s.cur.frame.signal,
   q.ra, q.rb, q.rx, q.obj, q.ob, c.csr.srkey, 0, 0, [], 0, none, false, q.data, 0, none, false, false, false, false, false,
   0, 0, (match i with
     | .xsig .. | .xsigF .. => []
     | _ => s.joinOf (c.seat.unit.getD (0, 0)).1), false, [], []⟩

/-- The X stream passes the word under the cursor; `occ`: ac until the next word may issue. `push`: the word retires; with a full dowel its tokens wait for room (R307; log 104). -/
def State.xPass (s : State) (occ : Nat) (push : Bool) : State :=
  let cur := s.cur
  s.modCore cur.core (fun c =>
    let c := c.pop .x cur.frame.wait
    let c :=
      if !push then c
      else if c.xRoom cur.frame.signal then c.push .x cur.frame.signal
      else { c with copy := { c.copy with cmds := c.copy.cmds ++ [mkXCmd s c .xnop ⟨0, 0, 0, 0, false, []⟩] }, nextId := c.nextId + 1 }
    c.modStream .x (fun st => { st.next cur true none with nextAc := s.acOf cur.core + occ, wait := .idle, heldFrom := none, broken := none }))

/-- A new command is issued (R190): accepted 8 ac later. -/
def State.xIssue (s : State) (c : Core) (x : XCmd) : State :=
  let core := s.cur.core
  let s := s.setCore core { c with
    nextId := c.nextId + 1
    copy := { c.copy with issuing := some x, log := c.copy.log ++ [(s.cur.word, x, false)] } }
  (s.xPass 8 false).after core 8 (.xAccept core)

/-- A command word (R190), matched with the abandoned attempt after a rollback (R372). `make`: the issue checks. -/
def xCommand (s : State) (i : Instr) (make : Core → Except Report XReq) : Out :=
  xWord s (fun c =>
    if c.xcmds.length ≥ 16 then .next (s.holdAt s.cur.core .x .commands)
    else
      match make c with
      | .error r => .next (s.faultHere r)
      | .ok q =>
        match c.copy.replay with
        | (w, old, done) :: rest =>
          let c := { c with copy := { c.copy with replay := rest } }
          if w != s.cur.word then .next (s.xIssue c (mkXCmd s c i q))
          else if done && !old.poison then
            let c := { c with copy := { c.copy with log := c.copy.log ++ [(w, old, true)] } }
            .next ((s.setCore s.cur.core c).xPass 1 true)
          else if done then
            .next (s.xIssue c { old.anew c.nextId with signal := s.cur.frame.signal })
          else
            let back (x : XCmd) : XCmd := if x.id = old.id then { x with signal := s.cur.frame.signal, parked := none, raised := false } else x
            let c := { c with copy := { c.copy with cmds := c.copy.cmds.map back, log := c.copy.log ++ [(w, old, false)] } }
            .next ((s.setCore s.cur.core c).xPass 8 false)
        | [] => .next (s.xIssue c (mkXCmd s c i q)))

/-- A fault of an issue check through record `n`. -/
def xFault (c : Cause) (n : Nat) : Report := { Report.of c with trec := n }

/-- The object of a command (R205): checked at issue where OB is set. -/
def xObject (s : State) (c : Core) (ob : Bool) (o : BitVec 5) : Except Report W64 :=
  if !ob then .ok 0
  else
    let img := c.O o.toNat
    let pj := s.jobOf s.cur.core
    if bits img 62 2 = 0 || bits img 62 2 = 3 then .error (.of .objEmpty)
    else match objHome s s.cur.core img with
      | some k => if objectOpen s pj.1 pj.2 k then .ok img else .error (.of .objLease)
      | none => .error (.of .objLease)

/-- A record of a command, checked (R192). -/
def xRec (c : Core) (n : Nat) (dest atom : Bool) : Except Report (BitVec 256) :=
  let t := c.T n
  match xCheck t dest atom with
  | some e => .error (xFault e n)
  | none => .ok t

/-- The two records of a transfer, checked (R192). -/
def xTwo (c : Core) (ta tb : BitVec 6) : Except Report (BitVec 256 × BitVec 256) := do
  let a ← xRec c ta.toNat true false
  let b ← xRec c tb.toNat false false
  pure (a, b)

/-- A record of a command that reads SPM at issue through it: one row of `n` bytes or more in SPM (`exact`: of `n`); a breach is `RECORD`. -/
def xBlock (c : Core) (r n : Nat) (exact : Bool) : Except Report (BitVec 256) := do
  let t := c.T r
  if tBkind t != 0 || (if exact then tExtent t != n else tExtent t < n) then throw (xFault .record r)
  xRec c r false false

/-- The bytes of a record in SPM that a command reads at issue, as one number; those beyond SPM read as zero (R192). -/
def xRead (s : State) (t : BitVec 256) (n : Nat) : Nat :=
  ofBytes ((xSpans t 0 n).flatMap (fun p => (List.range p.2).map (fun (i : Nat) =>
    let a := p.1 + (i : Int)
    if 0 ≤ a && a < 0x100000 then memByte s.mem (keySpm s.cur.core a.toNat) else 0)))

/-- Elements of a record. -/
def xElems (t : BitVec 256) : Nat := tExtent t * 8 / contBits (tFmt t)

/-- The RECORD conditions of `XCOPY` (R199). -/
def xcopyOk (a b : BitVec 256) (mode : Nat) (nonsat : Bool) : Bool :=
  let fa := tFmt a
  let fb := tFmt b
  if fa = fb then tExtent a == tExtent b && mode == 0 && !nonsat
  else
    let n := xElems b
    tExtent a == n * contBits fa / 8 &&
    (!isBlock fa || tBkind a == 0) && (!isBlock fb || tBkind b == 0) &&
    (!nonsat || (0x03 ≤ fa && fa ≤ 0x07) || isBlock fa)

/-- `XCOPY` (R199). -/
def execXcopy (ta tb : BitVec 6) (o : BitVec 5) (nonsat : BitVec 1) (mode : BitVec 3) (ob : BitVec 1) (s : State) : Out :=
  xCommand s (.xcopy ta tb o nonsat mode ob) (fun c => do
    let (a, b) ← xTwo c ta tb
    if !xcopyOk a b mode.toNat (nonsat == 1) then throw (xFault .record ta.toNat)
    let obj ← xObject s c (ob == 1) o
    pure ⟨a, b, 0, obj, ob == 1, []⟩)

/-- The RECORD conditions on the formats of a reduce (R200). -/
def xredOk (a b : BitVec 256) (r : Nat) : Bool :=
  xElems a == xElems b && (if r = 3 then tFmt a == 0 && tFmt b == 0 else tFmt a ≤ 2 && !isBlock (tFmt b))

/-- `XRED` (R200). -/
def execXred (ta tb : BitVec 6) (o : BitVec 5) (r : BitVec 2) (ob : BitVec 1) (s : State) : Out :=
  xCommand s (.xred ta tb o r ob) (fun c => do
    let (a, b) ← xTwo c ta tb
    if !xredOk a b r.toNat then throw (xFault .record ta.toNat)
    let obj ← xObject s c (ob == 1) o
    pure ⟨a, b, 0, obj, ob == 1, []⟩)

/-- A dense SPM record (R201, R202, R208). DEDUCED: R192 aligns its BASE and STRIDE1, but its entries may be narrower than 8 bytes, and so its length (log 22). -/
def xDense (c : Core) (n : Nat) : Except Report (BitVec 256) := do
  let t := c.T n
  let bad := xCheck t false true
  if tBkind t != 0 || tStride2 t != 0 || bad == some .record then throw (xFault .record n)
  if tBase t % 8 != 0 || tStride1 t % 8 != 0 then throw (xFault .align n)
  match bad with
  | some e => throw (xFault e n)
  | none => pure t

/-- `XGATH` and `XSCAT` (R201): the index record, and that `rows` gives K rows. -/
def xIndexed (s : State) (i : Instr) (ta tb : BitVec 6) (o tx : BitVec 5) (ob : BitVec 1) (gather : Bool) : Out :=
  xCommand s i (fun c => do
    let (a, b) ← xTwo c ta tb
    let x ← xDense c tx.toNat
    if tExtent x % 4 != 0 || tFmt a != tFmt b || xRlen a != xRlen b || (if gather then xRows a else xRows b) != tExtent x / 4 then
      throw (xFault .record tx.toNat)
    let obj ← xObject s c (ob == 1) o
    pure ⟨a, b, x, obj, ob == 1, []⟩)

/-- `XGATH` (R201). -/
def execXgath (ta tb : BitVec 6) (o tx : BitVec 5) (ob : BitVec 1) (s : State) : Out :=
  xIndexed s (.xgath ta tb o tx ob) ta tb o tx ob true

/-- `XSCAT` (R201). -/
def execXscat (ta tb : BitVec 6) (o tx : BitVec 5) (ob : BitVec 1) (s : State) : Out :=
  xIndexed s (.xscat ta tb o tx ob) ta tb o tx ob false

/-- The chip list that X reads at issue (R202). -/
def chipList (s : State) (c : Core) (n : Nat) : Except Report (BitVec 256 × List Nat) := do
  let t ← xDense c n
  let k := tExtent t / 2
  let v := xRead s t (2 * k)
  let es := (upto 0 k).map (fun i => fldN v (16 * i) 16)
  if tExtent t % 2 != 0 || k > 1024 || es.any (fun e => e ≥ 4096) then throw (xFault .record n)
  pure (t, es)

/-- `XMCAST` (R202): byte for byte, as a copy whose FMT fields are equal. -/
def execXmcast (ta tb : BitVec 6) (o tx : BitVec 5) (ob : BitVec 1) (s : State) : Out :=
  xCommand s (.xmcast ta tb o tx ob) (fun c => do
    let (a, b) ← xTwo c ta tb
    if tBkind a != 2 || tExtent a != tExtent b || tFmt a != tFmt b then throw (xFault .record ta.toNat)
    let (x, l) ← chipList s c tx.toNat
    let obj ← xObject s c (ob == 1) o
    pure ⟨a, b, x, obj, ob == 1, l⟩)

/-- `XRLOAD` (R202). -/
def execXrload (ta tb : BitVec 6) (o tx : BitVec 5) (ob : BitVec 1) (r : BitVec 2) (s : State) : Out :=
  xCommand s (.xrload ta tb o tx ob r) (fun c => do
    let (a, b) ← xTwo c ta tb
    if tBkind b != 2 || !xredOk a b r.toNat then throw (xFault .record tb.toNat)
    let (x, l) ← chipList s c tx.toNat
    let obj ← xObject s c (ob == 1) o
    pure ⟨a, b, x, obj, ob == 1, l⟩)

/-- `XATOM` (R203). -/
def execXatom (ta tb : BitVec 6) (op : BitVec 5) (sz : BitVec 1) (s : State) : Out :=
  xCommand s (.xatom ta tb op sz) (fun c => do
    let n := if sz = 1 then 8 else 4
    if tBkind (c.T ta.toNat) < 2 || tExtent (c.T ta.toNat) != n then throw (xFault .record ta.toNat)
    let a ← xRec c ta.toNat true true
    if tBase a % 2 ^ 47 % n != 0 then throw (xFault .align ta.toNat)
    if tBkind (c.T tb.toNat) != 0 || tExtent (c.T tb.toNat) < 24 then throw (xFault .record tb.toNat)
    let b ← xRec c tb.toNat false true
    if tBase b % 8 != 0 then throw (xFault .align tb.toNat)
    pure ⟨a, b, 0, 0, false, []⟩)

/-- `XSIG` (R206). -/
def execXsig (o : BitVec 5) (n : BitVec 18) (s : State) : Out :=
  xCommand s (.xsig o n) (fun c => do
    let obj ← xObject s c true o
    pure ⟨0, 0, 0, obj, true, [n.toNat]⟩)

/-- `XSIG.F` (R206). -/
def execXsigF (o : BitVec 5) (n : BitVec 18) (s : State) : Out :=
  xCommand s (.xsigF o n) (fun c => do
    let obj ← xObject s c true o
    pure ⟨0, 0, 0, obj, true, [n.toNat]⟩)

/-- `XDECL` (R207). -/
def execXdecl (ta tb : BitVec 6) (s : State) : Out :=
  xCommand s (.xdecl ta tb) (fun c => do
    let (a, b) ← xTwo c ta tb
    pure ⟨a, b, 0, 0, false, []⟩)

/-- An entry keeps the table of R208. -/
def prefOk (v : Nat) : Bool :=
  let e := prefEntry v
  e.src % 64 == 0 && e.dst % 64 == 0 && (e.dkind == 1 || e.dkind == 2) && e.len != 0 && e.len % 64 == 0 && fldN v 0 88 == 0 &&
    (e.dkind == 2 || e.dst + e.len ≤ 0x100000)

/-- `XPREF` (R208): the list is read at issue, and the object of each entry is checked (R205). -/
def execXpref (ta : BitVec 6) (s : State) : Out :=
  xCommand s (.xpref ta) (fun c => do
    let a ← xDense c ta.toNat
    let n := tExtent a / 32
    let v := xRead s a (32 * n)
    let es := (upto 0 n).map (fun i => fldN v (256 * i) 256)
    if tExtent a % 32 != 0 || !es.all prefOk then throw (xFault .record ta.toNat)
    let es ← es.mapM (fun e => do
      let img ← xObject s c (prefEntry e).ob (BitVec.ofNat 5 (prefEntry e).slot)
      pure (e + img.toNat * 2 ^ 256))
    pure ⟨a, 0, 0, 0, false, es⟩)

/-- Field `[lo+n-1 : lo]` of a collective record. -/
def cf (r : BitVec 1024) (lo n : Nat) : Nat := bits r lo n

/-- An element format fits a collective operation (R262). -/
def collFmtOk (op fmt : Nat) : Bool :=
  match op with
  | 0 => fmt < 0x14
  | 4 => fmt == 0
  | _ => fmt ≤ 2

/-- The conditions of R268 on a record of `die`, with its peer table. -/
def collOk (r : BitVec 1024) (peers : List Nat) (die chip : Nat) : Bool :=
  let op := cf r 987 3
  let dies := cf r 956 4
  let bytes := (cf r 926 16 + 1) * 64
  cf r 1016 8 == 0 && cf r 416 302 == 0 && op ≤ 4 && collFmtOk op (cf r 982 5) &&
    cf r 960 10 ≤ cf r 970 10 && peers.all (fun p => p < 4096) && peers.getD (cf r 960 10) 4096 == chip &&
    dies.testBit die && !(op == 0 && popcount dies 4 > 1) && cf r 770 3 == 0 &&
    bytes * 8 % contBits (cf r 982 5) == 0

/-- The collective record at an offset of a core's SPM, and its peer table, as they stand now (R262, R264). -/
def collRead (s : State) (core base : Nat) : BitVec 1024 × List Nat :=
  let r := BitVec.ofNat 1024 (s.readNat (keySpm core base) 128)
  let at_ (i : Nat) : Nat := let a := cf r 750 20 + 2 * i; if a + 2 ≤ 0x100000 then s.readNat (keySpm core a) 2 else 0
  (r, (upto 0 (cf r 970 10 + 1)).map at_)

/-- `XCOLL` (R210, R268): the record and its peer table are checked at issue. -/
def execXcoll (ta : BitVec 6) (o : BitVec 5) (ob : BitVec 1) (s : State) : Out :=
  xCommand s (.xcoll ta o ob) (fun c => do
    let core := s.cur.core
    let a ← xBlock c ta.toNat 128 false
    if tBase a % 64 != 0 then throw (xFault .align ta.toNat)
    if tBase a + 128 > 0x100000 then throw (xFault .bounds ta.toNat)
    let (r, peers) := collRead s core (tBase a)
    let tab := cf r 750 20
    if tab % 64 != 0 || tab + 2 * peers.length > 0x100000 || !collOk r peers (dieOf core) Config.chip then throw (xFault .record ta.toNat)
    let obj ← xObject s c (ob == 1) o
    pure ⟨a, 0, 0, obj, ob == 1, r.toNat :: peers⟩)

/-- KIND of a keeper header (R281). -/
def khKind (h : Nat) : Nat := fldN h 252 4

/-- `XKSEND` (R211, R281): the header is read at issue. -/
def execXksend (ta tb : BitVec 6) (n : BitVec 12) (s : State) : Out :=
  xCommand s (.xksend ta tb n) (fun c => do
    let a ← xBlock c ta.toNat 32 true
    let b := c.T tb.toNat
    let cnt := n.toNat + 1
    let h := xRead s a 32
    let kind := khKind h
    let fmt := if kind = 0 then fldN h 173 5 else 0
    if kind > 5 || (kind != 0 && cnt != 1) || tBkind b != 0 || tFmt b != fmt ||
        tExtent b < cnt * 1024 * contBits fmt / 8 then throw (xFault .record tb.toNat)
    let b ← xRec c tb.toNat false false
    pure ⟨a, b, 0, 0, false, [h]⟩)

/-- `XKFETCH` (R211, R290): the request is read at issue. -/
def execXkfetch (ta tb : BitVec 6) (o : BitVec 5) (ob : BitVec 1) (n : BitVec 12) (s : State) : Out :=
  xCommand s (.xkfetch ta tb o ob n) (fun c => do
    let a ← xRec c ta.toNat true false
    let b ← xBlock c tb.toNat 16 true
    let obj ← xObject s c (ob == 1) o
    pure ⟨a, b, 0, obj, ob == 1, [xRead s b 16]⟩)

/-- `XKPARAM` (R211, R286): the 144-byte record is read at issue. -/
def execXkparam (tb : BitVec 6) (p : BitVec 4) (s : State) : Out :=
  xCommand s (.xkparam tb p) (fun c => do
    let b ← xBlock c tb.toNat 144 true
    pure ⟨0, b, 0, 0, false, [xRead s b 144, ((xSpans b 0 144).any (fun p => s.poisoned (keySpm s.cur.core p.1.toNat) p.2)).toNat]⟩)

/-- `XINV` (R209): privileged. -/
def execXinv (ta : BitVec 6) (asid : BitVec 16) (s : State) : Out :=
  xCommand s (.xinv ta asid) (fun c => do
    let pj := s.jobOf s.cur.core
    if (s.job pj.1 pj.2).asid != asid || s.jobSuper pj.1 pj.2 != some s.cur.core then throw (.of .priv)
    if tBkind (c.T ta.toNat) != 2 then throw (xFault .record ta.toNat)
    let a ← xRec c ta.toNat false false
    pure ⟨a, 0, 0, 0, false, []⟩)

/-- `XNOP` (R190). -/
def execXnop (s : State) : Out := xWord s (fun _ => .next (s.xPass 1 true))

/-- X's issue has been held by an `XDRAIN`, and no command is left (R206). -/
def State.drained (s : State) (core : Nat) : State :=
  match s.resume core .x .xdrain with
  | some (s', _) => if (s.core core).xcmds.isEmpty && !(s.core core).paused then s'.xPass 0 true else s
  | none => s

/-- `XDRAIN` (R206): issue is held until every command accepted before it has retired; it retires 1 ac after. -/
def execXdrain (s : State) : Out :=
  xWord s (fun c =>
    let core := s.cur.core
    let t := s.park .xdrain .xdrain 0 0
    .next (if c.xcmds.isEmpty then t.after core 1 (.instructionRetire core .x 0) else t))

/-- `XWAIT` (R206): holds X's issue until its object is at least `v`. -/
def execXwait (o : BitVec 5) (v : BitVec 18) (s : State) : Out :=
  xWord s (fun c =>
    match xObject s c true o with
    | .error r => .next (s.faultHere r)
    | .ok img =>
      let core := s.cur.core
      let k := (objHome s core img).getD 0
      let pj := s.jobOf core
      let s := match c.ctl.countedX with
        | some k => s.waiter pj.1 pj.2 k false
        | none => s
      let s := (s.park .xwait (.xwait o v) k v.toNat).waiter pj.1 pj.2 k true
      let s := s.modCore core (fun c => { c with ctl := { c.ctl with countedX := some k } })
      .next (if v.toNat ≤ s.homeNat k 8 then s.after core 4 (.xwaitEnd core) else s))

/-- XWAIT_END (R206): the object is reached, or the wait was cancelled. -/
def execXwaitEnd (core : Nat) (s : State) : Out :=
  match s.resume core .x .xwait with
  | none => .next s
  | some (s', _) =>
    let w := (s.core core).x.wait
    let pj := s.jobOf core
    if (s.core core).paused || (!w.cancelled && s.homeNat w.obj 8 < w.goal) then .next s
    else
      let s := s'.waiter pj.1 pj.2 w.obj false
      let join := if w.cancelled then [] else spGet [] s.joins w.obj
      let s := s.modCore core (fun c => { c with
        ctl := { c.ctl with countedX := none }
        seat := { c.seat with joined := (c.seat.joined ++ join).eraseDups } })
      .next (s.xPass 1 true)

end Sys2Proof.Machine
end

