-- ==== Sys2Proof/Machine/Lease.lean ====
section
/-! DEFINITION. The lease and translation instructions of C (R107 to R122). -/

namespace Sys2Proof.Machine

/-- The result word of R109. -/
def resultWord (status id : Nat) : W64 := BitVec.ofNat 64 (status * 2 ^ 16 + id % 2 ^ 16)

/-- A lease instruction goes to controller `ctrl` (R112): its own die's answers 20 ac after issue, another at least 20 ac and at most 1 tick after; the wall time by which it answers stands in the wait. -/
def toController (s : State) (ctrl : Nat) (i : Instr) : Body :=
  let core := s.cur.core
  if ctrl = dieOf core then .wait ((s.park .lease i 0 0).after core 20 (.leaseAck core))
  else .wait (s.park .lease i 0 ((s.die (dieOf core)).time + tickParts))

/-- `RENT` (R113). -/
def execRent (d a b c : BitVec 5) (tier : BitVec 3) (sync : BitVec 1) (s : State) : Out :=
  cOp s (fun k =>
    let base := (k.S a.toNat).toNat
    let len := (k.S b.toNat).toNat
    let n := (k.S c.toNat).toNat
    let u := leaseUnit tier.toNat
    let fits := if tier.toNat ≤ 1 then base + len ≤ tierSize (1 - tier.toNat) else true
    if base % u != 0 || len % u != 0 || len < 64 || !fits || n = 0 || n ≥ 2 ^ 32 then .cause .leaseArg
    else toController s (ctrlFor tier.toNat s.cur.core) (.rent d a b c tier sync))

/-- `RENEW` (R114). -/
def execRenew (d a b : BitVec 5) (s : State) : Out :=
  cOp s (fun k =>
    let n := (k.S b.toNat).toNat
    if n = 0 || n ≥ 2 ^ 32 then .cause .leaseArg
    else toController s (ctrlOf (k.S a.toNat).toNat) (.renew d a b))

/-- `PREPAY` (R115). -/
def execPrepay (d a b c : BitVec 5) (s : State) : Out :=
  cOp s (fun k =>
    if (k.S c.toNat).toNat ≥ 2 ^ 32 then .cause .leaseArg
    else toController s (ctrlOf (k.S a.toNat).toNat) (.prepay d a b c))

/-- `SUBLET` (R116): the offset and the length are multiples of the parent's leasing unit. -/
def execSublet (d a b c : BitVec 5) (s : State) : Out :=
  cOp s (fun k =>
    let off := (k.S b.toNat).toNat
    let len := (k.S (b.toNat + 1)).toNat
    let u := ((s.lease (k.S a.toNat).toNat).map (fun l => leaseUnit l.tier)).getD 1
    if len = 0 || off % u != 0 || len % u != 0 then .cause .leaseArg
    else toController s (ctrlOf (k.S a.toNat).toNat) (.sublet d a b c))

/-- `VACATE` (R117). -/
def execVacate (d a : BitVec 5) (s : State) : Out :=
  cOp s (fun k => toController s (ctrlOf (k.S a.toNat).toNat) (.vacate d a))

/-- A field of a lease (R118). -/
def leaseField (l : Lease) (f : Nat) : Nat :=
  let st := match l.state with
    | .open_ => 0
    | .lapsed => 1
    | .reclaimed => 2
    | .vacated => 3
  match f with
  | 0 => st + l.arrears.toNat * 4 + l.sync.toNat * 8 + l.tier * 16
  | 1 => l.paid
  | 2 => l.escrow
  | 3 => l.step
  | 4 => l.base
  | 5 => l.len
  | 6 => l.parent
  | _ => l.job

/-- What `LEASEQ` reads (R118): all ones where the lease is not the job's or its slot is free. -/
def leaseRead (s : State) (p j id f : Nat) : W64 :=
  match s.lease id with
  | some l => if l.part = p && l.job = j then BitVec.ofNat 64 (leaseField l f) else BitVec.allOnes 64
  | none => BitVec.allOnes 64

/-- What `PURSEQ` reads (R119). -/
def purseRead (s : State) (p j tier f : Nat) : W64 :=
  let q := s.purse p j
  match f with
  | 0 => BitVec.ofInt 64 q.bal
  | 1 => BitVec.ofNat 64 q.cap
  | 2 => BitVec.ofNat 64 (s.escrowOf p j)
  | 3 => BitVec.ofNat 64 q.burn
  | _ => BitVec.ofNat 64 (s.rate p tier)

/-- What a controller answers a waiting lease instruction of `core`: the state, the result word, and whether the instruction goes on waiting (R117). -/
def perform (s : State) (core : Nat) (i : Instr) : State × W64 × Bool :=
  let k := s.core core
  let p := (s.jobOf core).1
  let j := (s.jobOf core).2
  let S (n : BitVec 5) : Nat := (k.S n.toNat).toNat
  match i with
  | .rent _ a b c tier sync =>
    let (s, st, id) := s.rent p j core tier.toNat (S a) (S b) (S c) (sync == 1)
    (s, resultWord st id, false)
  | .renew _ a b =>
    let (s, st) := s.renew p j (S a) (S b)
    (s, resultWord st (S a), false)
  | .prepay _ a b c =>
    let (s, st) := s.prepay p j (S a) (k.S b.toNat).toInt (S c)
    (s, resultWord st (S a), false)
  | .sublet _ a b c =>
    let (s, st, id) := s.sublet p j (S a) (S b) (k.S (b.toNat + 1)).toNat (S c) (k.S (c.toNat + 1)).toNat
    (s, resultWord st id, false)
  | .vacate _ a =>
    if ((s.lease (S a)).map (·.vacating)).getD false && k.c.wait.obj = 1 then (s, 0, true)
    else
      let (s, st) := s.vacate p j (S a)
      let waits := st = stOk && ((s.lease (S a)).map (·.vacating)).getD false
      (s, resultWord st (S a), waits)
  | .leaseq _ a f => (s, leaseRead s p j (S a) f.toNat, false)
  | .purseq _ tier f => (s, purseRead s p j tier.toNat f.toNat, false)
  | _ => (s, 0, false)

/-- The destination of a lease instruction. -/
def leaseDest (i : Instr) : Nat :=
  match i with
  | .rent d .. | .renew d .. | .prepay d .. | .sublet d .. | .vacate d .. | .leaseq d .. | .purseq d .. => d.toNat
  | _ => 0

/-- A lease instruction retires with its result (R109, R112). -/
def State.leaseDone (s : State) (core d : Nat) (v : W64) : State :=
  let s := (s.modCore core (fun c => c.setS d v)).finish 1 0 none []
  let s := s.stir core
  if (s.core core).ctl.faults.isEmpty then s else s.soon [.trapEntry core]

/-- LEASE_ACK (R111, R112): the controller performs the instruction, at least 20 ac after its issue. -/
def execLeaseAck (core : Nat) (s : State) : Out :=
  match s.resume core .c .lease with
  | none => .next s
  | some (s', i) =>
    if s.acOf core < (s.core core).c.wait.ac + 20 then .next s
    else
      let (t, v, waits) := perform s' core i
      if waits then .next (t.modCore core (fun c => c.modStream .c (fun st => { st with wait := { st.wait with obj := 1 } })))
      else .next (t.leaseDone core (leaseDest i) v)

/-- VACATE_COMPLETE (R117, R357, R360): the holds of a vacating lease and of its subleases have ended; a waiting `VACATE` retires with OK. A sublease that vacates with its parent ends by itself. -/
def execVacateComplete (lease : Nat) (s : State) : Out :=
  match s.lease lease with
  | none => .next s
  | some l =>
    if !l.vacating || l.holds != 0 then .next s
    else if (s.lease l.parent).any (fun q => l.parent != 0 && q.vacating) then
      .next ((s.endLease lease .vacated).soon [.vacateComplete l.parent])
    else if !s.unheld lease then .next s
    else
      let s := s.vacated lease
      let waiting (e : Nat × Core) : Bool := match e.2.c.wait.held with
        | some (_, .vacate _ a) => e.2.c.wait.kind == .lease && e.2.c.wait.obj == 1 && (e.2.S a.toNat).toNat == lease
        | _ => false
      .next ((s.cores.filter waiting).foldl (fun s e =>
        match s.resume e.1 .c .lease with
        | some (s', i) => s'.leaseDone e.1 (leaseDest i) (resultWord stOk lease)
        | none => s) s)

/-- `LEASEQ` (R112, R118): its controller answers. -/
def execLeaseq (d a : BitVec 5) (f : BitVec 3) (s : State) : Out :=
  cOp s (fun k => toController s (ctrlOf (k.S a.toNat).toNat) (.leaseq d a f))

/-- `PURSEQ` (R112, R119): the purse is held by the controller of the I/O die (R349). -/
def execPurseq (d : BitVec 5) (tier : BitVec 3) (f : BitVec 3) (s : State) : Out :=
  cOp s (fun _ => toController s 4 (.purseq d tier f))

/-! ## Handles (R120 to R122) -/

/-- A handle's fields (R21). -/
def mkHandle (state : Nat) (valid : Bool) (size target chip : Nat) (rd wr sync : Bool) (asid gen frame vpage : Nat) : BitVec 128 :=
  let f (v lo n : Nat) : Nat := v % 2 ^ n * 2 ^ lo
  BitVec.ofNat 128 <|
    [f state 126 2, f valid.toNat 125 1, f size 123 2, f target 121 2, f chip 109 12, f rd.toNat 108 1, f wr.toNat 107 1,
     f sync.toNat 106 1, f asid 90 16, f gen 74 16, f frame 40 34, f vpage 6 34].foldl (· + ·) 0

/-- STATE of a handle -/
def hState (h : BitVec 128) : Nat := bits h 126 2
/-- VALID -/
def hValid (h : BitVec 128) : Bool := bits h 125 1 == 1

/-- `XLAT` (R120): the walk starts; at 24 ac the handle is PENDING, unless the walk has ended. -/
def execXlat (h a : BitVec 5) (p : BitVec 2) (s : State) : Out :=
  cOp s (fun c =>
    if hState (c.H h.toNat) != 0 then .cause .handleBusy
    else
      let pj := s.jobOf s.cur.core
      let va := (c.S a.toNat).toNat
      let rd := p.toNat.testBit 0
      let wr := p.toNat.testBit 1
      let pending := mkHandle 1 true 0 0 0 rd wr false (s.job pj.1 pj.2).asid.toNat 0 0 (va / 2 ^ 18)
      let c := { c with ctl := { c.ctl with walks := c.ctl.walks ++ [(h.toNat, va, rd, wr)] } }
      let c := c.awaitS (32 + h.toNat) (s.acOf s.cur.core + 24) 0
      .done (s.setCore s.cur.core c) 1 24 none [.handle h.toNat pending])

/-- The handle that a walk leaves (R120, R345). -/
def walkResult (s : State) (p j va : Nat) (rd wr : Bool) : BitVec 128 :=
  let asid := (s.job p j).asid
  match walk s p j va rd wr with
  | some l =>
    mkHandle 2 true l.size l.target l.chip l.r l.w l.sy asid.toNat (spGet 0 s.asidGen asid.toNat).toNat l.frame
      (va / pageSize l.size * (pageSize l.size / 2 ^ 18))
  | none => mkHandle 3 true 0 0 0 false false false asid.toNat 0 0 0

/-- The page, first byte and length, whose translation a walk of `va` gives: the leaf's, whole (R347), or where there is none the smallest. -/
def walkPage (s : State) (p j va : Nat) : Nat × Nat :=
  let n := pageSize (((walk s p j va false false).map (·.size)).getD 0)
  (va / n * n, n)

/-- An accepted `XINV` that has not acknowledged covers a byte of the page that holds `va` of the job (R120, R347). -/
def invCovers (s : State) (p j va : Nat) : Bool :=
  let asid := (s.job p j).asid
  let pg := walkPage s p j va
  s.cores.any (fun e => e.2.copy.cmds.any (fun x => match x.instr with
    | .xinv _ a => a == asid && tBase x.ra < pg.1 + pg.2 && pg.1 < tBase x.ra + tExtent x.ra
    | _ => false)) ||
  s.hyperInvs.any (fun v => v.asid == asid && v.base < pg.1 + pg.2 && pg.1 < v.base + v.len)

/-- XLAT_WALK_END (R120): a pending walk ends, 24 ac after issue or later, unless an `XINV` that covers it has not acknowledged. -/
def execXlatWalkEnd (core h : Nat) (s : State) : Out :=
  let c := s.core core
  match c.ctl.walks.find? (fun w => w.1 == h) with
  | none => .next s
  | some (_, va, rd, wr) =>
    let pj := s.jobOf core
    if invCovers s pj.1 pj.2 va || s.acOf core < (spGet (0, 0) c.regs.due (32 + h)).1 then .next s
    else
      let c := c.setH h (walkResult s pj.1 pj.2 va rd wr)
      let s' := s.setCore core { c with ctl := { c.ctl with walks := c.ctl.walks.filter (fun w => w.1 != h) } }
      .next (if strays s pj.1 pj.2 va then s'.xpart pj.1 pj.2 else s')

/-- `HDROP` (R121). -/
def execHdrop (h : BitVec 5) (s : State) : Out :=
  cOp s (fun c =>
    let c := (c.setH h.toNat 0).awaitS (32 + h.toNat) 0 0
    .done (s.setCore s.cur.core { c with ctl := { c.ctl with walks := c.ctl.walks.filter (fun w => w.1 != h.toNat) } }) 1 1 none [])

/-- `HQRY` (R122). -/
def execHqry (d h : BitVec 5) (lo : BitVec 1) (s : State) : Out :=
  cWrite s d.toNat 2 (fun c => BitVec.ofNat 64 (bits (c.H h.toNat) (if lo = 1 then 0 else 64) 64))

end Sys2Proof.Machine
end

