-- ==== Sys2Proof/Machine/CopyRun.lean ====
section
/-! DEFINITION. X commands at work: acceptance, chunks, parking, landing and retirement (R190 to R207). -/

namespace Sys2Proof.Machine

/-! ## Commands of a core -/

/-- The writes of chunk `c` to device memory are plain (R204). -/
def XCmd.plain (x : XCmd) (c : Nat) : Bool :=
  match x.instr with
  | .xcopy .. | .xgath .. | .xscat .. | .xrload .. => !x.ob
  | .xpref _ => ((prefAt (prefOrder x.data) 0 c).map (fun e => !e.2.1.ob)).getD false
  | _ => false

/-- How many chunks a command has (R194): they cut the destination's bytes, and a send has one for each block. -/
def XCmd.chunks (x : XCmd) : Nat :=
  match x.instr with
  | .xcopy .. | .xred .. | .xgath .. | .xscat .. | .xmcast .. | .xrload .. => ceilDiv (tExtent x.ra) 65536
  | .xksend _ _ n => n.toNat + 1
  | .xpref _ => (prefOrder x.data).foldl (fun n e => n + e.chunks) 0
  | .xatom .. => 1
  | _ => 0

/-- Every chunk has landed. -/
def XCmd.allLanded (x : XCmd) : Bool :=
  match x.instr with
  | .xpref _ => (prefOrder x.data).zipIdx.all (fun e => (x.entAt e.2).pp == e.1.chunks)
  | _ => x.pp == x.chunks

/-- Bytes of chunk `c` out of `total`. -/
def chunkLen (total c : Nat) : Nat := min 65536 (total - 65536 * c)

/-! ## Resolving a side (R194) -/

/-- Why a chunk does not start. -/
inductive Stop where
  /-- a handle is PENDING -/
  | waits
  | parks (c : Cause) (lease : Nat) (va : Nat)
  /-- another partition's storage, or a walk that strays: parks, and XPART is posted (R331, R334) -/
  | xparts (c : Cause) (va : Nat)
  deriving DecidableEq, Repr, Inhabited

/-- Pieces of a side: homes (none: reads as zero, or is dropped), the leases to hold, the pages resolved through. -/
structure Side where
  pieces : List (Option Nat × Nat)
  leases : List Nat
  pages : List (Nat × Nat)
  deriving DecidableEq, Repr, Inhabited

/-- Two sides in order. -/
def Side.join (a b : Side) : Side := ⟨a.pieces ++ b.pieces, a.leases ++ b.leases, a.pages ++ b.pages⟩

/-- The partition that a local home is allotted to, or leased to where it lies in the stage or the pool (R330, R331). -/
def State.keyPart (s : State) (k : Nat) : Option Nat :=
  if isCoreKey k then s.partOfCore (if k < 2 ^ 52 then (k - 0x20000000000) / 0x100000 else (k - 2 ^ 52) / 0x40000)
  else if k < 0x8000000000 then
    (s.parts.find? (fun e => e.2.valid && e.2.hbase.toNat * 2 ^ 18 ≤ k && k < (e.2.hbase.toNat + e.2.hpages.toNat) * 2 ^ 18)).map (·.1)
  else
    (s.leases.find? (fun e => !(e.2.state == .vacated || e.2.state == .reclaimed) && e.2.holdsRange k 1)).map (·.2.part)

/-- The lease check of a home reached by translation (R194): nothing for peer and host, the covering lease for the others. -/
def checkHome (s : State) (p j k n : Nat) : Except Stop (List Nat) :=
  if (2 ^ 64 ≤ k && k < 3 * 2 ^ 64) then .ok []
  else
    let id := coveringLease s p j k n
    match leaseCheck s p j id with
    | .ok _ => .ok [id]
    | .error c =>
      match s.keyPart k with
      | some q => if q != p then .error (.xparts c 0) else .error (.parks c id 0)
      | none => .error (.parks c id 0)

/-- The SPM of a core other than `core`, of this package or of another. -/
def isOtherSpm (core k : Nat) : Bool := if isPeerKey k then isCoreKey (k % 2 ^ 52) else k < 2 ^ 64 && isCoreKey k && !isOwnKey core k

/-- One side piece of a record (R192, R194): address `a`, `n` bytes; `dest`; `sig`: the command's writes are signalled. -/
def resolvePiece (s : State) (core : Nat) (t : BitVec 256) (dest sig : Bool) (a : Int) (n : Nat) : Except Stop Side :=
  let pj := s.jobOf core
  let far (k m va : Nat) (pg : Nat × Nat) : Except Stop Side :=
    if dest && !sig && isOtherSpm core k then .error (.parks .unsignalled 0 va)
    else if isPeerKey k && s.chipLost (peerOf k) then .error (.parks .peerLost 0 va)
    else
      match checkHome s pj.1 pj.2 k m with
      | .ok ls => .ok ⟨[(some k, m)], ls, [pg]⟩
      | .error e => .error e
  match tBkind t with
  | 2 =>
    if a < 0 || a + n > 2 ^ 52 then .error (.parks .walk 0 a.toNat)
    else
      (cutPages a.toNat n).foldl (fun acc pc =>
        match acc with
        | .error e => .error e
        | .ok sd =>
          match xlate s (some core) pj.1 pj.2 pc.1 (!dest) dest with
          | none => if strays s pj.1 pj.2 pc.1 then .error (.xparts .walk pc.1) else .error (.parks .walk 0 pc.1)
          | some l =>
            let m := pageSize l.size / 2 ^ 18
            (far (l.keyOf pc.1) pc.2 pc.1 (pc.1 / 2 ^ 18 / m * m, m)).map sd.join) (.ok ⟨[], [], []⟩)
  | 3 =>
    let h := (s.core core).H (tBase t / 2 ^ 47)
    let size := pageSize (bits h 123 2)
    let pg := (bits h 6 34, size / 2 ^ 18)
    let key (o : Nat) : Nat := keyAt (bits h 121 2) (bits h 109 12) (bits h 40 34 * 2 ^ 18 + o)
    if hState h = 1 && hValid h then .error .waits
    else if hState h != 2 || !hValid h || (!dest && bits h 108 1 = 0) || (dest && bits h 107 1 = 0) then .error (.parks .handle 0 0)
    else if a < 0 || a + n > size then
      let lo := max 0 a
      let hi := min (size : Int) (a + n)
      if tBounds t != 2 then .error (.parks .bounds 0 0)
      else if hi ≤ lo then .ok ⟨[(none, n)], [], []⟩
      else
        let before := (lo - a).toNat
        let m := (hi - lo).toNat
        let pad (x : Nat) : Side := ⟨if x = 0 then [] else [(none, x)], [], []⟩
        (far (key lo.toNat) m 0 pg).map (fun q => ((pad before).join q).join (pad (n - m - before)))
    else
      (cutPages a.toNat n).foldl (fun acc pc =>
        match acc with
        | .error e => .error e
        | .ok sd => (far (key pc.1) pc.2 0 pg).map sd.join) (.ok ⟨[], [], []⟩)
  | b =>
    let size : Int := tierSize b
    let lo := max 0 a
    let hi := min size (a + n)
    if hi ≤ lo then .ok ⟨[(none, n)], [], []⟩
    else
      let k := keyTier core b lo.toNat
      let m := (hi - lo).toNat
      let before := (lo - a).toNat
      let rest := n - m - before
      let pad (x : Nat) : List (Option Nat × Nat) := if x = 0 then [] else [(none, x)]
      match leaseCheck s pj.1 pj.2 (tLease t) with
      | .error c => .error (.parks c (tLease t) 0)
      | .ok l =>
        if l.holdsRange k m then .ok ⟨pad before ++ [(some k, m)] ++ pad rest, [tLease t], []⟩
        else .error (.parks .nolease (tLease t) 0)

/-- A side: spans of a record (an absent one reads as zero or is dropped), resolved in order. -/
def resolveSpans (s : State) (core : Nat) (t : BitVec 256) (dest sig : Bool) (spans : List (Option (Int × Nat) × Nat)) : Except Stop Side :=
  spans.foldl (fun acc sp =>
    match acc with
    | .error e => .error e
    | .ok sd =>
      match sp.1 with
      | none => .ok { sd with pieces := sd.pieces ++ [(none, sp.2)] }
      | some (a, n) => (resolvePiece s core t dest sig a n).map sd.join) (.ok ⟨[], [], []⟩)

/-- Spans of logical bytes. -/
def spansOf (t : BitVec 256) (b n : Nat) : List (Option (Int × Nat) × Nat) := (xSpans t b n).map (fun p => (some p, p.2))

/-- The third record of a command (R201, R202). -/
def xIndexRec (i : Instr) : Nat :=
  match i with
  | .xgath _ _ _ x _ | .xscat _ _ _ x _ | .xmcast _ _ _ x _ | .xrload _ _ _ x _ _ => x.toNat
  | _ => 0

/-- Row index `j` of an index list (R201); beyond SPM it reads as zero (R192). -/
def rowIndex (s : State) (core : Nat) (x : BitVec 256) (j : Nat) : Nat :=
  let a := tBase x + 4 * j
  if a + 4 ≤ 0x100000 then s.readNat (keySpm core a) 4 else 0

/-- Spans of the rows of record `t` that the indices of destination bytes `b` to `b + n - 1` choose (`XGATH`, R201): `none` is an index out of range under BOUNDS 0. -/
def gatherSpans (s : State) (core : Nat) (t x : BitVec 256) (rl b n : Nat) : Option (List (Option (Int × Nat) × Nat)) :=
  if rl = 0 || n = 0 then some []
  else
    (upto (b / rl) ((b + n - 1) / rl - b / rl + 1)).mapM (fun j =>
      let lo := max b (j * rl)
      let m := min (b + n) (j * rl + rl) - lo
      let idx := rowIndex s core x j
      if idx ≥ xRows t then (if tBounds t = 2 then some (none, m) else none)
      else some (some (xAddr t (idx * rl + (lo - j * rl)), m), m))

/-- What an `XSCAT` writes in destination bytes `b` to `b + n - 1` (R201): for each index, in order, the first destination byte, the first source byte and the length; `none` where an index is out of range under BOUNDS 0. -/
def scatterCuts (s : State) (core : Nat) (t x : BitVec 256) (rl b n : Nat) : Option (List (Nat × Nat × Nat)) :=
  let idx := (upto 0 (tExtent x / 4)).map (fun j => (rowIndex s core x j, j))
  if tBounds t != 2 && idx.any (fun e => e.1 ≥ xRows t) then none
  else
    some (idx.filterMap (fun e =>
      let lo := max b (e.1 * rl)
      let hi := min (b + n) (e.1 * rl + rl)
      if e.1 ≥ xRows t || hi ≤ lo then none else some (lo, e.2 * rl + (lo - e.1 * rl), hi - lo)))

/-- The record of one entry of a prefetch list, as a copy sees it. -/
def prefRec (kind addr len lease : Nat) : BitVec 256 :=
  putBits (putBits (putBits (putBits (0 : BitVec 256) 254 2 kind) 202 52 addr) 162 40 len) 43 16 lease

/-- The key of a frame at each chip of a list (R202). -/
def keyAtChip (k chip : Nat) : Nat :=
  let a := if isPeerKey k then k % 2 ^ 52 else k
  if chip = Config.chip then a else keyAt 1 chip a

/-- The scales of `n` elements of a block-format side from element `e0` on: they lie in SPM under a lease of the job, which the chunk holds (R174, R199; log 106). -/
def scaleSide (s : State) (core : Nat) (t : BitVec 256) (e0 n : Nat) : Except Stop Side :=
  if !isBlock (tFmt t) || n = 0 then .ok ⟨[], [], []⟩
  else
    let sb := scaleBytes (tFmt t)
    let lo := tScale t + e0 / 32 * sb
    let m := ceilDiv n 32 * sb
    if lo + m > 0x100000 then .error (.parks .bounds (tLease t) 0)
    else
      let pj := s.jobOf core
      let id := coveringLease s pj.1 pj.2 (keySpm core lo) m
      match leaseCheck s pj.1 pj.2 id with
      | .ok l => if l.holdsRange (keySpm core lo) m then .ok ⟨[], [id], []⟩ else .error (.parks .nolease id 0)
      | .error c => .error (.parks c id 0)

/-- Both sides of chunk `c` of a command (R194): destination and source, or why it does not start and the record that met the check. For `XMCAST` the destination pieces stand once per chip, for `XRLOAD` the source pieces. -/
def resolveChunk (s : State) (core : Nat) (x : XCmd) (c : Nat) : Except (Stop × Nat) (Side × Side) :=
  let nums := xNums x.instr
  let at_ (rec : Nat) (r : Except Stop Side) : Except (Stop × Nat) Side := r.mapError (fun e => (e, rec))
  let dst (sp : List (Option (Int × Nat) × Nat)) : Except (Stop × Nat) Side := at_ nums.1 (resolveSpans s core x.ra true (!x.plain c) sp)
  let src (sp : List (Option (Int × Nat) × Nat)) : Except (Stop × Nat) Side := at_ nums.2 (resolveSpans s core x.rb false true sp)
  -- the index list is read under its own record's lease
  let index : Except (Stop × Nat) Side :=
    (at_ (xIndexRec x.instr) (resolveSpans s core x.rx false true (spansOf x.rx 0 (tExtent x.rx)))).map (fun q => { q with pieces := [] })
  let per (sd : Side) (chips : List Nat) : Side :=
    { sd with pieces := chips.flatMap (fun ch => sd.pieces.map (fun p => (p.1.map (fun k => keyAtChip k ch), p.2))) }
  let lost : Bool := x.data.any s.chipLost
  let b := 65536 * c
  let n := chunkLen (tExtent x.ra) c
  let fa := contBits (tFmt x.ra)
  let fb := contBits (tFmt x.rb)
  match x.instr with
  | .xcopy .. => do
    let q ← src (spansOf x.rb (b * fb / fa) (n * fb / fa))
    let d ← dst (spansOf x.ra b n)
    let (e0, m) := if tFmt x.ra = tFmt x.rb then (0, 0) else (b * 8 / fa, n * 8 / fa)
    let qs ← at_ nums.2 (scaleSide s core x.rb e0 m)
    let ds ← at_ nums.1 (scaleSide s core x.ra e0 m)
    pure (d.join ds, q.join qs)
  | .xred .. => do
    let q ← src (spansOf x.rb (b * fb / fa) (n * fb / fa))
    let d ← dst (spansOf x.ra b n)
    pure (d, q)
  | .xgath .. => do
    let ix ← index
    match gatherSpans s core x.rb x.rx (xRlen x.ra) b n with
    | none => throw (.parks .bounds 0 0, nums.2)
    | some sp =>
      let q ← src sp
      let d ← dst (spansOf x.ra b n)
      pure (d, q.join ix)
  | .xscat .. => do
    let ix ← index
    match scatterCuts s core x.ra x.rx (xRlen x.rb) b n with
    | none => throw (.parks .bounds 0 0, nums.1)
    | some cs =>
      let q ← src (cs.flatMap (fun e => spansOf x.rb e.2.1 e.2.2))
      let d ← dst (cs.flatMap (fun e => spansOf x.ra e.1 e.2.2))
      pure (d, q.join ix)
  | .xmcast .. => do
    let q ← src (spansOf x.rb b n)
    let d ← dst (spansOf x.ra b n)
    if lost then throw (.parks .peerLost 0 0, nums.1)
    pure (per d x.data, q)
  | .xrload .. => do
    let q ← src (spansOf x.rb (b * fb / fa) (n * fb / fa))
    let d ← dst (spansOf x.ra b n)
    if lost then throw (.parks .peerLost 0 0, nums.2)
    pure (d, per q x.data)
  | .xatom _ _ _ sz => do
    let m := if sz = 1 then 8 else 4
    let d ← dst [(some (xAddr x.ra 0, m), m)]
    let q ← src (spansOf x.rb 0 24)
    pure (d, q)
  | .xksend .. => do
    let m := 1024 * fb / 8
    let q ← src (spansOf x.rb (m * c) m)
    pure (⟨[], [], []⟩, q)
  | .xpref _ => do
    match prefAt (prefOrder x.data) 0 c with
    | none => pure (⟨[], [], []⟩, ⟨[], [], []⟩)
    | some (_, e, k) =>
      let m := chunkLen e.len k
      let pj := s.jobOf core
      let lease := if e.dkind = 1 then coveringLease s pj.1 pj.2 (keySpm core (e.dst + 65536 * k)) m else 0
      let rs := prefRec 2 e.src e.len 0
      let rd := prefRec (if e.dkind = 1 then 0 else 2) e.dst e.len lease
      let q ← at_ nums.1 (resolveSpans s core rs false true (spansOf rs (65536 * k) m))
      let d ← at_ nums.1 (resolveSpans s core rd true e.ob (spansOf rd (65536 * k) m))
      pure (d, q)
  | _ => pure (⟨[], [], []⟩, ⟨[], [], []⟩)

/-! ## Acceptance (R190, R207) -/

/-- A and D set at the leaf of each 256 KiB page of a range, as one indivisible OR (R207, R342); `none` where a walk fails, at that address (an address outside bits [51:0] has no leaf). -/
def markPages (s : State) (p j : Nat) (spans : List (Int × Nat)) (dest : Bool) : State × Option Nat :=
  let fails (acc : State × Option Nat) (va : Nat) : State × Option Nat := (acc.1, acc.2.orElse (fun _ => some va))
  spans.foldl (fun (acc : State × Option Nat) (sp : Int × Nat) =>
    if sp.1 < 0 || sp.1 + sp.2 > 2 ^ 52 then fails acc sp.1.toNat
    else
      (cutPages sp.1.toNat sp.2).foldl (fun (acc : State × Option Nat) (pc : Nat × Nat) =>
        match walk acc.1 p j pc.1 (!dest) dest with
        | none => fails acc pc.1
        | some l =>
          if l.entry = 0 then acc
          else
            let e := acc.1.homeNat l.entry 8
            let v := e ||| (2 ^ 10 + if dest then 2 ^ 9 else 0)
            (if v = e then acc.1 else acc.1.writeAtom l.entry (toBytes 8 v), acc.2)) acc) (s, none)

/-- The pages of both sides of a command are marked at its acceptance (R207). -/
def markCmd (s : State) (core : Nat) (x : XCmd) : State × Option (Nat × Nat) :=
  let pj := s.jobOf core
  let nums := xNums x.instr
  let one (s : State) (t : BitVec 256) (dest : Bool) : State × Option Nat :=
    if tBkind t = 2 then markPages s pj.1 pj.2 (xSpans t 0 (tExtent t)) dest else (s, none)
  match x.instr with
  | .xcopy .. | .xred .. | .xgath .. | .xscat .. | .xmcast .. | .xrload .. | .xdecl .. =>
    let (s, e1) := one s x.rb false
    let (s, e2) := one s x.ra true
    (s, match e1, e2 with
      | some a, _ => some (nums.2, a)
      | none, some a => some (nums.1, a)
      | none, none => none)
  | .xkfetch .. | .xatom .. =>
    let (s, e) := one s x.ra true
    (s, e.map (fun a => (nums.1, a)))
  | .xpref _ =>
    ((x.data.map prefEntry).foldl (fun s e =>
      let (s, _) := markPages s pj.1 pj.2 (xSpans (prefRec 2 e.src e.len 0) 0 e.len) false
      if e.dkind = 2 then (markPages s pj.1 pj.2 (xSpans (prefRec 2 e.dst e.len 0) 0 e.len) true).1 else s) s, none)
  | _ => (s, none)

/-- An `XDECL` walks its ranges (R207): it is done, or it parks with WALK, at the address at which a walk fails. `told`: its park has been reported before (R346). -/
def State.declare (s : State) (core : Nat) (x : XCmd) (told : Bool) : State :=
  let pj := s.jobOf core
  match markCmd s core x with
  | (s, none) => s.modCmd core x.id (fun y => { y with acted := true, parked := none, raised := false })
  | (s, some (rec, va)) =>
    let s := if strays s pj.1 pj.2 va then s.xpart pj.1 pj.2 else s
    if told then s.modCmd core x.id (fun y => { y with parked := some (parkReport x .walk rec 0 va), raised := true })
    else s.parkCmd core x .walk rec 0 va

/-- A number for a chunk in flight of a core's command. -/
def flightCode (core cmd chunk : Nat) : Nat := core + 2 ^ 12 * (chunk + 2 ^ 32 * cmd)

/-- The cores of units of the job that an ASID names. -/
def State.ofAsid (s : State) (asid : BitVec 16) : List (Nat × Core) :=
  s.cores.filter (fun e => e.2.seat.unit.isSome && (let pj := s.jobOf e.1; (s.job pj.1 pj.2).asid == asid))

/-- The pages of a chunk hold a byte of a range (R347). -/
def Chunk.within (f : Chunk) (base len : Nat) : Bool :=
  f.pages.any (fun p => p.1 * 2 ^ 18 < base + len && base < (p.1 + p.2) * 2 ^ 18)

/-- Chunks in flight that resolved through a translation of a range (R209). -/
def State.through (s : State) (asid : BitVec 16) (base len : Nat) : List Nat :=
  (s.ofAsid asid).flatMap (fun e => e.2.copy.cmds.flatMap (fun x =>
    (x.flight.filter (fun f => f.within base len)).map (fun f => flightCode e.1 x.id f.no)))

/-- An `XINV` is accepted (R209, R347): READY handles of the ASID whose page holds a byte of the range lose VALID, on every core of the partition, and the TLBs lose such pages. -/
def State.invalidate (s : State) (p : Nat) (asid : BitVec 16) (base len : Nat) : State :=
  let hit (h : BitVec 128) : Bool :=
    let lo := bits h 6 34 * 2 ^ 18
    hState h == 2 && bits h 90 16 == asid.toNat && lo < base + len && base < lo + pageSize (bits h 123 2)
  let cleared (c : Core) : Core := { c with regs := { c.regs with h := c.regs.h.map (fun h => (h.1, if hit h.2 then putBits h.2 125 1 0 else h.2)) } }
  let mine (core : Nat) : Bool := s.partOfCore core = some p || ((s.core core).seat.unit.isSome && (s.jobOf core).1 = p)
  let s : State := { s with cores := s.cores.map (fun e => (e.1, if mine e.1 then cleared e.2 else e.2)) }
  s.flushTlbs asid.toNat base len

/-- A set of constants arrives at the keeper (R286): it replaces the set of its tag, else the one of the lowest tag once four are kept. -/
def State.addConsts (s : State) (k : KConsts) : State :=
  let mine (q : KConsts) : Bool := q.part == k.part && q.job == k.job && q.prog == k.prog
  let old := s.keeper.consts.filter mine
  let rest := s.keeper.consts.filter (fun q => !mine q)
  let kept :=
    if old.any (fun q => q.tag == k.tag) then old.filter (fun q => q.tag != k.tag)
    else if old.length ≥ 4 then
      let low := old.foldl (fun m q => min m q.tag) (2 ^ 64)
      old.filter (fun q => q.tag != low)
    else old
  { s with keeper := { s.keeper with consts := rest ++ kept ++ [k] } }

/-! ## Collective records (R262, R267, R302) -/

/-- CTAG -/
def clTag (r : BitVec 1024) : Nat := cf r 990 16
/-- DIES -/
def clDies (r : BitVec 1024) : Nat := cf r 956 4

/-- Copies that agree in every field except SRC (R268). -/
def collAgree (k : Coll) : Bool :=
  match k.copies with
  | q :: qs => qs.all (fun r => putBits q.rec_ 874 52 0 == putBits r.rec_ 874 52 0)
  | [] => true

/-- Every copy has come: each die that a copy's DIES names has handed one over (R267). -/
def Coll.whole (k : Coll) : Bool :=
  !k.copies.isEmpty && (upto 0 4).all (fun d =>
    !k.copies.any (fun q => (clDies q.rec_).testBit d) || k.copies.any (fun q => dieOf q.core == d))

/-- Packets are exchanged with chips from now on: their silence counts (R271). -/
def State.know (s : State) (chips : List Nat) : State :=
  chips.foldl (fun (s : State) c => if c = Config.chip || s.peers.any (fun q => q.chip == c) then s else s.setPeer (s.peer c)) s

/-- An engine takes a record (R264): it reads each copy and the peer table as they stand in SPM now; those of a saved unit stand as they were handed over. Ranks whose chips are lost are lost to it (R271). DESIGN CHOICE: a record that has come to break R268 since its issue ends with STATUS 3 (log 107). -/
def State.takeColl (s : State) (k : Coll) : Coll :=
  let base (q : CollCopy) : Option Nat :=
    if (s.core q.core).seat.unit = some (q.launch, q.unit) then ((s.core q.core).cmd q.cmd).map (fun x => tBase x.ra) else none
  let now (q : CollCopy) : CollCopy := match base q with
    | some b => { q with rec_ := (collRead s q.core b).1 }
    | none => q
  let peers : List Nat := match k.copies with
    | q :: _ => match base q with
      | some b => (collRead s q.core b).2
      | none => k.peers
    | [] => k.peers
  { k with
    copies := k.copies.map now
    peers := peers
    running := true
    lost := (peers.zipIdx.filter (fun p => s.chipLost p.1)).map (·.2) }

/-- Records whose copies have all come are taken in order while an engine has a free slot: 8 engines hold 16 each (R302). -/
def State.startColls (s : State) : State :=
  let r := s.colls.foldl (fun (acc : List Coll × Nat × List Nat) k =>
    if !k.running && k.whole && !k.cancelled && acc.2.1 < 128 then
      let t := s.takeColl k
      (acc.1 ++ [t], acc.2.1 + 1, acc.2.2 ++ t.peers)
    else (acc.1 ++ [k], acc.2)) ([], (s.colls.filter (·.running)).length, [])
  State.know { s with colls := r.1 } r.2.2

/-- An `XCOLL` hands its copy over (R210, R267): all copies of one collective go to one engine. A copy that names a die whose copy is already at work disagrees with that one. -/
def State.handOver (s : State) (core : Nat) (x : XCmd) (p j : Nat) : State :=
  let (rec_, peers) := collRead s core (tBase x.ra)
  let u := (s.core core).seat.unit.getD (0, 0)
  let copy : CollCopy := ⟨core, u.1, u.2, x.id, rec_⟩
  let same (k : Coll) : Bool := k.part == p && k.job == j && !k.cancelled &&
    k.copies.all (fun q => clTag q.rec_ == clTag rec_ && dieOf q.core != dieOf core) &&
    (!k.running || k.copies.any (fun q => (clDies rec_).testBit (dieOf q.core)))
  let put (l : List CollCopy) : List CollCopy :=
    l.filter (fun q => dieOf q.core < dieOf core) ++ [copy] ++ l.filter (fun q => dieOf core < dieOf q.core)
  let colls :=
    if s.colls.any same then
      replaceFirst same (fun k => { k with copies := put k.copies }) s.colls
    else s.colls ++ [⟨s.fresh, p, j, [copy], peers, 0, [], [], [], [], false, false, false⟩]
  State.startColls { s with colls := colls, fresh := s.fresh + 1 }

/-- X keeps a command whose destination bytes it may have to fetch again (R373). -/
def XCmd.keeps (x : XCmd) : Bool :=
  match x.instr with
  | .xcopy .. | .xgath .. | .xscat .. | .xrload .. => tBkind x.rb ≥ 2
  | .xmcast .. => tBkind x.rb ≥ 2
  | .xpref _ | .xkfetch .. => true
  | _ => false

/-- A fetch asks the keeper for the blocks that it has not had: at its acceptance, after a restore, and where a rollback runs it again (R290, R313, R323, R373). -/
def fetchesOf (core p j : Nat) (x : XCmd) : List KFetch :=
  match x.instr with
  | .xkfetch _ _ _ _ n =>
    if x.acted then []
    else
      let req := x.data.headD 0
      (upto 0 (n.toNat + 1)).filterMap (fun i =>
        if landedAt x.pp x.lb i then none else some ⟨core, x.id, p, j, fldN req 58 6, fldN req 38 20 + i, fldN req 96 32⟩)
  | _ => []

/-- X_ACCEPT (R190): 8 ac after issue the command runs apart from its stream. -/
def execXAccept (core : Nat) (s : State) : Out :=
  let c := s.core core
  match c.copy.issuing with
  | none => .next s
  | some x0 =>
    let ph := ((c.seat.unit.bind (fun u => s.launch u.1)).map (·.phase)).getD 0
    let x := { x0 with phase := ph, view := c.seat.view, srkey := if x0.again then x0.srkey else c.csr.srkey }
    let kept := if x.keeps then ((c.copy.kept ++ [(x, [])]).reverse.take 32).reverse else c.copy.kept
    let s := s.setCore core { c with copy := { c.copy with issuing := none, cmds := c.copy.cmds ++ [x], kept := kept } }
    let pj := s.jobOf core
    let set (f : XCmd → XCmd) (s : State) : State := s.modCmd core x.id f
    match x.instr with
    | .xdecl .. => .next (s.declare core x false)
    | .xinv _ asid =>
      -- what it waits for: the chunks that resolved through a translation of the range before it (R209)
      let s := s.invalidate pj.1 asid (tBase x.ra) (tExtent x.ra)
      .next (set (fun y => { y with data := s.through asid (tBase x.ra) (tExtent x.ra) }) s)
    | .xcoll .. => .next (s.handOver core x pj.1 pj.2)
    | .xkparam _ p =>
      let v := x.data.headD 0
      let k : KConsts := ⟨pj.1, pj.2, p.toNat, fldN v (8 * 128) 32, (upto 0 32).map (fun i => fld v (32 * i) 32), x.data.getD 1 0 != 0⟩
      let chips := namedKeepers (fldN v (8 * 132) 12) (fldN v (8 * 134) 12)
      let s := if chips.contains Config.chip then s.addConsts k else s
      -- the program number stands in FMT of a packet that carries constants (log 52)
      let g : Cargo := ⟨6, 0, 0, 3, p.toNat * 2 ^ 368 + 2 ^ 228, toBytes 144 v, if k.hot then [0, 1, 2] else []⟩
      let (s, codes) := s.sendAll (jobIx pj.1 pj.2) ((chips.filter (· != Config.chip)).map (fun ch => (ch, g)))
      .next (set (fun y => { y with acted := true, acks := codes }) s)
    | .xkfetch .. =>
      let req := x.data.headD 0
      let s := (markCmd s core x).1
      .next (State.kSees { s with keeper := { s.keeper with fetches := s.keeper.fetches ++ fetchesOf core pj.1 pj.2 x } } pj.1 pj.2 (fldN req 58 6) (fldN req 96 32))
    | _ => .next (markCmd s core x).1

/-! ## Chunk start (R194) -/

/-- The first chunk of `n` that has not landed and is not in flight, of those that LB can mark (R195, R197). `base`: the number of the first. -/
def openChunk (pp lb n base : Nat) (flight : List Chunk) : Option Nat :=
  ((upto pp 5).find? (fun c => c < n && !landedAt pp lb c && !flight.any (fun f => f.no == base + c))).map (base + ·)

/-- Every chunk of the entry at a place has landed, and its object has been incremented where one is named. -/
def XCmd.entOver (x : XCmd) (i : Nat) (e : PrefEntry) : Bool :=
  let q := x.entAt i
  q.pp == e.chunks && (!e.ob || x.again || q.bumped)

/-- The next chunk of a prefetch list: of its first entry with a chunk that has not started. At most 32 entries are started and not over (R208, R322). -/
def XCmd.nextPref (x : XCmd) : Option Nat :=
  let l := prefOrder x.data
  let first (i : Nat) : Nat := (l.take i).foldl (fun n e => n + e.chunks) 0
  let waits (e : PrefEntry × Nat) : Bool :=
    let q := x.entAt e.2
    (upto q.pp (e.1.chunks - q.pp)).any (fun c => !landedAt q.pp q.lb c && !x.flight.any (fun f => f.no == first e.2 + c))
  match l.zipIdx.find? waits with
  | none => none
  | some (e, i) =>
    if 32 ≤ ((l.take i).zipIdx.filter (fun d => !x.entOver d.2 d.1)).length then none
    else
      let q := x.entAt i
      openChunk q.pp q.lb e.chunks (first i) x.flight

/-- The chunk of a command that starts next (R195, R197, R208). -/
def XCmd.nextChunk (x : XCmd) : Option Nat :=
  match x.instr with
  | .xpref _ => x.nextPref
  | _ => openChunk x.pp x.lb x.chunks 0 x.flight

/-- The least time of a chunk (R212). -/
def chunkTime (core : Nat) (x : XCmd) (d q : Side) : Nat :=
  let own (p : Option Nat × Nat) : Bool := match p.1 with
    | some k => isOwnKey core k
    | none => true
  let base := if d.pieces.all own && q.pieces.all own then 1024 else 512
  let conv := match x.instr with
    | .xcopy .. => tFmt x.ra != tFmt x.rb
    | _ => false
  base + if conv then 64 else 0

/-- The emission slot of a keeper group, or this package's copy of one (R292), in which a home lies (R375): the group and the block. -/
def emissionOf (s : State) (k : Nat) : Option (KGroup × Nat) :=
  s.keeper.groups.findSome? (fun g =>
    let slot := emitSlot (gFmt g.setup)
    let n := gBlocks g.setup
    let within (va b : Nat) : Bool := (cutPages va slot).any (fun pc => match homeOf s g.part g.job pc.1 false false with
      | some h => h ≤ k && k < h + pc.2
      | none => false) && b < n
    let copies := (upto 0 (gSubs g.setup)).filter (fun i => (gSub g.setup i).1 == Config.chip)
    ((upto 0 n).find? (fun b => within (gEmit g.setup + b * slot) b ||
      copies.any (fun i => within ((gSub g.setup i).2.1 + b * (slot + 64) + 64) b))).map (fun b => (g, b)))

/-- A chunk starts with its sides resolved: it holds their leases until it lands (R194). -/
def State.startChunk (s : State) (core : Nat) (x : XCmd) (n : Nat) (d q : Side) : State :=
  let ch : Chunk := ⟨n, q.pieces, d.pieces, d.leases ++ q.leases, d.pages ++ q.pages, s.acOf core + chunkTime core x d q, 0, [], none, none⟩
  (s.modCmd core x.id (fun y => { y with flight := y.flight ++ [ch], started := y.started + 1 })).hold ch.leases true

/-- The cause with which a command parks: RECLAIMED for the lease that its record names, where that was reclaimed while it was stowed (R359). -/
def State.parkCause (s : State) (core : Nat) (x : XCmd) (c : Cause) (lease : Nat) : Cause :=
  if c == .nolease && (s.core core).seat.lost.contains (x.id, lease) then .reclaimed else c

/-- A check at a chunk's start, or at a home, has failed (R196, R331). -/
def State.parkFor (s : State) (core : Nat) (x : XCmd) (e : Stop) (rec : Nat) : State :=
  match e with
  | .waits => s
  | .parks c lease va => s.parkCmd core x (s.parkCause core x c lease) rec lease va
  | .xparts c va => (s.parkCmd core x c rec 0 va).xpart (s.jobOf core).1 (s.jobOf core).2

/-- Chunks of X in flight. -/
def Core.inFlight (c : Core) : Nat := c.copy.cmds.foldl (fun n y => n + y.flight.length) 0

/-- CHUNK_START (R194): resolve both sides, check each lease and hold it; a failed check parks the command (R196). At most 4 chunks of a command and 32 of X are in flight. -/
def execChunkStart (core cmd : Nat) (s : State) : Out :=
  let c := s.core core
  match c.cmd cmd with
  | none => .next s
  | some x =>
    if x.parked.isSome || x.flight.length ≥ 4 || c.inFlight ≥ 32 || c.seat.stopping || (c.health.recovering.isSome && !(c.health.refetching && x.refetch)) then .next s
    else
      match x.nextChunk with
      | none => .next s
      | some n =>
        match resolveChunk s core x n with
        | .error (e, rec) => .next (s.parkFor core x e rec)
        | .ok (d, q) =>
          let bad := if x.refetch then q.pieces.findSome? (fun p => match p.1 with
              | some k => if s.poisoned k p.2 then emissionOf s k else none
              | none => none) else none
          match bad with
          | some (g, b) =>
            -- poison in an emission slot: the keeper regenerates it first, once (R375)
            if x.acted then .next (s.startChunk core x n d q)
            else .next ((s.modCmd core cmd (fun y => { y with acted := true })).soon [.keeperRegen g.part g.job g.group b])
          | none => .next (s.startChunk core x n d q)

end Sys2Proof.Machine
end

