-- ==== Sys2Proof/Machine/CopyLand.lean ====
section
/-! DEFINITION. X commands at work: what a chunk sends and writes when it lands, and the retirement of commands (R191, R194, R198 to R209). -/

namespace Sys2Proof.Machine

/-! ## Bytes of a side -/

/-- The pieces of bytes `b` to `b + n - 1` of a side. -/
def cutSide (ps : List (Option Nat × Nat)) (b n : Nat) : List (Option Nat × Nat) :=
  (ps.foldl (fun (acc : Nat × List (Option Nat × Nat)) p =>
    let lo := max b acc.1
    let hi := min (b + n) (acc.1 + p.2)
    (acc.1 + p.2, if lo < hi then acc.2 ++ [(p.1.map (· + (lo - acc.1)), hi - lo)] else acc.2)) (0, [])).2

/-- Bytes of a side. -/
def sideLen (ps : List (Option Nat × Nat)) : Nat := ps.foldl (fun n p => n + p.2) 0

/-- The bytes of a side as a command sees them. -/
def sideBytes (s : State) (core : Nat) (x : XCmd) (ps : List (Option Nat × Nat)) : List Byte :=
  ps.flatMap (fun p => match p.1 with
    | some k => s.unitBytes (s.core core) x.view k p.2
    | none => List.replicate p.2 0)

/-- A byte range of a side carries poison. -/
def sidePoison (s : State) (ps : List (Option Nat × Nat)) (b n : Nat) : Bool :=
  (cutSide ps b n).any (fun p => match p.1 with
    | some k => s.poisoned k p.2
    | none => false)

/-- Pieces of a side at other chips: home, length, first byte of the side. -/
def farPieces (ps : List (Option Nat × Nat)) : List (Nat × Nat × Nat) :=
  (ps.foldl (fun (acc : Nat × List (Nat × Nat × Nat)) p => (acc.1 + p.2, match p.1 with
    | some k => if isPeerKey k then acc.2 ++ [(k, p.2, acc.1)] else acc.2
    | none => acc.2)) (0, [])).2

/-- How a command writes bytes at a home (R204): in place in the core; of the others, a reduce as an indivisible access of what is there, a plain store staged, and a signalled one at the home. -/
def landBytes (s : State) (core : Nat) (x : XCmd) (plain atom : Bool) (k : Nat) (bs : List Byte) : State :=
  if isOwnKey core k then
    let s := s.writeOwn core k bs
    s.modCore core (fun c => { c with copy := { c.copy with
      kept := c.copy.kept.map (fun e => if e.1.word == x.word && e.1.pc == x.pc && (e.1.id == x.id || x.again) then (e.1, (e.2 ++ granules k bs.length).eraseDups) else e) } })
  else if atom then s.writeAtomOf core k bs
  else if plain then
    let u := (s.core core).seat.unit.getD (0, 0)
    { s with stores := s.stores ++ [⟨u.1, u.2, x.phase, x.id, k, bs, 0⟩] }
  else s.writeHome k bs

/-- Write the pieces of a destination from a list of bytes; `hot`: destination bytes that poison was read for (R369). It says whether any granule took poison. -/
def landSide (s : State) (core : Nat) (x : XCmd) (plain atom : Bool) (dst : List (Option Nat × Nat)) (hot : Nat → Nat → Bool) (bs : List Byte) : State × Bool :=
  let anyHot := hot 0 (sideLen dst)
  let r := dst.foldl (fun (acc : State × Nat × Bool) p =>
    let (t, at_, h) := acc
    match p.1 with
    | none => (t, at_ + p.2, h)
    | some k =>
      let t := landBytes t core x plain atom k ((bs.drop at_).take p.2)
      if anyHot then
        let marks := (granules k p.2).filter (fun g =>
          let lo := max k (g * 64)
          let hi := min (k + p.2) (g * 64 + 64)
          hot (at_ + (lo - k)) (hi - lo))
        ({ t with poison := t.poison ++ marks.filter (fun g => !t.poison.contains g) }, at_ + p.2, h || !marks.isEmpty)
      else (t, at_ + p.2, h)) (s, 0, false)
  (r.1, r.2.2)

/-! ## Values (R199, R200) -/

/-- Codes of a container width in packed bytes (R216). -/
def unpackCodes (w : Nat) (bs : List Byte) : List Nat :=
  if w = 4 then bs.flatMap (fun b => [b.toNat % 16, b.toNat / 16])
  else
    let n := w / 8
    (upto 0 (bs.length / n)).map (fun i => ofBytes ((bs.drop (n * i)).take n))

/-- The value of element `e` of a side of the conversion stage (R199, R174): block scales lie in SPM, another SCALE of 0 stands for 1. -/
def srcValue (s : State) (core : Nat) (t : BitVec 256) (e code : Nat) : Num :=
  let fmt := tFmt t
  if isBlock fmt then
    let k := keySpm core (tScale t + e / 32 * scaleBytes fmt)
    blockVal fmt code (s.readNat k 1) (if fmt = 0x11 then s.readNat (k + 1) 1 else 0)
  else decodeFmt fmt code

/-- The FP32 scale of a record that is not in a block format; 0 stands for 1.0. -/
def recScale (t : BitVec 256) : Num :=
  if isBlock (tFmt t) || tScale t = 0 then .fin false 1 0 else decodeF fmtFP32 (tScale t)

/-- A product rounded to FP32 with RNE, with its flags. -/
def mulRne (a b : Num) : Num × Fl :=
  let (p, f) := nMul a b
  let (c, g) := roundRne p
  (decodeF fmtFP32 c, f ||| g)

/-- The result of a conversion of a list of values to a format, from element `e0` on (R199, R185): codes, scales of block formats, and flags. -/
def convert (fmt : Nat) (mode : Mode) (nonsat : Bool) (key : W64) (e0 : Nat) (xs : List Num) : List Nat × List (Nat × Nat) × Fl :=
  if isBlock fmt then
    let r := (upto 0 (ceilDiv xs.length 32)).map (fun b =>
      encodeBlock fmt mode (fun i v => drawFor mode key ((e0 + 32 * b + i) % 2 ^ 32) v) ((xs.drop (32 * b)).take 32))
    (r.flatMap (fun q => q.2.2.1), r.map (fun q => (q.1, q.2.1)), r.foldl (fun f q => f ||| q.2.2.2) 0)
  else
    let r := xs.zipIdx.map (fun p => encodeFmt fmt mode nonsat (drawFor mode key ((e0 + p.2) % 2 ^ 32) p.1) p.1)
    (r.map (·.1), [], r.foldl (fun f q => f ||| q.2) 0)

/-- A floating reduce of two FP32-decodable values, rounded once to `fmt` (R200): the new code and flags; an element unchanged where MAX or MIN keeps the local value. -/
def reduce1 (op fmt loc : Nat) (a : Num) : Nat × Fl :=
  let l := decodeFmt fmt loc
  match op with
  | 0 =>
    let (v, f) := nAdd false l a
    let (c, g) := encodeFmt fmt .rne false 0 v
    (c, f ||| g)
  | _ =>
    let (m, f) := nMinMax (op = 1) l a
    if m = l && !l.isNan then (loc, f)
    else
      let (c, g) := encodeFmt fmt .rne false 0 m
      (c, f ||| g)

/-- A command after flags and magnitudes of a chunk are noted. -/
def XCmd.note (x : XCmd) (f : Fl) (vals : List Num) : XCmd :=
  let (m, nan) := vals.foldl amaxStep (x.amax, x.amaxNan)
  { x with flags := x.flags ||| f, amax := m, amaxNan := nan }

/-- A list of columns reduced in order (R202, R277): modulo 2^32, or in FP32 with RNE at each step, unrounded to a format; with the flags. -/
def reduceList (op fmt : Nat) (xs : List Nat) : Nat × Fl :=
  if op = 3 then ((xs.foldl (· + ·) 0) % 2 ^ 32, 0)
  else
    let step (acc : Num × Fl) (c : Nat) : Num × Fl :=
      let b := decodeFmt fmt c
      let (m, f1) := if op = 0 then nAdd false acc.1 b else nMinMax (op == 1) acc.1 b
      let (q, f2) := roundRne m
      (decodeF fmtFP32 q, acc.2 ||| f1 ||| f2)
    let (v, f) := xs.tail.foldl step (decodeFmt fmt (xs.headD 0), 0)
    let (q, g) := roundRne v
    (q, f ||| g)

/-! ## What a chunk writes (R199 to R203) -/

/-- What a chunk of a command writes: the bytes of its destination, where poison was read for them, scales of block formats with their places in SPM, and the command with its flags and maximum. -/
structure Move where
  bytes : List Byte
  hot : Nat → Nat → Bool
  scales : List (Nat × List Byte)
  cmd : XCmd

/-- What a chunk of a transfer that reads only its source writes (R199, R201, R202, R208), from the source's bytes. -/
def moveOf (s : State) (core : Nat) (x : XCmd) (ch : Chunk) (src : List Byte) : Move :=
  let wa := contBits (tFmt x.ra)
  let wb := contBits (tFmt x.rb)
  -- destination byte `b` comes from source byte `b * wb / wa`
  let from_ (ps : List (Option Nat × Nat)) (b n : Nat) : Bool := sidePoison s ps (b * wb / wa) (ceilDiv (n * wb) wa)
  match x.instr with
  | .xcopy _ _ _ nonsat mode _ =>
    if tFmt x.ra = tFmt x.rb then ⟨src, sidePoison s ch.src, [], x⟩
    else
      let e0 := 65536 * ch.no * 8 / wa
      let codes := unpackCodes wb src
      let vs := codes.zipIdx.map (fun p => mulRne (srcValue s core x.rb (e0 + p.2) p.1) (recScale x.rb))
      let xs := vs.map (fun v => mulRne v.1 (recScale x.ra))
      let (out, scales, fl) := convert (tFmt x.ra) (modeOf mode.toNat) (nonsat == 1) x.srkey e0 (xs.map (·.1))
      let f := (vs.map (·.2) ++ xs.map (·.2)).foldl (· ||| ·) fl
      let sb := scaleBytes (tFmt x.ra)
      ⟨packCodes wa out, from_ ch.src,
       scales.zipIdx.map (fun p => (tScale x.ra + (e0 / 32 + p.2) * sb, toBytes sb (p.1.1 + 256 * p.1.2))), x.note f (xs.map (·.1))⟩
  | .xrload _ _ _ _ _ r =>
    let n := x.data.length
    let per := sideLen ch.src / n
    let col (i : Nat) : List Nat := unpackCodes wb ((src.drop (per * i)).take per)
    let cols := (upto 0 n).map col
    let out := (upto 0 (cols.headD []).length).map (fun e =>
      let (v, f) := reduceList r.toNat (tFmt x.rb) (cols.map (fun c => c.getD e 0))
      if r = 3 then (v, f)
      else
        let (c, g) := encodeFmt (tFmt x.ra) .rne false 0 (decodeF fmtFP32 v)
        (c, f ||| g))
    ⟨packCodes wa (out.map (·.1)), fun b m => (upto 0 n).any (fun i => from_ (cutSide ch.src (per * i) per) b m), [],
     { x with flags := out.foldl (fun f q => f ||| q.2) x.flags }⟩
  | .xmcast .. =>
    let n := src.length
    ⟨(List.replicate x.data.length src).flatten, fun b m => sidePoison s ch.src (b % n) m, [], x⟩
  | _ => ⟨src, sidePoison s ch.src, [], x⟩

/-- The values that an `XRED` brings to its destination's elements (R200), with their flags: FP32 codes, or INT32. -/
def redValues (x : XCmd) (r : BitVec 2) (src : List Byte) : List (Nat × Fl) :=
  (unpackCodes (contBits (tFmt x.rb)) src).map (fun e =>
    if r = 3 then (e, 0) else let (p, f) := nMul (decodeFmt (tFmt x.rb) e) (recScale x.rb); let (c, g) := roundRne p; (c, f ||| g))

/-- An inline reduce of one element with an arriving value (R200). -/
def redInto (r fmt loc v : Nat) : Nat × Fl := if r = 3 then ((loc + v) % 2 ^ 32, 0) else reduce1 r fmt loc (decodeF fmtFP32 v)

/-- A chunk of an `XRED` is applied at its homes (R200): each element is read, reduced and written there as one access. -/
def landReduce (s : State) (core : Nat) (x : XCmd) (r : BitVec 2) (ch : Chunk) (src : List Byte) : State × XCmd :=
  let fa := tFmt x.ra
  let wa := contBits fa
  let wb := contBits (tFmt x.rb)
  let old := ch.dst.flatMap (fun p => match p.1 with
    | some k => s.atomBytes core k p.2
    | none => List.replicate p.2 0)
  let out := ((unpackCodes wa old).zip (redValues x r src)).map (fun p => let (c, f) := redInto r.toNat fa p.1 p.2.1; (c, p.2.2 ||| f))
  -- the local value's poison stays (R369)
  let hot (b n : Nat) : Bool := sidePoison s ch.src (b * wb / wa) (ceilDiv (n * wb) wa) || sidePoison s ch.dst b n
  let (s, h) := landSide s core x false true ch.dst hot (packCodes wa (out.map (·.1)))
  (s, { x with flags := out.foldl (fun f q => f ||| q.2) x.flags, poison := x.poison || h })

/-- Operand and compare value of an `XATOM`, from its operand block (R203). -/
def atomOperands (src : List Byte) : Nat × Nat := (ofBytes (src.take 8), ofBytes ((src.drop 8).take 8))

/-- What an atomic access leaves of an element of `n` bytes (R92, R203): `op` on the operand `v`, and with 9 a compare with `cmp`. -/
def atomNew (op n old v cmp : Nat) : Nat :=
  if op = 9 then (if old = cmp % 2 ^ (8 * n) then v % 2 ^ (8 * n) else old) else atomic op n old v

/-- An `XATOM` is performed at its home as one access, and the old value is written into the operand block (R203). -/
def landAtom (s : State) (core : Nat) (x : XCmd) (op n : Nat) (ch : Chunk) (src : List Byte) : State × XCmd :=
  match ch.dst.head? with
  | some (some k, _) =>
    let old := ofBytes (s.atomBytes core k n)
    let (v, cmp) := atomOperands src
    let was := s.poisoned k n
    let fed := sidePoison s ch.src 0 16
    let s := s.writeAtomOf core k (toBytes n (atomNew op n old v cmp))
    let s := if fed then s.poisonAt k n else s
    let (s, h) := landSide s core x false false (cutSide ch.src 16 8) (fun _ _ => was) (toBytes 8 old)
    (s, { x with poison := x.poison || fed || h })
  | _ => (s, x)

/-- A chunk writes its destination (R198 to R203): the state, and the command with its flags and poison. -/
def landChunk (s : State) (core : Nat) (x : XCmd) (ch : Chunk) : State × XCmd :=
  let src := ch.bytes.getD (sideBytes s core x ch.src)
  match x.instr with
  | .xred _ _ _ r _ => landReduce s core x r ch src
  | .xatom _ _ op sz => landAtom s core x op.toNat (if sz = 1 then 8 else 4) ch src
  | _ =>
    let m := moveOf s core x ch src
    let (s, h) := landSide s core x (x.plain ch.no) false ch.dst m.hot m.bytes
    let s := m.scales.foldl (fun s e => s.writeOwn core (keySpm core e.1) e.2) s
    (s, { m.cmd with poison := m.cmd.poison || h })

/-! ## What a chunk sends (R202, R203, R273, R276 to R278) -/

/-- The fabric job number of the unit on a core. -/
def State.fjob (s : State) (core : Nat) : Nat := let pj := s.jobOf core; jobIx pj.1 pj.2

/-- Chips of a command's list as one packet may name them: the switches execute its TYPE, no chip stands twice, and none is this one (R278). -/
def listed (able : Bool) (chips : List Nat) : Bool := able && !chips.contains Config.chip && chips.eraseDups.length == chips.length

/-- The LOADs of a chunk's far source (R273), or the REDUCE_LOADs of an `XRLOAD` where the switches execute them (R277, R278). -/
def State.sendLoads (s : State) (core : Nat) (x : XCmd) (ch : Chunk) : State × List Nat :=
  let loads (ps : List (Option Nat × Nat)) (type fields : Nat) : List (Nat × Cargo) :=
    (farPieces ps).flatMap (fun p => (packetCuts p.2.1 4096).map (fun c =>
      (peerOf p.1, ⟨type, (p.1 + c.1) % 2 ^ 52, 0, ceilDiv c.2 64, fields, [], []⟩)))
  match x.instr with
  | .xrload _ _ _ _ _ r =>
    if listed s.platform.rload x.data then
      let per := sideLen ch.src / x.data.length
      s.sendLists (s.fjob core) x.data ((loads (cutSide ch.src 0 per) 5 (r.toNat * 2 ^ 373 + tFmt x.rb * 2 ^ 368)).map (·.2))
    else s.sendAll (s.fjob core) (loads ch.src 1 0)
  | _ => s.sendAll (s.fjob core) (loads ch.src 1 0)

/-- Poisoned granules of a packet's payload, which stands for destination bytes `b` to `b + n - 1`: granule `g` for `w` of them each. -/
def payloadPoison (hot : Nat → Nat → Bool) (b n w : Nat) : List Nat :=
  (upto 0 (ceilDiv n w)).filter (fun g => hot (b + w * g) (min w (n - w * g)))

/-- STOREs of far pieces from a list of bytes. -/
def storeCargo (ps : List (Nat × Nat × Nat)) (type : Nat) (m : Move) : List (Nat × Cargo) :=
  ps.flatMap (fun p => (packetCuts p.2.1 4096).map (fun c =>
    (peerOf p.1, ⟨type, (p.1 + c.1) % 2 ^ 52, 0, ceilDiv c.2 64, 0, (m.bytes.drop (p.2.2 + c.1)).take c.2, payloadPoison m.hot (p.2.2 + c.1) c.2 64⟩)))

/-- What a chunk's far destinations are sent, from its source's bytes: STOREs, MCAST_STOREs where the switches execute them (R278), the arriving values of a reduce, or an ATOM (log 53). -/
def State.sendStores (s : State) (core : Nat) (x : XCmd) (ch : Chunk) (src : List Byte) : State × List Nat :=
  let fj := s.fjob core
  let far := farPieces ch.dst
  match x.instr with
  | .xred _ _ _ r _ =>
    let wa := contBits (tFmt x.ra)
    let wb := contBits (tFmt x.rb)
    let vs := (redValues x r src).map (·.1)
    let hot (b n : Nat) : Bool := sidePoison s ch.src (b * wb / wa) (ceilDiv (n * wb) wa)
    s.sendAll fj (far.flatMap (fun p => (packetCuts p.2.1 (128 * wa)).map (fun c =>
      let es := (vs.drop ((p.2.2 + c.1) * 8 / wa)).take (c.2 * 8 / wa)
      (peerOf p.1, ⟨0, (p.1 + c.1) % 2 ^ 52, 0, ceilDiv (4 * es.length) 64, (r.toNat + 1) * 2 ^ 373 + tFmt x.ra * 2 ^ 368,
        es.flatMap (toBytes 4), payloadPoison hot (p.2.2 + c.1) c.2 (2 * wa)⟩))))
  | .xatom _ _ op sz =>
    s.sendAll fj (far.map (fun p => (peerOf p.1, ⟨2, p.1 % 2 ^ 52, 0, 1, op.toNat % 8 * 2 ^ 373 + (op.toNat / 8 + 2 * sz.toNat) * 2 ^ 368, src.take 16,
      if sidePoison s ch.src 0 16 then [0] else []⟩)))
  | .xmcast .. =>
    let m := moveOf s core x ch src
    let chips := x.data.filter (· != Config.chip)
    if listed s.platform.mcast chips then
      s.sendLists fj chips ((storeCargo (far.filter (fun p => peerOf p.1 == chips.headD 0)) 4 m).map (·.2))
    else s.sendAll fj (storeCargo far 0 m)
  | _ => s.sendAll fj (storeCargo far 0 (moveOf s core x ch src))

/-- Lines that a chunk reads from a host target are inputs of a job under capture (R381). -/
def State.captureSource (s : State) (core : Nat) (ch : Chunk) : State :=
  let pj := s.jobOf core
  if (s.capturing pj.1 pj.2).isNone then s
  else
    (ch.src.filterMap (fun p => p.1.bind (fun k => if 2 * 2 ^ 64 ≤ k && k < 3 * 2 ^ 64 then some (k, p.2) else none))).foldl (fun (s : State) p =>
      (granules p.1 p.2).foldl (fun (s : State) g => s.captureHost pj.1 pj.2 2 (64 * g % 2 ^ 52) (s.pubBytes (64 * g) 64)) s) s

/-! ## Blocks for keepers (R211, R281) -/

/-- The block or command that a chunk of `XKSEND` carries to this package's keeper (R281): JOB and SEQ are written by X; the header's link-layer bits name the core and the command, and whether the sender is its job's supervisor unit. -/
def ksendBlock (s : State) (core : Nat) (x : XCmd) (ch : Chunk) : KBlock :=
  let pj := s.jobOf core
  let kh := BitVec.ofNat 256 (x.data.headD 0)
  let body := ch.bytes.getD (sideBytes s core x ch.src)
  let sup : Nat := if s.jobSuper pj.1 pj.2 = some core then 2 ^ 231 else 0
  let seq := ch.acks.headD 0 % 2 ^ 32
  ⟨BitVec.ofNat 512 (6 * 2 ^ 508 + Config.chip * 2 ^ 496 + Config.chip * 2 ^ 484 + seq * 2 ^ 452 + jobIx pj.1 pj.2 * 2 ^ 436 + sup + x.id * 2 ^ 32 + core * 2 ^ 20),
   putBits (putBits (putBits kh 236 16 pj.2) 210 20 (bits kh 210 20 + ch.no)) 97 32 seq, body,
   (upto 0 (ceilDiv body.length 64)).filter (fun g => sidePoison s ch.src (64 * g) 64)⟩

/-- The flit of a keeper header, and the data after it (R281). -/
def blockFlits (b : KBlock) : List Byte := toBytes 64 b.kh.toNat ++ b.payload

/-- What a KBLOCK carries: the flit of its keeper header, which LENG does not count, and its data (R273, R281). -/
def blockCargo (b : KBlock) (seq : Nat) : Cargo :=
  ⟨6, 0, 0, ceilDiv b.payload.length 64, bits b.hdr 231 1 * 2 ^ 231, blockFlits { b with kh := putBits b.kh 97 32 seq }, b.poison.map (· + 1)⟩

/-- The event by which this package's keeper meets a block. -/
def keeperEvent (h : Nat) (b : KBlock) : Instr :=
  match khKind h with
  | 0 => .kGrad b
  | 1 => .kSetup b
  | 2 => .kPromote b
  | 3 => .kResume b
  | 4 => .kRetire b
  | _ => .kProgram b

/-- A block of a send goes on its way (R281): in a packet to each named keeper of another chip, and, once these are acknowledged, to this package's, under a number of its own. A lost keeper parks the command; once its handler has resumed it, it goes on without that one, unless no other is named (R282, R295; log 102). -/
def State.sendBlock (s : State) (core : Nat) (x : XCmd) (ch : Chunk) : State :=
  let own := x.keepers.contains Config.chip
  let far := x.keepers.filter (· != Config.chip)
  let live := far.filter (fun c => !s.chipLost c)
  let go (s : State) (f : Chunk → Chunk) : State := s.modChunk core x.id ch.no f
  if ch.phase = 0 then
    if live.length < far.length && (!x.acted || (live.isEmpty && !own)) then s.dropChunk core x ch .peerLost (xNums x.instr).1
    else
      let b := ksendBlock s core x ch
      let r := live.foldl (fun (acc : State × List Nat) c =>
        (acc.1.sendPacket (s.fjob core) c (blockCargo b (acc.1.peer c).nextSeq), acc.2 ++ [acc.1.nextCode c])) (s, [])
      go r.1 (fun f => { f with phase := 1, acks := if s.portShut (s.fjob core) then [] else r.2, bytes := some b.payload })
  else if ch.phase = 1 && own then
    go s (fun f => { f with phase := 2, acks := [] })
  else if ch.phase = 1 then s.landCmd core x.id ch.no
  else
    -- a number of the pair of this chip with itself; a block that is tried again keeps it
    let (s, ch) := if ch.acks.isEmpty then
        let q := s.peer Config.chip
        let code := s.nextCode Config.chip
        (go (s.setPeer { q with nextSeq := (q.nextSeq + 1) % 2 ^ 32 }) (fun f => { f with acks := [code] }), { ch with acks := [code] })
      else (s, ch)
    s.soon [keeperEvent (x.data.headD 0) (ksendBlock s core x ch)]

/-! ## Objects (R191, R202, R208, R361) -/

/-- The object of a command or list entry is incremented: in the package, or by a SIGNAL whose number is awaited; the cause with which it must park otherwise (R315). -/
def State.bumpObject (s : State) (core : Nat) (x : XCmd) (img : W64) (n : Nat) : Except Cause (State × List Nat) :=
  let pj := s.jobOf core
  match objHome s core img with
  | some k =>
    if !isPeerKey k then
      match s.increment pj.1 pj.2 k n x.joins x.pc with
      | some s => .ok (s, [])
      | none => .error .nolease
    else if s.chipLost (peerOf k) then .error .peerLost
    else .ok (s.sendAll (s.fjob core) [(peerOf k, .signal k n)])
  | none => .ok (s.eventJob pj.1 pj.2 { Report.of .objDrop with pc := x.pc }, [])

/-- What a command adds to its object at its retirement: `XSIG` its amount, and `XKFETCH` nothing more (R206, R211). -/
def XCmd.amount (x : XCmd) : Nat :=
  match x.instr with
  | .xsig .. | .xsigF .. => x.data.headD 0
  | .xkfetch .. => 0
  | _ => 1

/-- The object of a command that is complete is incremented, by `XMCAST` at every destination (R202). -/
def State.bumpCmd (s : State) (core : Nat) (x : XCmd) : Except Cause (State × List Nat) :=
  match x.instr with
  | .xmcast .. =>
    let far := (x.data.filter (· != Config.chip)).eraseDups
    let k := (objHome s core x.obj).getD 0
    if far.any s.chipLost then .error .peerLost
    else if x.data.contains Config.chip && !isPeerKey k then
      (s.bumpObject core x x.obj 1).map (fun r => r.1.sendAll (s.fjob core) (far.map (fun c => (c, .signal k 1))))
    else .ok (s.sendAll (s.fjob core) (far.map (fun c => (c, .signal k 1))))
  | _ => if x.amount = 0 then .ok (s, []) else s.bumpObject core x x.obj x.amount

/-- Objects at other chips that a command has incremented, with the amounts. -/
def farObjects (s : State) (core : Nat) (x : XCmd) : List (Nat × Nat) :=
  let at_ (img : W64) (n : Nat) : List (Nat × Nat) := match objHome s core img with
    | some k => if isPeerKey k then [(k, n)] else []
    | none => []
  match x.instr with
  | .xpref _ => (prefOrder x.data).flatMap (fun e => if e.ob then at_ e.img 1 else [])
  | .xmcast .. => if !x.ob then [] else ((x.data.filter (· != Config.chip)).eraseDups).map (fun c => (keyAtChip ((objHome s core x.obj).getD 0) c, 1))
  | .xkfetch _ _ _ _ n => if x.ob then at_ x.obj (n.toNat + 1) else []
  | _ => if x.ob then at_ x.obj x.amount else []

/-- The other chips have acknowledged a command's increments: the model's account of their memory follows (log 98). -/
def State.farDone (s : State) (core : Nat) (x : XCmd) : State :=
  if x.again || s.portShut (s.fjob core) then s
  else (farObjects s core x).foldl (fun (s : State) e => s.addObject e.1 e.2 x.joins) s

/-- The next entry of a prefetch list that is complete increments its object (R208); one that may not parks the command (R315). -/
def State.bumpEntry (s : State) (core cmd : Nat) : State :=
  match (s.core core).cmd cmd with
  | none => s
  | some x =>
    match x.instr with
    | .xpref _ =>
      match (prefOrder x.data).zipIdx.find? (fun e => (x.entAt e.2).pp == e.1.chunks && !x.entOver e.2 e.1) with
      | none => s
      | some (e, i) =>
        match s.bumpObject core x e.img 1 with
        | .ok (s, codes) => s.modCmd core cmd (fun y => { (y.setEnt i { y.entAt i with bumped := true }) with acks := y.acks ++ codes })
        | .error c => s.parkCmd core x c (xNums x.instr).1 0 0
    | _ => s

/-! ## Landing (R194, R198) -/

/-- A chunk whose packets are acknowledged writes its destination, and its leases are released. -/
def State.landNow (s : State) (core : Nat) (x : XCmd) (ch : Chunk) : State :=
  let s := s.captureSource core ch
  let (s, x) := landChunk s core x ch
  let s := (s.hold ch.leases false).modCmd core x.id (fun _ => x.landed ch.no)
  ((s.bumpEntry core x.id).raisePark core x.id).stir core

/-- A chunk goes on: the LOADs of a far source; then, with the source's bytes read, what far destinations take; then it lands (R194, R202). -/
def State.moveOn (s : State) (core : Nat) (x : XCmd) (ch : Chunk) : State :=
  let gone := ((farPieces ch.src ++ farPieces ch.dst).any (fun p => s.chipLost (peerOf p.1)))
  if gone && ch.phase < 2 then s.dropChunk core x ch .peerLost (if (farPieces ch.dst).isEmpty then (xNums x.instr).2 else (xNums x.instr).1)
  else if ch.phase = 0 && !(farPieces ch.src).isEmpty then
    let (s, codes) := s.sendLoads core x ch
    s.modChunk core x.id ch.no (fun f => { f with phase := 1, acks := codes })
  else if ch.phase < 2 && !(farPieces ch.dst).isEmpty then
    let src := sideBytes s core x ch.src
    let (s, codes) := s.sendStores core x ch src
    s.modChunk core x.id ch.no (fun f => { f with phase := 2, acks := codes, bytes := some src })
  else s.landNow core x ch

/-- CHUNK_LAND (R194, R198): a chunk in flight goes on, once it may and what it awaits is acknowledged; a refused one ends without landing, and parks its command (R194). -/
def execChunkLand (core cmd chunk : Nat) (s : State) : Out :=
  match (s.core core).cmd cmd with
  | none => .next s
  | some x =>
    match x.flight.find? (fun f => f.no == chunk) with
    | none => .next s
    | some ch =>
      if s.acOf core < ch.due then .next s
      else
        match ch.refused with
        | some c => .next (s.dropChunk core x ch c (xNums x.instr).1)
        | none =>
          if ch.acks.any s.unacked then .next s
          else
            match x.instr with
            | .xksend .. => .next (s.sendBlock core x ch)
            | _ => .next (s.moveOn core x ch)

/-! ## Retirement (R191) -/

/-- A packet that a command awaits was sent to a chip that has been lost, and was not acknowledged. -/
def XCmd.unheard (s : State) (x : XCmd) : Bool := x.acks.any (fun c => s.chipLost (c / 2 ^ 32))

/-- The action that completes a command at its destination is done, apart from its object. -/
def XCmd.complete (s : State) (core : Nat) (x : XCmd) : Bool :=
  x.parked.isNone && x.flight.isEmpty &&
  (match x.instr with
   | .xnop | .xsig .. => true
   | .xsigF .. => ((s.core core).xcmds.takeWhile (fun y => y.id != x.id)).isEmpty
   | .xdecl .. | .xcoll .. | .xkfetch .. | .xinv .. => x.acted
   | .xkparam .. => x.acted && !x.acks.any s.unacked
   | .xpref _ => (prefOrder x.data).zipIdx.all (fun e => x.entOver e.2 e.1)
   | _ => x.allLanded)

/-- A command leaves the list; its tokens are pushed, its flags and maximum are in place, its log entry is marked. The last one ends the wait of an `XDRAIN` 1 ac later (R206). -/
def State.dropCmd (s : State) (core : Nat) (x : XCmd) : State :=
  let s := s.modCore core (fun c =>
    let c := c.push .x x.signal
    let mark (l : List (W64 × XCmd × Bool)) : List (W64 × XCmd × Bool) :=
      l.map (fun e => if e.2.1.id = x.id then (e.1, x, true) else e)
    { c with
      csr := { (c.csr.noteAmax .x x.amax x.amaxNan) with fflags := orFlags (c.csr.noteAmax .x x.amax x.amaxNan).fflags .x x.flags }
      copy := { c.copy with cmds := c.copy.cmds.filter (fun y => y.id != x.id), log := mark c.copy.log, replay := mark c.copy.replay } })
  let s := if (s.core core).xcmds.isEmpty && (s.core core).x.wait.kind == .xdrain then s.after core 1 (.instructionRetire core .x 0) else s
  match (s.core core).health.recovering with
  | some r => if x.refetch && !(s.core core).copy.cmds.any (·.refetch) then s.endRollback core r else s
  | none => s

/-- X_RETIRE (R191): each named dowel has room, the object is incremented once, what it sent is acknowledged, and the tokens are pushed. A chip lost meanwhile parks the command (R202); the constants of one that has resumed pass over it (log 102). -/
def execXRetire (core cmd : Nat) (s : State) : Out :=
  let s := s.bumpEntry core cmd
  match (s.core core).cmd cmd with
  | none => .next s
  | some x =>
    let c := s.core core
    let passed : Bool := match x.instr with
      | .xkparam .. => x.bumped
      | _ => false
    if !x.complete s core || !c.xRoom x.signal then .next s
    else if x.unheard s && !passed then .next (s.parkCmd core x .peerLost (xNums x.instr).1 0 0)
    else if x.bumped || x.again || !x.ob then
      .next (if x.acks.any s.unacked then s else (s.farDone core x).dropCmd core x)
    else
      match s.bumpCmd core x with
      | .error e => .next (s.parkCmd core x e 0 0 0)
      | .ok (s, []) => .next (s.dropCmd core x)
      | .ok (s, codes) => .next (s.modCmd core cmd (fun y => { y with bumped := true, acks := y.acks ++ codes }))

/-! ## Invalidation (R209, R345 to R347) -/

/-- A walk that failed for a parked command would succeed now. -/
def State.mended (s : State) (core : Nat) (y : XCmd) (r : Report) : Bool :=
  let pj := s.jobOf core
  let coll : Bool := match y.instr with
    | .xcoll .. => true
    | _ => false
  (walk s pj.1 pj.2 r.detail (!coll && r.trec != (xNums y.instr).1) (!coll && r.trec == (xNums y.instr).1)).isSome

/-- A command that is parked with WALK walks again (R346): where it succeeds it resumes; an `XDECL` walks its ranges from their start. -/
def State.rewalkCmd (s : State) (core : Nat) (y : XCmd) (r : Report) : State :=
  if !s.mended core y r then s
  else match y.instr with
    | .xdecl .. => s.declare core y true
    | _ => s.modCmd core y.id (fun y => { y with parked := none, raised := false })

/-- An invalidation is acknowledged (R209, R345): the TLBs have lost the range, the generation rises, and parked walks that the range covers, at whatever page size, try again (R346, R347). -/
def State.invDone (s : State) (asid : BitVec 16) (base len : Nat) : State :=
  let gen := spGet 0 s.asidGen asid.toNat
  let s := s.flushTlbs asid.toNat base len
  let s := { s with asidGen := spPut 0 s.asidGen asid.toNat (gen + 1) }
  -- the page that holds an address, by its leaf where it has one
  let covers (core va : Nat) : Bool :=
    let pj := s.jobOf core
    let m := match walk s pj.1 pj.2 va false false with
      | some l => pageSize l.size
      | none => 2 ^ 18
    let lo := va / m * m
    lo < base + len && base < lo + m
  let one (s : State) (e : Nat × Core) : State := e.2.copy.cmds.foldl (fun (s : State) y => match y.parked with
    | some r => if r.cause == .walk && covers e.1 r.detail then s.rewalkCmd e.1 y r else s
    | none => s) s
  (s.ofAsid asid).foldl one s

/-- XINV_ACK (R209, R345): once every chunk that resolved through an old translation has landed, the invalidation is acknowledged; then the command retires. -/
def execXinvAck (core cmd : Nat) (s : State) : Out :=
  match (s.core core).cmd cmd with
  | none => .next s
  | some x =>
    match x.instr with
    | .xinv _ asid =>
      let base := tBase x.ra
      let len := tExtent x.ra
      let now := s.through asid base len
      if x.acted || x.data.any (fun n => now.contains n) then .next s
      else .next ((s.invDone asid base len).modCmd core cmd (fun y => { y with acted := true }))
    | _ => .next s

/-- The hypervisor core invalidates a range of a valid job's ASID (R347). -/
def State.hyperInvalidate (s : State) (asid : BitVec 16) (base len : Nat) : State :=
  match s.jobs.find? (fun e => e.2.valid && e.2.asid == asid) with
  | some e =>
    let s := s.invalidate (e.1 / 1024) asid base len
    { s with hyperInvs := s.hyperInvs ++ [⟨asid, base, len, s.through asid base len⟩] }
  | none => s

/-- Such an invalidation acknowledges, once its drain is over (R209). -/
def State.hyperAck (s : State) (n : Nat) : State :=
  match s.hyperInvs[n]? with
  | some v =>
    if v.waits.any (fun m => (s.through v.asid v.base v.len).contains m) then s
    else
      let s : State := { s with hyperInvs := s.hyperInvs.eraseIdx n }
      s.invDone v.asid v.base v.len
  | none => s

end Sys2Proof.Machine
end

