-- ==== Sys2Proof/Machine/Link.lean ====
section
/-! DEFINITION. The Bexfer link at the receiver: the sequence rule, and what an acknowledgement or a refusal sets going (R274, R194, R206). -/

namespace Sys2Proof.Machine

/-- The `SIGO`s whose acknowledgement has come retire (R96). -/
def State.signalled (s : State) : State :=
  s.cores.foldl (fun (s : State) e => e.2.flights.foldl (fun (s : State) f => match f.effects with
    | [.acked code _ _] => if s.unacked code then s else s.soon [.instructionRetire e.1 f.eng f.id]
    | _ => s) s) s

/-- Commands of every core, those of saved units too. -/
def State.mapCmds (s : State) (f : XCmd → XCmd) : State :=
  let on (c : Core) : Core := { c with copy := { c.copy with cmds := c.copy.cmds.map f } }
  { s with
    cores := s.cores.map (fun e => (e.1, if e.2.copy.cmds.isEmpty then e.2 else on e.2))
    saves := s.saves.map (fun v => { v with ctx := on v.ctx }) }

/-- Commands and their chunks await no packet of a chip that the chip has answered. -/
def State.answered (s : State) (chip : Nat) : State :=
  let awaits (c : Nat) : Bool := c / 2 ^ 32 != chip || s.unacked c
  s.mapCmds (fun x => { x with
    acks := x.acks.filter awaits
    flight := x.flight.map (fun f => { f with acks := f.acks.filter awaits }) })

/-- A chip acknowledges the `n` oldest packets that it has not acknowledged. -/
def State.acknowledged (s : State) (chip n : Nat) : State :=
  if chip = Config.chip || s.chipLost chip then s
  else
    let s : State := { s with peers := s.peers.map (fun q => if q.chip = chip then { q with unacked := q.unacked.drop n } else q) }
    ((s.heardFrom chip).answered chip).signalled

/-- A chunk that waits for a packet learns that it is refused (R194). -/
def XCmd.refuse (x : XCmd) (hit : Nat → Bool) (cause : Cause) : XCmd :=
  { x with flight := x.flight.map (fun f => if f.acks.any hit then { f with refused := some (f.refused.getD cause) } else f) }

/-- A chip refuses a packet, or a switch cannot reach it (R194, R276). -/
def State.refusedBy (s : State) (chip seq : Nat) (cause : Cause) : State :=
  let code := chip * 2 ^ 32 + seq % 2 ^ 32
  if chip = Config.chip || !s.unacked code || !(cause == .expiry || cause == .reclaimed || cause == .nolease || cause == .peerLost) then s
  else
    let s := (s.mapCmds (fun x => x.refuse (· == code) cause)).unawait chip (seq % 2 ^ 32)
    ((s.heardFrom chip).answered chip).signalled

/-- What the sequence rule makes of a packet (R274). -/
inductive Arrival where
  /-- accepted -/
  | taken
  /-- held until the packets before it have come -/
  | held
  /-- a duplicate of an accepted packet, or a link error that the link layer mends -/
  | dropped
  deriving DecidableEq, Repr, Inhabited

/-- The rule of R274 on a packet's number. -/
def seqRule (n e : Nat) : Arrival :=
  let d := (n + 2 ^ 32 - e) % 2 ^ 32
  if d = 0 then .taken else if d ≤ 4095 then .held else .dropped

/-- Entries of a list (R276): chip and number. -/
def pkEntries (p : Packet) : List (Nat × Nat) :=
  (upto 0 (pkList p.hdr)).map (fun i =>
    let v := ofBytes ((p.payload.drop (8 * i)).take 8)
    (fldN v 32 12, fldN v 0 32))

/-- The packet's data after its list. -/
def pkData (p : Packet) : List Byte := p.payload.drop (8 * pkList p.hdr)

/-- The numbers of this package's entries in a list. -/
def ownEntries (p : Packet) : List Nat := ((pkEntries p).filter (fun e => e.1 == Config.chip)).map (·.2)

/-- The sequence number of a held packet: of a list, that of this package's first entry. -/
def heldSeq (i : Instr) : Nat :=
  match i with
  | .reduceLoad p => (ownEntries p).headD 0
  | .pktStore p | .pktLoad p | .pktAtom p | .pktSignal p | .mcastStore p => pkSeq p.hdr
  | .kGrad b | .kSetup b | .kPromote b | .kResume b | .kRetire b | .kProgram b | .kweights b => pkSeq b.hdr
  | _ => 0

/-- A packet whose number is not the next expected: held, or discarded. -/
def State.notTaken (s : State) (h : BitVec 512) (i : Instr) : State :=
  let q := s.peer (pkSrc h)
  if seqRule (pkSeq h) q.expect = .held && !q.held.any (fun k => heldSeq k == pkSeq h) then s.setPeer { q with held := q.held ++ [i] } else s

/-- A packet is accepted (R274): the number rises, held packets that follow come next, and a job under capture logs it, header flit and payload (R273, R381). -/
def State.accept (s : State) (h : BitVec 512) (payload : List Byte) (poison : List Nat) : State :=
  let q := s.peer (pkSrc h)
  let e := (q.expect + 1) % 2 ^ 32
  let nx := q.held.filter (fun k => heldSeq k == e)
  let s := (s.setPeer { q with expect := e, held := q.held.filter (fun k => heldSeq k != e), heard := s.tick }).soon nx
  let (p, j) := pkJob h
  s.capture p j ⟨1, pkSrc h, pkSeq h, pkAddr h, pkType h, 0, toBytes 64 h.toNat ++ payload, poison.map (· + 1)⟩

/-- A packet for this package from another chip, of a job of this package whose inbound traffic is not withheld (R273, R382). -/
def State.forUs (s : State) (h : BitVec 512) : Bool :=
  let (p, j) := pkJob h
  pkSrc h != Config.chip && (pkDst h == Config.chip || pkDst h == 0xFFF) && !(s.peer (pkSrc h)).lost &&
    !s.captures.any (fun c => c.part == p && c.job == j && c.replay)

/-- The job that FJOB names is a job of this package. -/
def State.ourJob (s : State) (h : BitVec 512) : Bool := let (p, j) := pkJob h; (s.job p j).valid

end Sys2Proof.Machine
end

