-- ==== Sys2Proof/Machine/Work.lean ====
section
/-! DEFINITION. Units, launches and graphs as wholes: records, readiness, leaving a core, publication, cancellation (R35 to R56, R245, R305). -/

namespace Sys2Proof.Machine

/-! ## Launch records and unit-launch blocks (R38, R47) -/

/-- IMAGE -/
def lrImage (r : BitVec 512) : Nat := bits r 460 52
/-- ARG -/
def lrArg (r : BitVec 512) : Nat := bits r 408 52
/-- DONEOBJ of a launch record -/
def lrDone (r : BitVec 512) : Nat := bits r 356 52
/-- IMGLEN -/
def lrLen (r : BitVec 512) : Nat := bits r 340 16
/-- IMGOFF -/
def lrOff (r : BitVec 512) : Nat := bits r 326 14
/-- ENTRY -/
def lrEntry (r : BitVec 512) : Nat := bits r 309 17
/-- TERM -/
def lrTerm (r : BitVec 512) : Nat := bits r 285 24
/-- NUNITS + 1 -/
def lrUnits (r : BitVec 512) : Nat := bits r 274 11 + 1
/-- NPRED -/
def lrPred (r : BitVec 512) : Nat := bits r 255 8
/-- NSUCC -/
def lrNsucc (r : BitVec 512) : Nat := bits r 252 3
/-- SUCCn -/
def lrSucc (r : BitVec 512) (n : Nat) : Nat := bits r (240 - 12 * n) 12

/-- A launch record that the graph unit takes (R38). -/
def lrLegal (r : BitVec 512) : Bool :=
  bits r 0 204 == 0 && lrNsucc r ≤ 4 && 1 ≤ lrLen r && lrLen r ≤ 16384 && lrOff r + lrLen r ≤ 16384 && lrDone r % 8 == 0

/-- A unit-launch block that `ENQR` takes (R47, R48). -/
def blockLegal (r : BitVec 512) : Bool :=
  lrLegal r && bits r 274 11 == 0 && bits r 255 8 == 0 && bits r 252 3 == 0 && bits r 204 48 == 0

/-! ## Units of a launch -/

/-- A unit changed. -/
def State.modUnit (s : State) (l n : Nat) (f : Unit_ → Unit_) : State :=
  { s with units := s.units.map (fun u => if u.launch = l && u.no = n then f u else u) }

/-- A launch changed. -/
def State.modLaunch (s : State) (id : Nat) (f : Launch → Launch) : State :=
  { s with launches := s.launches.map (fun l => if l.id = id then f l else l) }

/-- Units of a launch. -/
def State.unitsOf (s : State) (l : Nat) : List Unit_ := s.units.filter (fun u => u.launch == l)

/-- A unit that has halted or been cancelled. -/
def Unit_.gone (u : Unit_) : Bool := u.state == .halted || u.state == .cancelled

/-- Every unit of a launch has halted or been cancelled, and its placed units exist, unless it was cancelled before it was ready (R50). -/
def State.launchOver (s : State) (l : Launch) : Bool :=
  let us := s.unitsOf l.id
  us.all Unit_.gone && (l.cancelled || lrUnits l.record ≤ (us.filter (fun u => u.block.isNone)).length)

/-- A launch is ready (R39): its placed units wait for cores. -/
def State.launchReady (s : State) (l : Launch) : State :=
  let mk (n : Nat) : Unit_ := ⟨l.id, n, .waiting, 0, none, none, 0, lrOff l.record, lrLen l.record⟩
  { s with units := s.units ++ (upto 0 (lrUnits l.record)).map mk }

/-! ## Leaving a core -/

/-- The arbiter for placement of a partition on a die (R302). -/
def placerIx (p core : Nat) : Nat := p * 4 + dieOf core

/-- `Cap(j)` for placement (R301): the largest cost is SLICE. -/
def State.placeCap (s : State) (p j : Nat) : Nat :=
  let sl := (s.part p).slice.toNat
  max (4 * (s.job p j).wdisp.toNat * sl) sl

/-- The credit of R305 when a unit leaves its core: unused slice ticks and the clock that its die lost. -/
def State.creditSlice (s : State) (core : Nat) : State :=
  let pj := s.jobOf core
  let q := (s.core core).seat
  let ticks := s.tick - q.sliceTick
  let lost : Int := 940 * (ticks : Int) - ((s.acOf core - q.sliceAc : Nat) : Int)
  let gain : Int := (((s.part pj.1).slice.toNat - ticks : Nat) : Int) + lost / 940
  let ix := placerIx pj.1 core
  let a := spGet Arbiter.zero s.placers ix
  let d := min (spGet 0 a.d pj.2 + gain) (s.placeCap pj.1 pj.2 : Int)
  { s with placers := spSet s.placers ix { a with d := spPut 0 a.d pj.2 d } }

/-- A core with no unit: its queue, its error state and its numbering stay. -/
def Core.vacant (c : Core) : Core :=
  { Core.reset with
    seat := { Core.reset.seat with queue := c.seat.queue }
    health := { c.health with recovering := none, refetching := false }
    nextId := c.nextId }

/-- A core that a unit has left: its registers and tables stand until a unit is placed there (R40). -/
def Core.left (c : Core) : Core :=
  { c.vacant with
    regs := c.regs, csr := c.csr, vec := c.vec, dict := c.dict, hot := c.hot
    mat := { c.vacant.mat with
      a := c.mat.a, int32 := c.mat.int32, chkOn := c.mat.chkOn, rho := c.mat.rho, gam := c.mat.gam, shadow := c.mat.shadow } }

/-- A unit leaves its core (R305). -/
def State.leaveCore (s : State) (core : Nat) : State := (s.creditSlice core).modCore core Core.left

/-- Waits that a core's streams have counted in leases end (R358). -/
def State.uncount (s : State) (core : Nat) : State :=
  let pj := s.jobOf core
  let c := s.core core
  let one (s : State) (k : Option Nat) : State := match k with
    | some k => s.waiter pj.1 pj.2 k false
    | none => s
  let s := one (one s c.ctl.countedC) c.ctl.countedX
  s.modCore core (fun c => { c with ctl := { c.ctl with countedC := none, countedX := none } })

/-! ## Publication (R245) -/

/-- A phase boundary of a launch: its staged stores are published. -/
def State.publish (s : State) (l : Nat) : State :=
  let mine (p : PlainStore) : Bool := p.pub == 0 && p.launch == l
  let n := s.pubCount + 1
  { s with
    pubCount := n
    stores := s.stores.filter (fun p => !mine p) ++ (s.stores.filter mine).map (fun p : PlainStore => { p with pub := n }) }
  |>.modLaunch l (fun la => { la with pubs := la.pubs ++ [n] })

/-- Chunk `c` of a command has landed. -/
def XCmd.isLanded (x : XCmd) (c : Nat) : Bool :=
  match x.instr with
  | .xpref _ =>
    match prefAt (prefOrder x.data) 0 c with
    | some (i, _, k) => let q := x.entAt i; landedAt q.pp q.lb k
    | none => true
  | _ => landedAt x.pp x.lb c

/-- The destination of a chunk lies in the core itself, where nothing is staged (R204); `core`: that of a resident unit. -/
def State.inCore (s : State) (core : Option Nat) (x : XCmd) (c : Nat) : Bool :=
  let spm : Bool := match x.instr with
    | .xpref _ => ((prefAt (prefOrder x.data) 0 c).map (fun e => e.2.1.dkind == 1)).getD false
    | _ => tBkind x.ra ≤ 1
  spm || (match core with
    | none => false
    | some n =>
      let own (ps : List (Option Nat × Nat)) : Bool := ps.all (fun p => match p.1 with
        | some k => isOwnKey n k
        | none => true)
      match x.flight.find? (fun f => f.no == c) with
      | some f => own f.dst
      | none => match resolveChunk s n x c with
        | .ok (d, _) => own d.pieces
        | .error _ => false)

/-- Every plain chunk of a command has landed in the stage (R56, R204). -/
def State.landedPlain (s : State) (core : Option Nat) (x : XCmd) : Bool :=
  (upto 0 x.chunks).all (fun c => !x.plain c || x.isLanded c || s.inCore core x c)

/-- Every plain store that a launch's X engines accepted has landed in its stage, those of saved units too (R56). -/
def State.plainLanded (s : State) (l : Nat) : Bool :=
  s.cores.all (fun e => (e.2.seat.unit.map (·.1)) != some l || e.2.copy.cmds.all (s.landedPlain (some e.1))) &&
  s.saves.all (fun v => v.launch != l || v.cancelled || v.ctx.copy.cmds.all (s.landedPlain none))

/-! ## Rest (R51, R313) -/

/-- A command whose chunks are blocks for a keeper, which may be withdrawn until they are taken (R313). -/
def XCmd.sends (x : XCmd) : Bool :=
  match x.instr with
  | .xksend .. => true
  | _ => false

/-- Issued instructions, the current step of M, started chunks, a lease instruction and dictionary loads of the unit on a core are complete, and no command word awaits its acceptance (R371). -/
def Core.calm (c : Core) : Bool :=
  c.flights.isEmpty && c.copy.issuing.isNone && c.copy.cmds.all (fun x => x.flight.isEmpty || x.sends) && c.ctl.loads.isEmpty &&
  c.c.wait.kind != .lease && c.c.wait.due.isNone && c.mat.stepping.isNone && c.mat.ops.all (fun o => !o.ending)

/-- Nothing that the unit on a core issued is still on its way, packets that await their acknowledgement and a sweep among it. -/
def Core.quiet (c : Core) : Bool :=
  c.calm && c.copy.cmds.all (fun x => x.acks.isEmpty || x.parked.isSome) && !(c.sweep.isSome && c.seat.cancelling && c.v.run == .running)

/-- Blocks of a core that no keeper has taken are withdrawn: their holds end, and no duplicate waits for them (R313). -/
def State.withdrawSends (s : State) (core : Nat) : State :=
  let xs := (s.core core).copy.cmds.filter XCmd.sends
  let s := xs.foldl (fun (s : State) x => x.flight.foldl (fun (s : State) f => s.hold f.leases false) s) s
  let s := s.modCore core (fun c => { c with copy := { c.copy with cmds := c.copy.cmds.map (fun x => if x.sends then { x with flight := [] } else x) } })
  let gone (d : KDup) : KDup := match d.chunk with
    | some (c, _, _) => if c = core then { d with chunk := none } else d
    | none => d
  { s with keeper := { s.keeper with
    groups := s.keeper.groups.map (fun g => { g with waiting := g.waiting.map gone })
    fetches := s.keeper.fetches.filter (fun f => f.core != core) } }

/-- The register in which a `WAITO` leaves its status, if the word is one. -/
def waitoDest? (i : Instr) : Option Nat :=
  match i with
  | .waito _ _ b => some b.toNat
  | .waitoT _ _ b _ => some b.toNat
  | _ => none

/-- The register in which a `WAITO` leaves its status. -/
def waitoDest (i : Instr) : Nat := (waitoDest? i).getD 0

/-- A `WAITO` that a unit makes when its cancel stops issue writes status 1 (R51). -/
def Core.waitoCancelled (c : Core) : Core :=
  match c.c.wait.held with
  | some (_, i) =>
    match waitoDest? i with
    | some b => (c.setS b 1).modStream .c (fun st => { st with wait := .idle, heldFrom := none, broken := none })
    | none => c
  | none => c

/-- A core's issue stops, and its unit will be cancelled when it is at rest; `by_`: the core whose `CANCEL` waits for it. -/
def State.beginCancel (s : State) (core : Nat) (by_ : Option Nat) : State :=
  let s := s.modCore core (fun c => { c.waitoCancelled with seat := { c.seat with
    stopping := true, cancelling := true, cancellers := c.seat.cancellers ++ by_.toList } })
  s.soon [.instructionRetire core .c 0]

/-- A `CANCEL` that waits retires when no unit that it cancels is left (R98). -/
def State.cancelDone (s : State) (core : Nat) : State :=
  if s.cores.any (fun e => e.2.seat.cancellers.contains core) then s
  else match s.resume core .c .cancel with
    | some (s', _) =>
      let s := s'.finish 1 1 none []
      if (s.core core).ctl.faults.isEmpty then s else s.soon [.trapEntry core]
    | none => s

/-- The completion of an enqueued unit increments its DONEOBJ (R35, R47). -/
def State.unitDone (s : State) (u : Unit_) (cancel : Bool) : State :=
  match u.block with
  | some b =>
    let pj := s.jobOfLaunch u.launch
    s.incrementDone pj.1 pj.2 (lrDone b) [] cancel
  | none => s

/-- A launch that a cancel completes (R51): its completion follows. -/
def State.cancelOver (s : State) (l : Nat) : State :=
  match s.launch l with
  | some la =>
    if !la.done && s.launchOver la then (s.modLaunch l (fun x => { x with cancelled := true })).soon [.launchComplete l] else s
  | none => s

/-- A record with STATUS and LOST. -/
def withStatus (r : BitVec 1024) (status lost : Nat) : BitVec 1024 := putBits (putBits r 1016 8 status) 1006 10 lost

/-- STATUS and LOST are written into a record in the SPM of a core (R269). -/
def State.writeStatus (s : State) (core : Nat) (x : XCmd) (status lost : Nat) : State :=
  let k := keySpm core (tBase x.ra)
  let v := withStatus (BitVec.ofNat 1024 (s.readNat k 128)) status lost
  s.writeOwn core (k + 120) (toBytes 8 (v.toNat / 2 ^ 960))

/-- The collective records of the unit on a core are cancelled: STATUS 4 (R51, R270). -/
def State.cancelRecords (s : State) (core : Nat) (u : Unit_) : State :=
  let mine (q : CollCopy) : Bool := q.launch == u.launch && q.unit == u.no
  let s := (s.colls.flatMap (fun k => k.copies.filter mine)).foldl (fun (s : State) q => match (s.core core).cmd q.cmd with
    | some x => if x.acted then s else s.writeStatus core x 4 0
    | none => s) s
  { s with colls := s.colls.map (fun k => if k.copies.any mine then { k with cancelled := true } else k) }

/-- The cancel of the unit on a core is complete (R51): its holds are released, its collective records are cancelled, its fetches are withdrawn; the core is free. -/
def State.endCancel (s : State) (core : Nat) : State :=
  match s.unitOf core with
  | none => s
  | some u =>
    let c := s.core core
    let s := (s.uncount core).withdrawSends core
    let s := (c.mat.ops.filter (fun o => o.check != 1 && o.check != 2)).foldl (fun s o => s.hold o.leases false) s
    -- STATUS 4 is written into the records of the unit before its core is free (R270)
    let s := s.cancelRecords core u
    let s := s.leaveCore core
    let s : State := { s with cores := s.cores.map (fun e =>
      (e.1, { e.2 with seat := { e.2.seat with cancellers := e.2.seat.cancellers.filter (· != core) } })) }
    let s := s.modUnit u.launch u.no (fun v => { v with state := .cancelled })
    let s := (s.unitDone u true).cancelOver u.launch
    (c.seat.cancellers.filter (· != core)).foldl State.cancelDone s

/-- The rest of `Rollback(cause)` (R371), once what was issued has completed: the snapshot is restored, and what wrote poison is fetched again first (R373). -/
def State.recover (s : State) (core : Nat) (r : Report) : State :=
  let c := s.core core
  match refetchOf c (s.ownPoison core) with
  | none => s.noRollback core r
  | some cmds =>
    if c.staleReduce then s.noRollback core r
    else
      let s := (c.mat.ops.filter (fun o => o.check != 1 && o.check != 2)).foldl (fun (s : State) o => s.hold o.leases false) s
      let old := c.nextId
      let s := s.modCore core (fun c => c.rolledBack.fetchAgain cmds)
      if cmds.isEmpty then s.endRollback core r
      else
        let pj := s.jobOf core
        let again := (s.core core).copy.cmds.filter (fun x => old ≤ x.id)
        { s with keeper := { s.keeper with fetches := s.keeper.fetches ++ again.flatMap (fetchesOf core pj.1 pj.2) } }

/-- What follows where a core has come to rest: one that is being cancelled loses its unit (R51), one that rolls back is restored (R371). -/
def State.settle (s : State) (core : Nat) : State :=
  let c := s.core core
  if c.seat.cancelling then (if c.quiet then s.endCancel core else s)
  else match c.health.recovering with
    | some r => if c.health.refetching || !c.calm then s else s.recover core r
    | none => s

/-! ## Cancelling (R51) -/

/-- Waits of a job on an object inside ranges end with cancelled status (R325). -/
def State.cancelWaitsIn (s : State) (p j : Nat) (rs : List (Nat × Nat)) : State :=
  let hit (st : Stream) : Bool :=
    (st.wait.kind == .object || st.wait.kind == .xwait) && st.wait.held.isSome && overlaps rs st.wait.obj 8
  let mark (st : Stream) : Stream := if hit st then { st with wait := { st.wait with cancelled := true } } else st
  let mine (e : Nat × Core) : Bool := e.2.seat.unit.isSome && s.jobOf e.1 == (p, j)
  let evs := s.cores.flatMap (fun e =>
    if mine e then (if hit e.2.c then [Instr.waitoEnd e.1] else []) ++ (if hit e.2.x then [Instr.xwaitEnd e.1] else []) else [])
  { s with cores := s.cores.map (fun e => if mine e then (e.1, { e.2 with c := mark e.2.c, x := mark e.2.x }) else e) }
  |>.soon evs

/-- S registers marked live at a PC of C by a unit's table (R75), from the mask that it gives. -/
def liveS (mask : Nat) : List Nat := (upto 0 32).filter (fun n => mask.testBit n)

/-- The mask of live registers of C (engine 0) or V (1) at a PC, from the live-register table in the image region at `base` (R74, R75); all where no entry matches. -/
def State.liveMask (s : State) (base eng pc : Nat) : Nat :=
  let hd := BitVec.ofNat 512 (s.readNat base 64)
  let off := bits hd 425 17
  let entries := (upto 0 (bits hd 413 12)).map (fun i => BitVec.ofNat 128 (s.readNat (base + 8 * off + 16 * i) 16))
  if off = 0 then 2 ^ 32 - 1
  else match entries.find? (fun e => bits e 92 2 == eng && bits e 111 17 ≤ pc && pc ≤ bits e 94 17) with
    | some e => bits e 16 32
    | none => 2 ^ 32 - 1

/-- The cancel of a pre-empted unit (R325): its stowed leases are vacated, its image stays; a `WAITO` that it was making has written status 1. -/
def State.cancelSaved (s : State) (v : Saved) : State :=
  let ranges := v.stowed.flatMap (fun id => ((s.lease id).map (·.ranges)).getD [])
  let s := s.cancelWaitsIn v.part v.job ranges
  let s := match v.ctx.ctl.countedC with
    | some k => s.waiter v.part v.job k false
    | none => s
  let s := match v.ctx.ctl.countedX with
    | some k => s.waiter v.part v.job k false
    | none => s
  -- the image's section 1 holds the live S registers in order (R319)
  let s := match v.waito.bind (fun b => (liveS v.sMask).idxOf? b), v.pages.head? with
    | some i, some k => s.writeHome (k + 256 + 8 * i) (toBytes 8 1)
    | _, _ => s
  let s := v.stowed.foldl (fun s id => s.endLease id .vacated) s
  { s with
    colls := s.colls.map (fun k => if k.copies.any (fun q => q.launch == v.launch && q.unit == v.unit) then { k with cancelled := true } else k)
    saves := s.saves.map (fun w => if w.lease = v.lease then { w with cancelled := true, stowed := [] } else w) }

/-- A waiting, queued, resident or saved unit is cancelled; `by_`: the core whose `CANCEL` waits for it. -/
def State.cancelUnit (s : State) (u : Unit_) (by_ : Option Nat) : State :=
  let gone (s : State) : State := ((s.modUnit u.launch u.no (fun v => { v with state := .cancelled })).unitDone u true).cancelOver u.launch
  match u.state with
  | .waiting => gone s
  | .queued =>
    gone (s.modCore u.core (fun c => { c with seat := { c.seat with
      queue := c.seat.queue.filter (fun q => !(q.2.1 == u.launch && q.2.2 == u.no)) } }))
  | .resident => s.beginCancel u.core by_
  | .saved =>
    match s.saves.find? (fun v => v.launch == u.launch && v.unit == u.no && !v.cancelled) with
    | some v => gone (s.cancelSaved v)
    | none => s
  | .halted | .cancelled => s

/-- Every unit of a launch is cancelled. -/
def State.cancelLaunch (s : State) (l : Nat) (by_ : Option Nat) : State :=
  match s.launch l with
  | some la =>
    if la.done then s
    else
      let s := s.modLaunch l (fun x => { x with cancelled := true })
      let s := (s.unitsOf l).foldl (fun s u => s.cancelUnit u by_) s
      s.cancelOver l
  | none => s

/-- Every launch of a graph is cancelled. -/
def State.cancelGraph (s : State) (q : Nat) (by_ : Option Nat) : State :=
  let s : State := { s with graphs := s.graphs.map (fun g => if g.seq = q then { g with cancelled := true } else g) }
  ((s.launches.filter (fun l => l.graph == q)).map (·.id)).foldl (fun s l => s.cancelLaunch l by_) s

/-- Every graph of a job is cancelled. -/
def State.cancelJob (s : State) (p j : Nat) (by_ : Option Nat) : State :=
  ((s.graphs.filter (fun g => g.part == p && bits g.record 464 16 == j)).map (·.seq)).foldl (fun s q => s.cancelGraph q by_) s

end Sys2Proof.Machine
end

