-- ==== Sys2Proof/Machine/Collective.lean ====
section
/-! DEFINITION. The collective engines of the I/O die: emission, application in key order, completion and loss (R262 to R272). -/

namespace Sys2Proof.Machine

/-! ## The record (R262 to R265) -/

/-- OP -/
def clOp (r : BitVec 1024) : Nat := cf r 987 3
/-- FMT -/
def clFmt (r : BitVec 1024) : Nat := cf r 982 5
/-- G -/
def clGroup (r : BitVec 1024) : Nat := cf r 970 10 + 1
/-- ME -/
def clMe (r : BitVec 1024) : Nat := cf r 960 10
/-- REL -/
def clRel (r : BitVec 1024) : Bool := cf r 955 1 == 1
/-- PERX -/
def clPerx (r : BitVec 1024) : Bool := cf r 954 1 == 1
/-- Bytes per transfer -/
def clSize (r : BitVec 1024) : Nat := (cf r 926 16 + 1) * 64
/-- SRC -/
def clSrc (r : BitVec 1024) : Nat := cf r 874 52
/-- DST -/
def clDst (r : BitVec 1024) : Nat := cf r 822 52
/-- DOBJ -/
def clObj (r : BitVec 1024) : Nat := cf r 770 52
/-- RSTR -/
def clRstr (r : BitVec 1024) : Int := sx (cf r 718 32) 32
/-- Trips of level `l`; one at a level that is not used. -/
def clTrips (r : BitVec 1024) (l : Nat) : Nat := if l ≤ cf r 980 2 then cf r (104 * l + 92) 12 + 1 else 1
/-- Innermost iterations -/
def clIters (r : BitVec 1024) : Nat := clTrips r 0 * clTrips r 1 * clTrips r 2 * clTrips r 3
/-- `il` of iteration `t`. -/
def clIndex (r : BitVec 1024) (t l : Nat) : Nat := t / ((upto 0 l).foldl (fun n k => n * clTrips r k) 1) % clTrips r l
/-- `Σ il * f(l)`. -/
def clSum (r : BitVec 1024) (t : Nat) (f : Nat → Int) : Int := (upto 0 4).foldl (fun a l => a + (clIndex r t l : Int) * f l) 0
/-- A signed field of each level. -/
def clField (r : BitVec 1024) (off n l : Nat) : Int := sx (cf r (104 * l + off) n) n
/-- The peer of iteration `t` for rank `me` (R265). -/
def clPeer (r : BitVec 1024) (t me : Nat) : Nat :=
  ((clSum r t (clField r 80 12) + sx (cf r 942 12) 12 + (if clRel r then (me : Int) else 0)) % (clGroup r : Int)).toNat
/-- Source address of iteration `t`. -/
def clFrom (r : BitVec 1024) (t : Nat) : Int := clSrc r + clSum r t (clField r 48 32)
/-- Destination address of iteration `t` for sender rank `me`. -/
def clTo (r : BitVec 1024) (t me : Nat) : Int := clDst r + clSum r t (clField r 16 32) + me * clRstr r
/-- Object of iteration `t`; none where the record names none. -/
def clObject (r : BitVec 1024) (t : Nat) : Option Int := if clObj r = 0 then none else some (clObj r + 8 * clSum r t (clField r 0 16))
/-- `i3` to `i0` of iteration `t`, 12 bits each (R273). -/
def clIter (r : BitVec 1024) (t : Nat) : Nat := (upto 0 4).foldl (fun n l => n + clIndex r t l * 2 ^ (12 * l)) 0

/-- The record of the lowest die. -/
def Coll.rec0 (k : Coll) : BitVec 1024 := (k.copies.head?.map (·.rec_)).getD 0

/-- The transfers that this package receives, in key order: iteration and sender rank (R266). -/
def Coll.expected (k : Coll) : List (Nat × Nat) :=
  let r := k.rec0
  (upto 0 (clIters r)).flatMap (fun t =>
    ((upto 0 (clGroup r)).filter (fun m => k.peers.getD (clPeer r t m) 0 == Config.chip)).map (fun m => (t, m)))

/-- Code of an expected transfer. -/
def exCode (e : Nat × Nat) : Nat := e.1 * 1024 + e.2

/-- A record by number. -/
def State.coll (s : State) (id : Nat) : Option Coll := s.colls.find? (fun k => k.id == id)
/-- A record changed. -/
def State.modColl (s : State) (id : Nat) (f : Coll → Coll) : State :=
  { s with colls := s.colls.map (fun k => if k.id = id then f k else k) }

/-! ## The commands that handed copies over -/

/-- The saved unit that a copy belongs to (R313). -/
def State.copySaved (s : State) (q : CollCopy) : Option Saved :=
  s.saves.find? (fun v => v.launch == q.launch && v.unit == q.unit && !v.cancelled)

/-- The command of a copy, on its core or in a saved context. -/
def State.copyCmd (s : State) (q : CollCopy) : Option XCmd :=
  if (s.core q.core).seat.unit = some (q.launch, q.unit) then (s.core q.core).cmd q.cmd
  else (s.copySaved q).bind (fun v => v.ctx.cmd q.cmd)

/-- A record is parked (R272): its lowest copy's command is. -/
def State.collParked (s : State) (k : Coll) : Bool :=
  match k.copies with
  | q :: _ => ((s.copyCmd q).map (fun x => x.parked.isSome)).getD false
  | [] => false

/-- A command of a saved context changed. -/
def State.modSavedCmd (s : State) (v : Saved) (id : Nat) (f : XCmd → XCmd) : State :=
  { s with saves := s.saves.map (fun w =>
    if w.lease = v.lease then { w with ctx := { w.ctx with copy := { w.ctx.copy with cmds := w.ctx.copy.cmds.map (fun x => if x.id = id then f x else x) } } } else w) }

/-- A record parks (R272): the fault goes to the copy of the lowest die; a saved unit takes it when it is restored. -/
def State.parkColl (s : State) (k : Coll) (c : Cause) (lease va : Nat) : State :=
  match k.copies with
  | [] => s
  | q :: _ =>
    match s.copyCmd q with
    | none => s
    | some x =>
      if (s.core q.core).seat.unit = some (q.launch, q.unit) then s.parkCmd q.core x c (xNums x.instr).1 lease va
      else
        match s.copySaved q with
        | some v => s.modSavedCmd v q.cmd (fun y => { y with parked := some (parkReport x c (xNums x.instr).1 lease va), raised := false })
        | none => s

/-- An event of a record is about the copy of the lowest die (R267): it goes to that unit's supervisor unit. -/
def State.eventColl (s : State) (k : Coll) (r : Report) : State :=
  match k.copies with
  | [] => s.eventJob k.part k.job r
  | q :: _ => s.post k.part ((s.launch q.launch).bind (fun la =>
      if s.jobOf la.super = (k.part, k.job) && (s.core la.super).seat.unit.isSome then some la.super else none)) r
    ⟨k.part, k.job, q.core, q.launch, q.unit⟩ true

/-- What a failed check of a piece parks with (R194, R331). -/
def State.parkStop (s : State) (k : Coll) (e : Stop) : State :=
  match e with
  | .waits => s
  | .parks c lease va => s.parkColl k c lease va
  | .xparts c va => (s.parkColl k c 0 va).xpart k.part k.job

/-- Homes of a virtual range that a record computes, or the cause of a walk that fails for one of its bytes (R196, R331); a range beyond bits [51:0] has no leaf. -/
def rangePieces (s : State) (p j : Nat) (va : Int) (n : Nat) (r w : Bool) : Except Stop (List (Nat × Nat)) :=
  if va < 0 || va + n > 2 ^ 52 then .error (.parks .walk 0 va.toNat)
  else
    match ioPieces s p j va.toNat n r w with
    | some ps => .ok ps
    | none =>
      let a := (((cutPages va.toNat n).find? (fun pc => (xlate s none p j pc.1 r w).isNone)).map (·.1)).getD va.toNat
      .error (if strays s p j a then .xparts .walk a else .parks .walk 0 a)

/-- The first of these homes that fails its lease check (R194). -/
def badHome (s : State) (p j : Nat) (ps : List (Nat × Nat)) : Option Stop :=
  ps.findSome? (fun pc => match checkHome s p j pc.1 pc.2 with
    | .error e => some e
    | .ok _ => none)

/-- Homes of a source range, each under an open lease where one is checked, or why not. -/
def checkedPieces (s : State) (p j : Nat) (va : Int) (n : Nat) : Except Stop (List (Nat × Nat)) := do
  let ps ← rangePieces s p j va n true false
  match badHome s p j ps with
  | some e => throw e
  | none => pure ps

/-- The copies of a record agree, and it keeps R268 (R267; log 107). -/
def Coll.sound (k : Coll) : Bool := collAgree k && k.copies.all (fun q => collOk q.rec_ k.peers (dieOf q.core) Config.chip)

/-! ## Emission (R265, R267, R302) -/

/-- Packets of transfers of a record that have not been acknowledged. -/
def State.collUnacked (s : State) (k : Coll) : List Packet :=
  s.peers.flatMap (fun q => if q.lost then [] else q.unacked.filter (fun p =>
    pkType p.hdr == 0 && bits p.hdr 436 16 == jobIx k.part k.job && pkTag p.hdr == clTag k.rec0))

/-- The engine may emit the record's next transfer: at most 64 are in flight (R265). -/
def State.collReady (s : State) (k : Coll) : Bool :=
  k.running && k.sound && !k.cancelled && !s.collParked k && k.emitted < clIters k.rec0 &&
    (((s.collUnacked k).map (fun p => pkIter p.hdr)).eraseDups).length < 64

/-- One element of the package's contribution (R267): the dies' elements combined in order of die, rounded once. -/
def combine (op fmt : Nat) (xs : List Nat) : Nat :=
  match xs with
  | [] => 0
  | [a] => a
  | a :: rest =>
    if op = 4 then (rest.foldl (· + ·) a) % 2 ^ 32
    else
      let step (acc : Num) (x : Nat) : Num :=
        let b := decodeFmt fmt x
        let m := if op = 1 then (nAdd false acc b).1 else (nMinMax (op == 2) acc b).1
        decodeF fmtFP32 (roundRne m).1
      (encodeFmt fmt .rne false 0 (rest.foldl step (decodeFmt fmt a))).1

/-- A range cut into packets of at most 4,096 bytes (R273). -/
def cutPackets : Nat → List (Nat × Nat) → List (Nat × Nat)
  | 0, _ => []
  | _, [] => []
  | fuel + 1, (k, n) :: ps =>
    if n ≤ 4096 then (k, n) :: cutPackets fuel ps else (k, 4096) :: cutPackets fuel ((k + 4096, n - 4096) :: ps)

/-- Poisoned granules of a list of bytes that pieces hold, from byte `off` on. -/
def hotGranules (s : State) (ps : List (Option Nat × Nat)) (off n : Nat) : List Nat :=
  (upto 0 (ceilDiv n 64)).filter (fun g => sidePoison s ps (off + 64 * g) (min 64 (n - 64 * g)))

/-- The next transfer of a record is emitted (R265): read, combined, addressed by the walk, and sent. -/
def State.emitTransfer (s : State) (k : Coll) : State :=
  let r := k.rec0
  let t := k.emitted
  let n := clSize r
  let me := clMe r
  let rank := clPeer r t me
  let chip := k.peers.getD rank 0
  let pass (s : State) : State := s.modColl k.id (fun q => { q with emitted := t + 1 })
  let resolved : Except Stop (List (List (Nat × Nat)) × List (Nat × Nat) × Nat) := do
    let srcs ← k.copies.mapM (fun q => checkedPieces s k.part k.job (clFrom q.rec_ t) n)
    let dst ← rangePieces s k.part k.job (clTo r t me) n false true
    let obj ← match clObject r t with
      | none => pure []
      | some a => rangePieces s k.part k.job a 8 true true
    pure (srcs, dst, (obj.head?.map (·.1)).getD 0)
  match resolved with
  | .error e => s.parkStop k e
  | .ok (srcs, dst, ok) =>
        let cols := srcs.map s.pieceBytes
        let bytes := match cols with
          | [a] => a
          | _ =>
            let w := contBits (clFmt r)
            let es := cols.map (unpackCodes w)
            packCodes w ((upto 0 ((es.headD []).length)).map (fun i => combine (clOp r) (clFmt r) (es.map (fun (c : List Nat) => c.getD i 0))))
        let hot (off m : Nat) : List Nat := (srcs.flatMap (fun ps => hotGranules s (ps.map (fun p => (some p.1, p.2))) off m)).eraseDups
        let parts := cutPackets (n / 64 + dst.length) dst
        let tag := clTag r
        let fj := jobIx k.part k.job
        if k.lost.contains rank then pass s
        else
          let send (acc : State × Nat) (p : Nat × Nat) : State × Nat :=
            let (s, off) := acc
            let data := (bytes.drop off).take p.2
            let bad := hot off p.2
            if chip = Config.chip then
              ({ s with heldTransfers := s.heldTransfers ++ [⟨fj, tag, clIter r t, me, p.1, ok, data, bad⟩] }, off + p.2)
            else
              let fields := 2 ^ 229 + clOp r * 2 ^ 373 + clFmt r * 2 ^ 368 + tag * 2 ^ 352 + clIter r t * 2 ^ 304 + me * 2 ^ 294
              (s.sendPacket fj chip ⟨0, p.1 % 2 ^ 52, ok % 2 ^ 52, ceilDiv data.length 64, fields, data, bad⟩, off + p.2)
          pass (parts.foldl send (s, 0)).1

/-- COLLECTIVE_EMIT (R265, R302): the engines' arbiter grants one transfer to a job, whose earliest record emits. -/
def execCollectiveEmit (rec_ : Nat) (s : State) : Out :=
  let ks := s.colls.filter s.collReady
  let head (n : Nat) : Option Coll := ks.find? (fun k => jobIx k.part k.job == n)
  let w (n : Nat) : Nat := (s.job (n / 1024) (n % 1024)).wcoll.toNat
  let d : Demand := ⟨fun n => (head n).map (fun k => clSize k.rec0 / 64), fun n => w n * 64, fun n => max (4 * w n * 64) 65536⟩
  match s.collArb.choose (ks.map (fun k => jobIx k.part k.job)) d with
  | none => .next s
  | some (n, arb) =>
    match head n with
    | some k => if k.id = rec_ then .next (State.emitTransfer { s with collArb := arb } k) else .next s
    | none => .next s

/-! ## Application (R266, R271) -/

/-- A held packet belongs to a record. -/
def Coll.owns (k : Coll) (h : HeldTransfer) : Bool := h.job == jobIx k.part k.job && h.ctag == clTag k.rec0

/-- The held packets of an expected transfer, if it has come whole. -/
def State.arrived (s : State) (k : Coll) (e : Nat × Nat) : Option (List HeldTransfer) :=
  let r := k.rec0
  let hs := s.heldTransfers.filter (fun h => k.owns h && h.iter == clIter r e.1 && h.rank == e.2 && !h.data.isEmpty)
  let rec go : List HeldTransfer → Nat → List HeldTransfer
    | [], _ => []
    | h :: hs, left => if left = 0 then [] else h :: go hs (left - h.data.length)
  let hs := go hs (clSize r)
  if hs.foldl (fun n h => n + h.data.length) 0 = clSize r then some hs else none

/-- Two ranges of `n` virtual addresses overlap. -/
def meets (a b : Int) (n : Nat) : Bool := a < b + n && b < a + n

/-- The first expected transfer that may be applied or resolved: those before it that share an element with it are done, and it has come or its rank is lost. -/
def State.applicable (s : State) (k : Coll) : Option (Nat × Nat) :=
  let r := k.rec0
  let open_ := k.expected.filter (fun e => !k.applied.contains (exCode e))
  let rec go : List (Nat × Nat) → List (Nat × Nat) → Option (Nat × Nat)
    | _, [] => none
    | before, e :: rest =>
      if (k.lost.contains e.2 || (s.arrived k e).isSome) && before.all (fun b => !meets (clTo r b.1 b.2) (clTo r e.1 e.2) (clSize r)) then some e
      else go (before ++ [e]) rest
  go [] open_

/-- One packet of a transfer applied at its destination, byte `off` of the transfer: elements in dead ranges keep their value (R271), each other takes the inline reduce or the new value (R266). -/
def State.applyPacket (s : State) (k : Coll) (va : Int) (h : HeldTransfer) : State :=
  let r := k.rec0
  let n := h.data.length
  let w := contBits (clFmt r)
  let old := s.pubBytes h.addr n
  let live (e : Nat) : Bool :=
    let b := va + (e * w / 8 : Nat)
    !k.dead.any (fun d => d.1 ≤ b && b < d.1 + d.2)
  let ls := unpackCodes w old
  let es := unpackCodes w h.data
  let out := (ls.zip es).zipIdx.map (fun p =>
    let ((l, x), e) := p
    if !live e then l
    else if clOp r = 0 then x
    else if clOp r = 4 then (l + x) % 2 ^ 32
    else (reduce1 (clOp r - 1) (clFmt r) l (decodeFmt (clFmt r) x)).1)
  -- a reduce reads the local value, and so its poison
  let keep := if clOp r = 0 then [] else (granules h.addr n).filter (fun g => s.poison.contains g)
  let s := s.writeHome h.addr (packCodes w out)
  let s := keep.foldl (fun (s : State) g => s.poisonAt (g * 64) 64) s
  h.poison.foldl (fun (s : State) g => s.poisonAt (h.addr + 64 * g) (min 64 (n - 64 * g))) s

/-- The object of an iteration is incremented (R266), unless a rank that it expects is lost (R271). -/
def State.bumpColl (s : State) (k : Coll) (e : Nat × Nat) (obj : Nat) : State :=
  let last := (k.expected.filter (fun x => x.1 == e.1)).all (fun x => x == e || k.applied.contains (exCode x))
  let lost := k.expected.any (fun x => x.1 == e.1 && k.lost.contains x.2 && !k.applied.contains (exCode x))
  if obj = 0 || k.deadIters.contains e.1 || lost || !(clPerx k.rec0 || last) then s
  else
    let drop (id : Nat) : State := s.eventColl k { Report.of .objDrop with lease := id }
    match syncLease s k.part k.job obj 8 with
    | none => drop 0
    | some (id, l) =>
      if l.stowed then (s.increment k.part k.job obj 1 [] 0).getD (drop id)
      else match leaseCheck s k.part k.job id with
        | .ok _ => s.addObject obj 1 []
        | .error _ => drop id

/-- A held transfer of a record has a key outside the expected set (R266). -/
def State.stranger (s : State) (k : Coll) : Option HeldTransfer :=
  let keys := k.expected.map (fun e => (clIter k.rec0 e.1, e.2))
  s.heldTransfers.find? (fun h => k.owns h && !h.data.isEmpty && !keys.contains (h.iter, h.rank))

/-- COLLECTIVE_APPLY (R266, R271): news of a cancelled peer makes its rank lost; a transfer outside the expected set is discarded; else the first transfer that may be applied is applied, or resolved where its rank is lost. -/
def execCollectiveApply (rec_ : Nat) (s : State) : Out :=
  match s.coll rec_ with
  | none => .next s
  | some k =>
    if !k.running || k.cancelled || s.collParked k then .next s
    else
      match s.heldTransfers.find? (fun h => k.owns h && h.data.isEmpty) with
      | some h =>
        let s : State := { s with heldTransfers := s.heldTransfers.filter (· != h) }
        .next (s.modColl k.id (fun q => { q with lost := (q.lost ++ [h.rank]).eraseDups }))
      | none =>
        match s.stranger k with
        | some h =>
          let s : State := { s with heldTransfers := s.heldTransfers.filter (· != h) }
          .next (s.modColl k.id (fun q => { q with mismatch := true }))
        | none =>
          match s.applicable k with
          | none => .next s
          | some e =>
            let r := k.rec0
            let va := clTo r e.1 e.2
            let done (s : State) : State := s.modColl k.id (fun q => { q with applied := q.applied ++ [exCode e] })
            if k.lost.contains e.2 then
              .next ((done s).modColl k.id (fun q => { q with
                dead := q.dead ++ [(va, clSize r)], deadIters := (q.deadIters ++ [e.1]).eraseDups }))
            else
              let hs := (s.arrived k e).getD []
              match badHome s k.part k.job (hs.map (fun h => (h.addr, h.data.length))) with
              | some x => .next (s.parkStop k x)
              | none =>
                -- an iteration whose elements lie in part in a dead range is dead too
                let cut := k.dead.any (fun d => d.1 < va + clSize r && va < d.1 + d.2)
                let k' := if cut then { k with deadIters := (k.deadIters ++ [e.1]).eraseDups } else k
                let r' := hs.foldl (fun (acc : State × Int) h => (acc.1.applyPacket k acc.2 h, acc.2 + h.data.length)) (s, va)
                let s := r'.1
                let s : State := { s with heldTransfers := s.heldTransfers.filter (fun h => !hs.contains h) }
                let s := (done s).modColl k.id (fun q => { q with deadIters := k'.deadIters })
                .next (s.bumpColl k' e ((hs.head?.map (·.obj)).getD 0))

/-! ## Completion (R269 to R271) -/

/-- STATUS of a record that completes now, if it does (R269, R270). -/
def State.collStatus (s : State) (k : Coll) : Option Nat :=
  if k.cancelled then some 4
  else if !k.running then none
  else if !k.sound then some 3
  -- a transfer outside the expected set that has come counts first (R266)
  else if s.collParked k || (s.stranger k).isSome then none
  else if clIters k.rec0 ≤ k.emitted && (s.collUnacked k).isEmpty && k.expected.all (fun e => k.applied.contains (exCode e)) then
    some (if k.mismatch then 3 else if k.lost.isEmpty then 1 else 2)
  else none

/-- Home of byte `i` of a saved unit's image. -/
def Saved.byteHome (v : Saved) (i : Nat) : Nat := v.pages.getD (i / 2 ^ 18) 0 + i % 2 ^ 18

/-- CSTAT of a HANDED entry of an image is written (R322). -/
def State.writeCstat (s : State) (v : Saved) (id status : Nat) : State :=
  match v.ctx.copy.cmds.findIdx? (fun x => x.id == id) with
  | none => s
  | some i =>
    let lists := (v.ctx.copy.cmds.take i).filter (fun x => match x.instr with
      | .xpref _ => true
      | _ => false)
    let base := s.readNat (v.byteHome (8 * 13 + 4)) 4 + 128 * (i + lists.length)
    let old := s.readNat (v.byteHome (base + 112)) 2
    let new := putBits (BitVec.ofNat 16 old) 5 8 status
    s.writeHome (v.byteHome (base + 112)) (toBytes 2 new.toNat)

/-- A copy's `XCOLL` is complete with a status: on its core, or in its saved image (R269, R323). -/
def State.copyDone (s : State) (q : CollCopy) (status lost : Nat) : State :=
  if (s.core q.core).seat.unit = some (q.launch, q.unit) then
    match (s.core q.core).cmd q.cmd with
    | some x => (s.writeStatus q.core x status lost).modCmd q.core q.cmd (fun y => { y with acted := true })
    | none => s
  else
    match s.copySaved q with
    | some v =>
      (s.modSavedCmd v q.cmd (fun y => { y with acted := true, data := [(withStatus q.rec_ status lost).toNat] })).writeCstat v q.cmd status
    | none => s

/-- COLLECTIVE_COMPLETE (R268 to R271): every copy takes STATUS and retires; a cancelled record tells its peers. -/
def execCollectiveComplete (rec_ : Nat) (s : State) : Out :=
  match s.coll rec_ with
  | none => .next s
  | some k =>
    match s.collStatus k with
    | none => .next s
    | some st =>
      let lost := if st = 2 then k.lost.foldl min 1023 else 0
      let r := k.rec0
      let fj := jobIx k.part k.job
      let tell := if st = 4 then (k.peers.filter (fun c => c != Config.chip && !s.chipLost c)).eraseDups else []
      let s := tell.foldl (fun (s : State) c => s.sendPacket fj c ⟨3, 0, 0, 0, 2 ^ 230 + clTag r * 2 ^ 352 + clMe r * 2 ^ 294, [], []⟩) s
      -- what a lost rank sent, and what cannot be applied any more, is discarded
      let keys := k.expected.map (fun e => (clIter r e.1, e.2))
      let mine (h : HeldTransfer) : Bool := k.owns h && (h.data.isEmpty || (st != 1 && keys.contains (h.iter, h.rank)))
      let s : State := { s with
        colls := s.colls.filter (fun q => q.id != k.id)
        heldTransfers := s.heldTransfers.filter (fun h => !mine h) }
      .next (State.startColls (k.copies.foldl (fun (s : State) q => s.copyDone q st lost) s))

end Sys2Proof.Machine
end

