-- ==== Sys2Proof/Machine/Graph.lean ====
section
/-! DEFINITION. The graph unit: posts, acceptance, completion of launches and graphs (R37 to R39, R50). -/

namespace Sys2Proof.Machine

/-! ## Graph records (R38) -/

/-- GRAPHID -/
def grId (r : BitVec 512) : Nat := bits r 480 32
/-- JOB -/
def grJob (r : BitVec 512) : Nat := bits r 464 16
/-- PRIO -/
def grPrio (r : BitVec 512) : Nat := bits r 462 2
/-- NLAUNCH + 1 -/
def grCount (r : BitVec 512) : Nat := bits r 450 12 + 1
/-- LAUNCHES -/
def grLaunches (r : BitVec 512) : Nat := bits r 396 52
/-- DONEOBJ -/
def grDone (r : BitVec 512) : Nat := bits r 344 52

/-- A graph record whose own fields are in order. -/
def grLegal (r : BitVec 512) : Bool := bits r 448 2 == 0 && bits r 0 344 == 0 && grLaunches r % 64 == 0 && grDone r % 8 == 0

/-- The job's supervisor unit and the ring learn of a graph; the identifier stands in DETAIL. -/
def State.graphEvent (s : State) (p : Nat) (r : BitVec 512) (c : Cause) (detail : Nat) : State :=
  let e := { Report.of c with detail := detail }
  if grJob r < 1024 && (s.job p (grJob r)).valid then s.eventJob p (grJob r) e
  else s.toRing p e ⟨p, grJob r, 0, 0, 0⟩ true

/-! ## Acceptance (R37 to R39) -/

/-- Entries of a partition's intake in use. -/
def State.intake (s : State) (p : Nat) : Nat := (s.graphs.filter (fun g => g.part == p)).length

/-- The launch array of a record: the records, or the address that does not walk; storage of the package that lies under no open lease of the job counts as one (R329; log 103). -/
def launchArray (s : State) (p : Nat) (r : BitVec 512) : Except Nat (List (BitVec 512)) :=
  let j := grJob r
  let n := grCount r
  let va := grLaunches r
  match (cutPages va (64 * n)).find? (fun pc => (openPieces s p j pc.1 pc.2 true false).isNone), openPieces s p j va (64 * n) true false with
  | some pc, _ => .error pc.1
  | none, ps =>
    let bs := s.pieceBytes (ps.getD [])
    .ok ((upto 0 n).map (fun i => BitVec.ofNat 512 (ofBytes ((bs.drop (64 * i)).take 64))))

/-- A graph that has no running or ready launch, and incomplete ones, is stuck (R39); once. -/
def State.checkStuck (s : State) (q : Nat) : State :=
  match s.graph q with
  | none => s
  | some g =>
    let open_ := s.launches.filter (fun l => l.graph == q && !l.done)
    if g.stuck || g.cancelled || open_.isEmpty || open_.any (fun l => l.deps == 0) then s
    else
      let s : State := { s with graphs := s.graphs.map (fun h => if h.seq = q then { h with stuck := true } else h) }
      s.graphEvent g.part g.record .graphStuck (grId g.record)

/-- A post that reaches the graph unit with room in the intake (R38, R39). -/
def State.acceptGraph (s : State) (p : Nat) (r : BitVec 512) : State :=
  let bad (detail : Nat) : State := s.graphEvent p r .recordBad detail
  if !grLegal r || 1024 ≤ grJob r || !(s.job p (grJob r)).valid then bad (grId r)
  else
    match launchArray s p r with
    | .error va => bad va
    | .ok ls =>
      if !ls.all lrLegal then bad (grId r)
      else
        let q := s.nextGraph
        let mk (e : BitVec 512 × Nat) : Launch := ⟨s.nextLaunch + e.2, q, e.2, e.1, lrPred e.1, false, false, 0, 0, [], [], []⟩
        let new := ls.zipIdx.map mk
        let s : State := { s with
          graphs := s.graphs ++ [⟨q, p, r, 0, false, false⟩]
          launches := s.launches ++ new
          nextGraph := q + 1
          nextLaunch := s.nextLaunch + ls.length }
        let s := (new.filter (fun l => l.deps == 0)).foldl State.launchReady s
        s.checkStuck q

/-- A post discarded (R37). -/
def State.postRefused (s : State) (p : Nat) : State := s.toRing p (.of .postRefused) ⟨p, 0, 0, 0, 0⟩ true

/-- A post as the graph unit takes it. -/
def State.postGraph (s : State) (p : Nat) (bs : List Byte) : State :=
  if bs.length != 64 || 256 ≤ s.intake p then s.postRefused p else s.acceptGraph p (BitVec.ofNat 512 (ofBytes bs))

/-- The post window of a partition is there (R336): the partition exists, or it is partition 0, whose window and ring stand from boot on (R380). -/
def State.hasWindow (s : State) (p : Nat) : Bool := p = 0 || (s.part p).valid

/-- What a host reads in bytes [7:0] of a line of a partition's post window (R37): the free intake entries. -/
def State.windowRead (s : State) (p : Nat) : Nat := 256 - s.intake p

/-- GRAPH_POST (R37, R381): a host write to a line of a partition's post window; a job under capture logs it, and one that runs from a log takes none (R382). -/
def execGraphPost (part line : Nat) (bytes : List Byte) (s : State) : Out :=
  -- DESIGN CHOICE: the window of a partition that does not exist takes nothing and raises nothing (log 88)
  if 64 ≤ part || 64 ≤ line || !s.hasWindow part then .next s
  else
    let j := grJob (BitVec.ofNat 512 (ofBytes bytes))
    if bytes.length = 64 && s.captures.any (fun c => c.part == part && c.job == j && c.replay) then .next s
    else
      let s := if bytes.length = 64 then s.captureHost part j 0 (part * 4096 + line * 64) bytes else s
      .next (s.postGraph part bytes)

/-! ## Completion (R39, R50) -/

/-- The counters of a completed launch's successors fall by one (R39). -/
def State.stepSuccessors (s : State) (l : Launch) : State :=
  match s.graph l.graph with
  | none => s
  | some g =>
    let r := l.record
    (upto 0 (lrNsucc r)).foldl (fun (s : State) n =>
      let i := lrSucc r n
      let stop (s : State) : State :=
        if (s.graph l.graph).any (fun g => g.cancelled) then s
        else (s.graphEvent g.part g.record .recordBad (grId g.record)).cancelGraph l.graph none
      match s.launches.find? (fun m => m.graph == l.graph && m.index == i) with
      | none => stop s
      | some m =>
        if m.deps = 0 then stop s
        else
          let s := s.modLaunch m.id (fun m => { m with deps := m.deps - 1 })
          if m.deps = 1 && !m.done && !m.cancelled then s.launchReady m else s) s

/-- A graph all of whose launches have completed: its DONEOBJ, and it leaves the intake; the job's count of graphs done goes up (R35, R37, R39). `cancel`: a cancel completed its last launch (R51). -/
def State.graphOver (s : State) (q : Nat) (cancel : Bool) : State :=
  match s.graph q with
  | none => s
  | some g =>
    if g.doneCount < grCount g.record then s.checkStuck q
    else
      let mine := s.launches.filter (fun l => l.graph == q)
      let s := s.incrementDone g.part (grJob g.record) (grDone g.record) (mine.flatMap (·.pubs)) (g.cancelled || cancel)
      let ix := jobIx g.part (grJob g.record)
      { s with
        jobs := if (spFind s.jobs ix).isSome then spSet s.jobs ix (let j := spGet Job.reset s.jobs ix; { j with graphsDone := j.graphsDone + 1 }) else s.jobs
        graphs := s.graphs.filter (fun h => h.seq != q)
        launches := s.launches.filter (fun l => l.graph != q)
        units := s.units.filter (fun u => !mine.any (fun l => l.id == u.launch)) }

/-- LAUNCH_COMPLETE (R39, R50): every unit has halted or been cancelled; the launch's stores are published, its DONEOBJ is incremented, then its successors' counters fall, and the graph may be complete. -/
def execLaunchComplete (launch : Nat) (s : State) : Out :=
  match s.launch launch with
  | none => .next s
  | some l =>
    if l.done || !s.launchOver l || !s.plainLanded launch then .next s
    else
      let s := (s.publish launch).modLaunch launch (fun l => { l with done := true })
      let pj := s.jobOfLaunch launch
      let s := s.incrementDone pj.1 pj.2 (lrDone l.record) (s.joinOf launch) l.cancelled
      let s : State := { s with graphs := s.graphs.map (fun g => if g.seq = l.graph then { g with doneCount := g.doneCount + 1 } else g) }
      .next ((s.stepSuccessors l).graphOver l.graph l.cancelled)

end Sys2Proof.Machine
end

