-- ==== Sys2Proof/Machine/Dispatcher.lean ====
section
/-! DEFINITION. The die dispatchers: which unit a free core takes, and placement (R40, R49, R74, R301 to R305). -/

namespace Sys2Proof.Machine

/-! ## Ready units (R304) -/

/-- A ready unit. -/
inductive Ready_ where
  /-- a placed unit of a launch that is ready -/
  | new (u : Unit_)
  /-- the head of a unit queue -/
  | head (u : Unit_)
  /-- a pre-empted unit -/
  | saved (v : Saved)
  deriving DecidableEq, Repr, Inhabited

/-- Launch and unit number. -/
def Ready_.ids : Ready_ → Nat × Nat
  | .new u | .head u => (u.launch, u.no)
  | .saved v => (v.launch, v.unit)

/-- The core is free for a unit: no unit, no suspicion, a quad of a partition that exists (R330, R376). -/
def State.freeFor (s : State) (core : Nat) : Option Nat :=
  let c := s.core core
  -- a quad that is being taken from its partition takes no unit (R333)
  let leaving := s.mail.any (fun m => match m with
    | .shrink p qs => s.partOfCore core == some p && qs.contains (core / 4)
    | .destroy p => s.partOfCore core == some p
    | .retire .. => false)
  if core ≥ 2048 || c.seat.unit.isSome || c.health.suspect || leaving then none
  else match s.partOfCore core with
    | some p => if (s.part p).valid then some p else none
    | none => none

/-- The ranges of leases that are stowed with a unit, moved to a core. -/
def movedRange (from_ new : Nat) (r : Nat × Nat) : Nat × Nat :=
  (if isOwnKey from_ r.1 then (if r.1 < 2 ^ 52 then keySpm new (r.1 - keySpm from_ 0) else keyMsm new (r.1 - keyMsm from_ 0)) else r.1, r.2)

/-- A pre-empted unit may be restored on a core (R316). -/
def State.fits (s : State) (v : Saved) (core : Nat) : Bool :=
  dieOf v.core == dieOf core &&
    v.stowed.all (fun id => match s.lease id with
      | some l => l.parent != 0 || !s.taken (l.ranges.map (movedRange v.core core))
      | none => true)

/-- Ready units of a partition that may wait for a core; `on`: only those that this core may take, else those that any core of the die may. -/
def State.readyUnits (s : State) (p die : Nat) (on : Option Nat) : List Ready_ :=
  let ofPart (l : Nat) : Bool := (s.jobOfLaunch l).1 == p
  let news := (s.units.filter (fun u => u.state == .waiting && ofPart u.launch)).map Ready_.new
  let heads := (s.cores.filter (fun e => dieOf e.1 == die && (match on with
      | some c => e.1 == c
      | none => true))).filterMap (fun e => match e.2.seat.queue with
    | (_, l, n) :: _ => if ofPart l then (s.unit l n).map Ready_.head else none
    | [] => none)
  let saveds := (s.saves.filter (fun v => v.part == p && !v.cancelled && (match on with
      | some c => s.fits v c
      | none => dieOf v.core == die))).map Ready_.saved
  -- the dispatcher passes over the jobs that their purse's cap holds (R356)
  (news ++ heads ++ saveds).filter (fun r => let j := s.jobOfLaunch r.ids.1; !(s.purse j.1 j.2).capped)

/-- The order within a job (R304): priority, graph, launch index, pre-empted first, unit. -/
def State.readyKey (s : State) (r : Ready_) : List Nat :=
  let (l, n) := r.ids
  let la := s.launch l
  let g := la.bind (fun x => s.graph x.graph)
  let saved := match r with
    | .saved _ => 0
    | _ => 1
  [3 - (g.map (fun g => grPrio g.record)).getD 0, (g.map (·.seq)).getD 0, (la.map (·.index)).getD 0, saved, n]

/-- Lexicographic order. -/
def lexLt : List Nat → List Nat → Bool
  | a :: as, b :: bs => a < b || (a == b && lexLt as bs)
  | _, _ => false

/-- The first of a list under the order. -/
def State.firstReady (s : State) (l : List Ready_) : Option Ready_ :=
  l.foldl (fun acc r => match acc with
    | none => some r
    | some q => if lexLt (s.readyKey r) (s.readyKey q) then some r else some q) none

/-- What the dispatcher gives a free core (R301 to R304): a unit, and the arbiter after the charge. -/
def State.dispatch (s : State) (core : Nat) : Option (Ready_ × State) :=
  match s.freeFor core with
  | none => none
  | some p =>
    let rs := s.readyUnits p (dieOf core) (some core)
    let jobOf (r : Ready_) : Nat := (s.jobOfLaunch r.ids.1).2
    let sl := (s.part p).slice.toNat
    let ix := placerIx p core
    let d : Demand := ⟨fun j => if rs.any (fun r => jobOf r == j) then some sl else none,
      fun j => (s.job p j).wdisp.toNat * sl, fun j => s.placeCap p j⟩
    match (spGet Arbiter.zero s.placers ix).choose (rs.map jobOf) d with
    | none => none
    | some (j, a) =>
      match s.firstReady (rs.filter (fun r => jobOf r == j)) with
      | some r => some (r, { s with placers := spSet s.placers ix a })
      | none => none

/-! ## Placement (R40, R74) -/

/-- A unit takes a core: its seat, its first slice, and what it may see (R245, R305). -/
def State.seatUnit (s : State) (core l n : Nat) (c : Core) (view : Nat) (joined : List Nat) : State :=
  let old := s.core core
  let p := (s.jobOfLaunch l).1
  let seat : Seat := { Core.reset.seat with
    unit := some (l, n), sliceTick := s.tick, sliceAc := s.acOf core, view := view, joined := joined
    queue := old.seat.queue.filter (fun q => !(q.2.1 == l && q.2.2 == n)) }
  (s.setCore core { c with seat := seat, health := { old.health with recovering := none, refetching := false }, nextId := max old.nextId c.nextId }).atTick
    (s.tick + (s.part p).slice.toNat) (.sliceEnd core)

/-- The image header and the live-register table of a region are in order (R74, R75). DESIGN CHOICE: an empty table whose offset lies beyond LENG reaches beyond it; the reserved bits of an entry, and a HI below its LO, are not looked at (log 89). -/
def headerOk (s : State) (base off len entry : Nat) : Bool :=
  let h := BitVec.ofNat 512 (s.readNat base 64)
  let leng := bits h 442 16
  let lm := bits h 425 17
  let n := bits h 413 12
  let entries := (upto 0 n).map (fun i => BitVec.ofNat 128 (s.readNat (base + 8 * lm + 16 * i) 16))
  8 ≤ entry && bits h 480 32 == 0x42583949 && bits h 472 8 == 1 && bits h 458 14 == off && 1 ≤ leng && leng ≤ len &&
    (lm != 0 || n == 0) && 8 * lm + 16 * n ≤ 64 * leng && bits h 0 413 == 0 &&
    entries.all (fun e => bits e 92 2 ≤ 1)

/-- The image of a launch is copied into a region (R40, R74): LENG granules, poison with them; `none` where it does not walk, or lies in the package under no open lease of the job (R329; log 103). -/
def State.copyImage (s : State) (p j va base len : Nat) : Option State :=
  match openPieces s p j va 64 true false with
  | none => none
  | some hp =>
    let h := BitVec.ofNat 512 (ofBytes (s.pieceBytes hp))
    let n := 64 * max 1 (min len (bits h 442 16))
    match openPieces s p j va n true false with
    | none => none
    | some ps =>
      let hot := (upto 0 (n / 64)).filter (fun g => sidePoison s (ps.map (fun q => (some q.1, q.2))) (64 * g) 64)
      let s := s.writeMem base (s.pieceBytes ps)
      some (hot.foldl (fun (s : State) g => s.poisonAt (base + 64 * g) 64) s)

/-- The core on which a launch's supervisor unit stands. -/
def State.launchSuper (s : State) (l : Nat) : Option Nat :=
  match s.launch l with
  | some la => if (s.core la.super).seat.unit.isSome && s.jobOf la.super = s.jobOfLaunch l then some la.super else none
  | none => none

/-- A unit that could not start counts as cancelled (R40): PLACE_FAIL goes to its supervisor unit, and the region rented for it is vacated. -/
def State.placeFail (s : State) (core : Nat) (u : Unit_) (lease : Option Nat) : State :=
  let pj := s.jobOfLaunch u.launch
  let s := match lease with
    | some id => s.vacateNow id
    | none => s
  let s := s.post pj.1 (s.launchSuper u.launch) (.of .placeFail) ⟨pj.1, pj.2, core, u.launch, u.no⟩ false
  let s := s.modCore core (fun c => { c with seat := { c.seat with queue := c.seat.queue.filter (fun q => !(q.2.1 == u.launch && q.2.2 == u.no)) } })
  (s.modUnit u.launch u.no (fun v => { v with state := .cancelled })).unitDone u true

/-- A unit is placed on a core (R40): reset registers, `S1`, C's PC; its region is rented and filled, or is the job's already. -/
def State.place (s : State) (core : Nat) (u : Unit_) : State :=
  let pj := s.jobOfLaunch u.launch
  let r := u.block.getD (((s.launch u.launch).map (·.record)).getD 0)
  let base := keySpm core (64 * lrOff r)
  let len := lrLen r
  let start (s : State) (lease : Option Nat) : State :=
    if !headerOk s base (lrOff r) len (lrEntry r) then s.placeFail core u lease
    else
      let c := (s.core core).vacant.setS 1 (BitVec.ofNat 64 (lrArg r))
      let c := { c with c := { c.c with pc := BitVec.ofNat 17 (lrEntry r), run := .running, nextAc := s.acOf core } }
      (s.seatUnit core u.launch u.no c s.pubCount []).modUnit u.launch u.no (fun v => { v with state := .resident, core := core, imgLease := lease })
  if lrImage r = 0 then
    match checkCovering s pj.1 pj.2 base (64 * len) with
    | none => start s none
    | some _ => s.placeFail core u none
  else if lrTerm r = 0 then s.placeFail core u none
  else
    let (s, st, id) := s.rent pj.1 pj.2 core 1 (64 * lrOff r) (64 * len) (lrTerm r) false
    if st != stOk then s.placeFail core u none
    else
      match s.copyImage pj.1 pj.2 (lrImage r) base len with
      | none => s.placeFail core u (some id)
      | some s => start s (some id)

/-- UNIT_PLACE (R40, R304): the unit that the dispatcher gives a free core, where it is one that has not been placed. -/
def execUnitPlace (core : Nat) (s : State) : Out :=
  match s.dispatch core with
  | some (.new u, s') | some (.head u, s') => .next (s'.place core u)
  | _ => .next s

end Sys2Proof.Machine
end

