-- ==== Sys2Proof/Machine/Fabric.lean ====
section
/-! DEFINITION. Packets and failures of the Bexfer link (R273 to R278, R271). -/

namespace Sys2Proof.Machine

/-! ## What a packet does at its home -/

/-- A packet arrives by the sequence rule (R274); one of a job that is not of this package is discarded (R273). -/
def pkArrive (s : State) (h : BitVec 512) (i : Instr) (payload : List Byte) (poison : List Nat) (act : State → State) : Out :=
  if !s.forUs h then .next s
  else if seqRule (pkSeq h) (s.peer (pkSrc h)).expect != .taken then .next (s.notTaken h i)
  else
    let s := s.accept h payload poison
    .next (if s.ourJob h then act s else s)

/-- The home of a local physical range that holds storage, under the job's covering lease; XPART where it is another partition's (R194, R202, R334). -/
def State.atHome (s : State) (p j a n : Nat) : State × Option Nat :=
  if n = 0 || !isStorage a || !isStorage (a + n - 1) then (s, none)
  else
    match checkHome s p j a n with
    | .ok _ => (s, some a)
    | .error (.xparts ..) => (s.xpart p j, none)
    | .error _ => (s, none)

/-- A response in the link layer (log 53): TYPE 8, the request's number, and data, or none where the request is refused. -/
def State.respond (s : State) (h : BitVec 512) (data : List Byte) (poison : List Nat) : State :=
  let f (v lo n : Nat) : Nat := v % 2 ^ n * 2 ^ lo
  let r := f 8 508 4 + f Config.chip 496 12 + f (pkSrc h) 484 12 + f (pkSeq h) 452 32 + f (bits h 436 16) 436 16 +
    f (ceilDiv data.length 64) 376 8
  { s with outbox := s.outbox ++ [⟨BitVec.ofNat 512 r, data, poison⟩] }

/-- An object at a physical address takes `n` (R206); 0 names none. -/
def State.objectAt (s : State) (p j a n : Nat) : State :=
  if a = 0 then s
  else if !isStorage a || !isStorage (a + 7) then s.eventJob p j (.of .objDrop)
  else (s.increment p j a n [] 0).getD (s.eventJob p j (.of .objDrop))

/-- The arriving values of a reduce at their home (R200): FP32 or INT32 words, one for each element of FMT, applied as one access each (log 53). -/
def State.reduceInto (s : State) (h : BitVec 512) (k : Nat) (data : List Byte) : State :=
  let w := contBits (pkFmt h)
  let vs := unpackCodes 32 data
  let old := unpackCodes w (s.pubBytes k (vs.length * w / 8))
  s.writeAtom k (packCodes w ((old.zip vs).map (fun p => (redInto (pkOp h - 1) (pkFmt h) p.1 p.2).1)))

/-- Bytes at its home that a STORE writes: those of its payload, or of the elements that its reduce takes. -/
def storeLen (h : BitVec 512) (data : List Byte) : Nat := if pkOp h = 0 then data.length else data.length / 4 * contBits (pkFmt h) / 8

/-- A STORE at its home: bytes or a reduce, poison, then the object. A part of a collective is held for its record (R266); one that carries constants goes to the keeper (R286). -/
def State.storeHere (s : State) (h : BitVec 512) (data : List Byte) (poison : List Nat) : State :=
  let (p, j) := pkJob h
  if pkType h = 6 then
    let v := ofBytes data
    s.addConsts ⟨p, j, pkFmt h % 16, fldN v 1024 32, (upto 0 32).map (fun i => fld v (32 * i) 32), !poison.isEmpty⟩
  else if pkColl h then
    if data.isEmpty then s
    else { s with heldTransfers := s.heldTransfers ++ [⟨jobIx p j, pkTag h, pkIter h, pkRank h, pkAddr h, pkObj h, data, poison⟩] }
  else
    let n := storeLen h data
    match s.atHome p j (pkAddr h) n with
    | (s, none) => if data.isEmpty then s.objectAt p j (pkObj h) 1 else s.respond h [] []
    | (s, some k) =>
      -- granule `g` of the payload stands for `w` bytes at the home
      let w := storeLen h (data.take 64)
      let was := if pkOp h = 0 then [] else (granules k n).filter (fun g => s.poison.contains g)
      let s := if pkOp h = 0 then s.writeHome k data else s.reduceInto h k data
      let s := was.foldl (fun (s : State) g => s.poisonAt (g * 64) 64) s
      let s := poison.foldl (fun (s : State) g => s.poisonAt (k + w * g) (min w (n - w * g))) s
      s.objectAt p j (pkObj h) 1

/-- STORE (R273). -/
def execPktStore (p : Packet) (s : State) : Out :=
  pkArrive s p.hdr (.pktStore p) p.payload p.poison (fun s => s.storeHere p.hdr p.payload p.poison)

/-- A LOAD at its home (R273): the data returns, with its poison. -/
def State.loadHere (s : State) (h : BitVec 512) : State :=
  let n := 64 * pkLen h
  match s.atHome (pkJob h).1 (pkJob h).2 (pkAddr h) n with
  | (s, some k) => s.respond h (s.pubBytes k n) ((upto 0 (pkLen h)).filter (fun g => s.poisoned (k + 64 * g) 64))
  | (s, none) => s.respond h [] []

/-- LOAD (R273). -/
def execPktLoad (p : Packet) (s : State) : Out :=
  pkArrive s p.hdr (.pktLoad p) p.payload p.poison (fun s => s.loadHere p.hdr)

/-- One atomic access of `n` bytes at a home `k` (R203): `op` on the operand `x`, and with 9 a compare with `y`; the old value returns. -/
def State.atomHere (s : State) (h : BitVec 512) (k n op x y : Nat) : State :=
  if k % n != 0 || op > 9 then s.respond h [] []
  else
    let old := s.homeNat k n
    let new := if op = 9 then (if old = y % 2 ^ (8 * n) then x % 2 ^ (8 * n) else old) else atomic op n old x
    let hot := s.poisoned k n
    (s.writeHome k (toBytes n new)).respond h (toBytes 8 old) (if hot then [0] else [])

/-- An ATOM at its home (R203): one indivisible access. The payload holds the operand at 0 and the compare value at 8; OP and the low bit of FMT make the operation, the next bit of FMT the size (log 53). -/
def State.atomOf (s : State) (h : BitVec 512) (payload : List Byte) : State :=
  let n := if pkFmt h / 2 % 2 = 1 then 8 else 4
  match s.atHome (pkJob h).1 (pkJob h).2 (pkAddr h) n with
  | (s, some k) => s.atomHere h k n (pkOp h + 8 * (pkFmt h % 2)) (ofBytes (payload.take 8)) (ofBytes ((payload.drop 8).take 8))
  | (s, none) => s.respond h [] []

/-- ATOM (R203). -/
def execPktAtom (p : Packet) (s : State) : Out :=
  pkArrive s p.hdr (.pktAtom p) p.payload p.poison (fun s => s.atomOf p.hdr p.payload)

/-- A SIGNAL at its home (R206): the object takes the payload's amount, 1 where there is none. In a collective it is the news that the sender's work was cancelled (R271). -/
def State.signalHere (s : State) (h : BitVec 512) (payload : List Byte) : State :=
  if pkCancel h then
    { s with heldTransfers := s.heldTransfers ++ [⟨jobIx (pkJob h).1 (pkJob h).2, pkTag h, 0, pkRank h, 0, 0, [], []⟩] }
  else s.objectAt (pkJob h).1 (pkJob h).2 (pkAddr h) (if payload.isEmpty then 1 else ofBytes (payload.take 8))

/-- SIGNAL (R206). -/
def execPktSignal (p : Packet) (s : State) : Out :=
  pkArrive s p.hdr (.pktSignal p) p.payload p.poison (fun s => s.signalHere p.hdr p.payload)

/-- MCAST_STORE (R276): one copy for each entry that names this package, with the entry's number, the same header and the same payload. -/
def execMcastStore (p : Packet) (s : State) : Out :=
  .next ((ownEntries p).foldl (fun (s : State) e =>
    let h := putBits (putBits p.hdr 452 32 e) 484 12 Config.chip
    let d := pkData p
    match pkArrive s h (.pktStore ⟨h, d, p.poison⟩) d p.poison (fun s => s.storeHere h d p.poison) with
    | .next s' => s'
    | _ => s) s)

/-- The elements of the homes of a REDUCE_LOAD combined in list order, unrounded (R277). -/
def reduceCols (op fmt : Nat) (cols : List (List Nat)) : List Nat :=
  (upto 0 ((cols.headD []).length)).map (fun i => (reduceList op fmt (cols.map (fun (c : List Nat) => c.getD i 0))).1)

/-- The sum of a REDUCE_LOAD returns unrounded (R277): the elements of every entry, in list order, as the LOADs have returned them. -/
def State.reduceReply (s : State) (r : Reduce) : State :=
  let n := 64 * pkLen r.hdr
  let homes := (pkEntries r.pk).map (fun q => keyAtChip r.home q.1)
  let out := reduceCols (pkOp r.hdr) (pkFmt r.hdr) (homes.map (fun a => unpackCodes (contBits (pkFmt r.hdr)) (s.pubBytes a n)))
  s.respond r.hdr (out.flatMap (toBytes 4)) (if homes.any (fun a => s.poisoned a n) then upto 0 (ceilDiv (4 * out.length) 64) else [])

/-- A REDUCE_LOAD that this package performs for a switch that does not (R277, R278): each other entry is sent a LOAD, and responses are held until all have come. -/
def State.reduceHere (s : State) (p : Packet) (h : BitVec 512) : State :=
  match s.atHome (pkJob h).1 (pkJob h).2 (pkAddr h) (64 * pkLen h) with
  | (s, none) => s.respond h [] []
  | (s, some k) =>
    let chips := ((pkEntries p).map (·.1)).filter (· != Config.chip)
    let (s, codes) := s.sendAll (bits h 436 16) (chips.map (fun c => (c, ⟨1, pkAddr h, 0, pkLen h, 0, [], []⟩)))
    let r : Reduce := ⟨p, h, k, codes⟩
    if codes.isEmpty then s.reduceReply r else { s with reduces := s.reduces ++ [r] }

/-- REDUCE_LOADs whose responses have all come are answered; one that a lost chip leaves without a response is refused. -/
def State.reducesDone (s : State) : State :=
  let (done, rest) := s.reduces.partition (fun r => !r.acks.any s.unacked)
  done.foldl (fun (s : State) r => if r.acks.any (fun c => s.chipLost (c / 2 ^ 32)) then s.respond r.hdr [] [] else s.reduceReply r) { s with reduces := rest }

/-- A chip refuses a packet (R194, R276): a chunk, or a REDUCE_LOAD that this package performs, learns of it. -/
def State.nacked (s : State) (chip seq : Nat) (cause : Cause) : State :=
  let code := chip * 2 ^ 32 + seq % 2 ^ 32
  if !s.unacked code then s
  else
    let (hit, rest) := s.reduces.partition (fun r => r.acks.contains code)
    let s := hit.foldl (fun (s : State) r => s.respond r.hdr [] []) { s with reduces := rest }
    (s.refusedBy chip seq cause).reducesDone

/-- The REDUCE_LOAD with the number of this package's entry. -/
def reduceAs (p : Packet) (s : State) (h : BitVec 512) : Out :=
  pkArrive s h (.reduceLoad p) p.payload p.poison (fun s => s.reduceHere p h)

/-- REDUCE_LOAD (R277): a second entry that names this package takes its number too. -/
def execReduceLoad (p : Packet) (s : State) : Out :=
  let as_ (e : Nat) : BitVec 512 := putBits p.hdr 452 32 e
  match ownEntries p with
  | [] => .next s
  | e :: rest =>
    match reduceAs p s (as_ e) with
    | .next s' =>
      .next (rest.foldl (fun (s : State) n =>
        if s.forUs (as_ n) && seqRule n (s.peer (pkSrc p.hdr)).expect == .taken then s.accept (as_ n) p.payload p.poison else s) s')
    | o => o

/-! ## Failures (R271, R275) -/

/-- An event of the package as a whole goes to the hypervisor's ring. -/
def State.eventPackage (s : State) (r : Report) : State := s.toRing 0 r ⟨0, 0, 0, 0, 0⟩ true

/-- LINK_DOWN (R275): the port is down; every unacknowledged packet goes out again with its number. -/
def execLinkDown (port : Nat) (s : State) : Out :=
  if 32 ≤ port || s.platform.downPorts.contains port then .next s
  else
    let s : State := { s with
      platform := { s.platform with downPorts := s.platform.downPorts ++ [port] }
      outbox := s.outbox ++ s.peers.flatMap (fun q => if q.lost then [] else q.unacked) }
    .next (s.eventPackage { Report.of .linkDown with detail := port })

/-- FLIT_CRC_ERROR (R275): the flit goes again and nothing changes its order; the sixteenth of a port in a tick takes the port down. -/
def execFlitCrcError (port : Nat) (s : State) : Out :=
  if 32 ≤ port || s.platform.downPorts.contains port then .next s
  else
    let n := spGet 0 s.platform.crcErrors port + 1
    let s : State := { s with platform := { s.platform with crcErrors := spSet s.platform.crcErrors port n } }
    .next (if n < 16 then s else s.soon [.linkDown port])

/-- PEER_LOST (R271): a chip is declared lost, when none of its flits has been accepted for 50,000 ticks or its management port reports it down; its ranks are lost to every record that runs. Chunks that await it end, and their commands park with PEER_LOST (R202, R314). -/
def execPeerLost (chip : Nat) (s : State) : Out :=
  if chip = Config.chip || 4096 ≤ chip || s.chipLost chip then .next s
  else
    let s := s.mapCmds (fun x => x.refuse (fun c => c / 2 ^ 32 == chip) .peerLost)
    let s := s.setPeer { s.peer chip with lost := true, unacked := [], held := [] }
    let ranks (k : Coll) : List Nat := (k.peers.zipIdx.filter (fun p => p.1 == chip)).map (·.2)
    let s : State := { s with colls := s.colls.map (fun k => if k.running then { k with lost := (k.lost ++ ranks k).eraseDups } else k) }
    .next ((s.eventPackage { Report.of .peerLost with detail := chip }).signalled.reducesDone)

end Sys2Proof.Machine
end

