-- ==== Sys2Proof/Machine/KeeperRun.lean ====
section
/-! DEFINITION. The keeper: blocks and commands that arrive, applications, emission, fetches, deadlines and regeneration (R279 to R295, R375). -/

namespace Sys2Proof.Machine

/-! ## Headers (R281) -/

/-- GROUP -/
def khGroup (h : BitVec 256) : Nat := bits h 230 6
/-- The program number of a PROGRAM command -/
def khProg (h : BitVec 256) : Nat := bits h 230 4
/-- BLOCK -/
def khBlock (h : BitVec 256) : Nat := bits h 210 20
/-- STEP -/
def khStep (h : BitVec 256) : Nat := bits h 178 32
/-- GFMT -/
def khFmt (h : BitVec 256) : Nat := bits h 173 5
/-- GSCALE -/
def khScale (h : BitVec 256) : Nat := bits h 141 32
/-- CONTRIB -/
def khContrib (h : BitVec 256) : Nat := bits h 129 12
/-- PCHIP -/
def khPrimary (h : BitVec 256) : Nat := bits h 85 12
/-- MCHIP -/
def khMirror (h : BitVec 256) : Nat := bits h 73 12

/-! ## Arrival (R274, R281, R287) -/

/-- Who sent a block: a chunk of an `XKSEND` of this package, or another chip. -/
inductive KFrom where
  | own (core cmd chunk : Nat)
  | far
  deriving DecidableEq, Repr, Inhabited

/-- The chunk in flight that a block of this package is. -/
def ownChunk (s : State) (b : KBlock) : Option (Nat × Nat × Nat) :=
  if pkSrc b.hdr != Config.chip then none
  else
    let core := bits b.hdr 20 12
    let cmd := bits b.hdr 32 199
    match (s.core core).cmd cmd with
    | some x => match x.instr with
      | .xksend .. => (x.flight.find? (fun ch => ksendBlock s core x ch == b)).map (fun ch => (core, cmd, ch.no))
      | _ => none
    | none => none

/-- What the keeper makes of a block or command. -/
inductive KTaken where
  /-- taken, held, discarded or refused: the sender is acknowledged -/
  | took (s : State)
  /-- a duplicate whose block's fate is awaited; the sender of this package waits for it -/
  | waits (s : State)
  /-- back-pressure: not acknowledged, though its step has been seen (R293) -/
  | back (s : State)

/-- A block or command arrives, and `body` says what becomes of it. -/
def kArrive (s : State) (b : KBlock) (i : Instr) (body : KFrom → State → KTaken) : Out :=
  match ownChunk s b with
  | some (core, cmd, chunk) =>
    match body (.own core cmd chunk) s with
    | .took s' => .next (s'.takenBlock core cmd chunk)
    | .waits s' | .back s' => .next s'
  | none =>
    if !s.forUs b.hdr then .next s
    else if seqRule (pkSeq b.hdr) (s.peer (pkSrc b.hdr)).expect != .taken then .next (s.notTaken b.hdr i)
    else
      let ok (s : State) : State := s.accept b.hdr (blockFlits b) (b.poison.map (· + 1))
      if !s.ourJob b.hdr then .next (ok s)
      else
        match body .far s with
        | .took s' | .waits s' => .next (ok s')
        | .back s' => .next s'

/-- A command of KIND 1 to 5 (R282): discarded unless the job's supervisor unit sent it; `act` answers the state and whether it was refused, or no answer while it is not finished. -/
def kCommand (s : State) (b : KBlock) (i : Instr) (num kind : Nat) (act : Nat → Nat → State → State × Option Bool) : Out :=
  kArrive s b i (fun _ s =>
    let (p, j) := pkJob b.hdr
    if !pkSuper b.hdr then .took (s.eventJob p j { Report.of .kcmdDenied with detail := kDetail (khGroup b.kh) 0 0 })
    else
      match act p j s with
      | (s', some refused) => .took (s'.kDone p j num kind refused.toNat)
      | (s', none) => .took s')

/-! ## Blocks of a group (R287) -/

/-- Poisoned granules of pieces, numbered from their start. -/
def pieceHot (s : State) (ps : List (Nat × Nat)) : List Nat :=
  (ps.foldl (fun (acc : List Nat × Nat) p =>
    (acc.1 ++ (upto 0 (ceilDiv p.2 64)).filterMap (fun i => if s.poisoned (p.1 + 64 * i) 1 then some (acc.2 / 64 + i) else none), acc.2 + p.2)) ([], 0)).1

/-- Homes of a stage slot (R279): the flit of the keeper header, then the block's data (log 100). -/
def stagePieces (s : State) (g : KGroup) (i : Nat) : Option (List (Nat × Nat)) := ioPieces s g.part g.job (gStage g.setup + 4160 * i) 4160 true true

/-- The lowest free stage slot, while the stage region lies under open leases (R287, R289). -/
def freeStage (s : State) (g : KGroup) : Option Nat :=
  let n := gStageLen g.setup
  match vaLeases s g.part g.job (some 2) (gStage g.setup) n with
  | .ok _ => (upto 0 (n / 4160)).find? (fun i => !g.held.any (fun h => h.slot == some i))
  | .error _ => none

/-- A block is written into a stage slot. -/
def State.toStage (s : State) (g : KGroup) (i : Nat) (b : KBlock) : State := s.writePieces ((stagePieces s g i).getD []) (blockFlits b)

/-- A held block as its slot in the stage holds it now; one without a slot as it came. -/
def State.fromStage (s : State) (g : KGroup) (h : KHeld) : KBlock :=
  match h.slot.bind (stagePieces s g) with
  | none => h.grad
  | some ps =>
    let bs := s.pieceBytes ps
    { h.grad with
      kh := BitVec.ofNat 256 (ofBytes (bs.take 32))
      payload := (bs.drop 64).take h.grad.payload.length
      poison := (pieceHot s ps).filter (fun i => i = 0 || i ≤ ceilDiv h.grad.payload.length 64) }

/-- A request waits for an update unit. -/
def State.kQueue (s : State) (g : KGroup) (b : Nat) : State :=
  let r := (g.part, g.job, g.group, b)
  if s.keeper.queue.contains r then s else { s with keeper := { s.keeper with queue := s.keeper.queue ++ [r] } }

/-- A block is being applied. -/
def State.kApplying (s : State) (p j g b : Nat) : Option App :=
  s.keeper.apps.find? (fun a => a.part == p && a.job == j && a.group == g && a.block == b)

/-- GRAD (R282, R287). -/
def execKGrad (b : KBlock) (s : State) : Out :=
  kArrive s b (.kGrad b) (fun by_ s =>
    let (p, j) := pkJob b.hdr
    let gn := khGroup b.kh
    let bn := khBlock b.kh
    let st := khStep b.kh
    let bad (s : State) : KTaken := .took (s.eventJob p j { Report.of .kblockBad with detail := kDetail gn bn st })
    match s.kgroup p j gn with
    | none => bad s
    | some g =>
      if g.lost || g.retiring != 0 || bn ≥ gBlocks g.setup || khFmt b.kh > 4 || khContrib b.kh != gContrib g.setup ||
          bits b.kh 0 73 != 0 || !b.poison.isEmpty then bad s
      else
        let s := s.kSees p j gn st
        let a := (g.block bn).applied
        let upd (f : KGroup → KGroup) : State := s.modGroup p j gn f
        if st ≤ a then .took (upd (fun g => g.countDups bn 1))
        else if (s.kApplying p j gn bn).any (fun q => q.step == st) || g.held.any (fun h => h.block == bn && h.step == st) then
          let ch := match by_ with
            | .own c m k => some (c, m, k)
            | .far => none
          if g.waiting.any (fun d => d.chunk == ch && ch.isSome) then .waits s
          else .waits (upd (fun g => { g with waiting := g.waiting ++ [⟨bn, st, ch⟩] }))
        else if st = a + 1 && !g.frozen then
          .took ((upd (fun g => { g with held := g.held ++ [⟨bn, st, b, none⟩] })).kQueue g bn)
        else match freeStage s g with
          | some i => .took ((upd (fun g => { g with held := g.held ++ [⟨bn, st, b, some i⟩] })).toStage g i b)
          | none => .back s)

/-- A byte of a virtual range of a job is another partition's storage (R331, R334). -/
def State.foreign (s : State) (p j va n : Nat) : Bool :=
  (cutPages va n).any (fun pc => strays s p j pc.1 || (match ioHome s p j pc.1 false false with
    | some k => (s.keyPart k).any (· != p)
    | none => false))

/-- XPART where one of the ranges that the keeper was to reach for a job is another partition's (R331, R334). -/
def State.xpartIf (s : State) (p j : Nat) (rs : List (Nat × Nat)) : State := if rs.any (fun r => s.foreign p j r.1 r.2) then s.xpart p j else s

/-! ## Groups and programs (R283 to R285, R289, R295) -/

/-- The leases of a group's arrays and emission area (R284, R289): all, or the one at fault. -/
def groupLeases (s : State) (p j : Nat) (b : BitVec 3072) : Except Nat (List Nat) := do
  let n := gBlocks b
  let ls ← (upto 0 (gArrays b)).mapM (fun i => vaLeases s p j (some 3) (gArray b i) (4096 * n))
  let e ← vaLeases s p j (some 3) (gEmit b) (emitSlot (gFmt b) * n)
  pure (ls.flatten ++ e)

/-- A SETUP payload keeps the field rules of R284. -/
def setupOk (b : BitVec 3072) : Bool :=
  bits b 0 198 == 0 && gFmt b < 0x14 && gSubs b ≤ 16 && gStageLen b % 4160 == 0 && gEmit b % 64 == 0 &&
    (upto 0 8).all (fun i => bits b (512 + 64 * i + 52) 12 == 0) && (upto 0 (gArrays b)).all (fun i => gArray b i % 4096 == 0)

/-- SETUP (R284). -/
def execKSetup (b : KBlock) (s : State) : Out :=
  let gn := khGroup b.kh
  kCommand s b (.kSetup b) gn 1 (fun p j s =>
    let bad (s : State) : State := s.eventJob p j { Report.of .kblockBad with detail := kDetail gn 0 0 }
    let f := BitVec.ofNat 3072 (ofBytes (b.payload.take 384))
    let busy := s.keeper.apps.any (fun a => a.part == p && a.job == j && a.group == gn) ||
      (match s.kgroup p j gn with
       | some g => !g.held.isEmpty
       | none => false)
    if busy || !setupOk f || !b.poison.isEmpty then (bad s, some true)
    else
      let check := do
        let _ ← groupLeases s p j f
        vaLeases s p j (some 2) (gStage f) (gStageLen f)
      match check with
      | .error id =>
        let n := gBlocks f
        let s := s.xpartIf p j ((upto 0 (gArrays f)).map (fun i => (gArray f i, 4096 * n)) ++ [(gEmit f, emitSlot (gFmt f) * n), (gStage f, gStageLen f)])
        let s := s.eventJob p j { Report.of .expiry with detail := kDetail gn 0 0, lease := id }
        ({ s with keeper := { s.keeper with groups := s.keeper.groups.filter (fun g => !(g.part == p && g.job == j && g.group == gn)) } }, some true)
      | .ok _ =>
        let g : KGroup := ⟨p, j, gn, khPrimary b.kh == Config.chip, khMirror b.kh, f, [], [], [], 0, 0, [], false, false, 0, 0, []⟩
        let s := s.captureKey p j 1 gn (gSeed f)
        ({ s with keeper := { s.keeper with
          groups := s.keeper.groups.filter (fun g => !(g.part == p && g.job == j && g.group == gn)) ++ [g] } }, some false))

/-- Address of a block's emission slot (R279). -/
def emitAt (g : KGroup) (b : Nat) : Nat := gEmit g.setup + b * emitSlot (gFmt g.setup)

/-- Homes of a block's emission slot. -/
def slotPieces (s : State) (g : KGroup) (b : Nat) : List (Nat × Nat) :=
  (ioPieces s g.part g.job (emitAt g b) (emitSlot (gFmt g.setup)) false false).getD []

/-- The slot of a block, at its homes `ps`, goes to every subscriber in a KWEIGHTS packet (R292); `regen`: it rewrites a copy of the same step (R375). -/
def State.sendWeights (s : State) (g : KGroup) (b step : Nat) (ps : List (Nat × Nat)) (regen : Bool) : State :=
  let bs := s.pieceBytes ps
  let hot := pieceHot s ps
  let kh := BitVec.ofNat 256 (g.job % 2 ^ 16 * 2 ^ 236 + g.group % 2 ^ 6 * 2 ^ 230 + b % 2 ^ 20 * 2 ^ 210 + step % 2 ^ 32 * 2 ^ 178 + regen.toNat)
  (upto 0 (gSubs g.setup)).foldl (fun (s : State) n =>
    let (chip, dst, obj) := gSub g.setup n
    let addr := dst + b * (emitSlot (gFmt g.setup) + 64)
    let fj := jobIx g.part g.job
    if g.dropped.contains n then s
    else if chip = Config.chip then
      let hdr := BitVec.ofNat 512 (7 * 2 ^ 508 + Config.chip * 2 ^ 496 + Config.chip * 2 ^ 484 + fj * 2 ^ 436 + addr % 2 ^ 52 * 2 ^ 384 + (obj + 8 * b) % 2 ^ 52 * 2 ^ 242)
      s.soon [.kweights ⟨hdr, kh, bs, hot⟩]
    else s.sendPacket fj chip ⟨7, addr, obj + 8 * b, ceilDiv bs.length 64, 0, blockFlits ⟨0, kh, bs, hot⟩, hot.map (· + 1)⟩) s

/-- PROMOTE (R295). -/
def execKPromote (b : KBlock) (s : State) : Out :=
  let gn := khGroup b.kh
  kCommand s b (.kPromote b) gn 2 (fun p j s =>
    match s.kgroup p j gn with
    | none => (s.eventJob p j { Report.of .kblockBad with detail := kDetail gn 0 0 }, some true)
    | some g =>
      if g.lost then (s.eventJob p j { Report.of .kblockBad with detail := kDetail gn 0 0 }, some true)
      else
        let s := s.modGroup p j gn (fun g => { g with primary := true })
        -- a slot that lies under no open lease is not read (R329; log 103)
        ((upto 0 (gBlocks g.setup)).foldl (fun (s : State) n => match ioOpen s p j (emitAt g n) (emitSlot (gFmt g.setup)) false false with
          | some ps => s.sendWeights g n (g.block n).applied ps false
          | none => s) s, some false))

/-- RESUME (R289). -/
def execKResume (b : KBlock) (s : State) : Out :=
  let gn := khGroup b.kh
  kCommand s b (.kResume b) gn 3 (fun p j s =>
    match s.kgroup p j gn with
    | none => (s.eventJob p j { Report.of .kblockBad with detail := kDetail gn 0 0 }, some true)
    | some g =>
      if g.lost then (s.eventJob p j { Report.of .kblockBad with detail := kDetail gn 0 0 }, some true)
      else
        match groupLeases s p j g.setup with
        | .error id => (s.kEvent g .expiry 0 0 id 0, some true)
        | .ok _ =>
          let wait := !g.ready.isEmpty
          let s := s.modGroup p j gn (fun g => { g with frozen := false, resuming := g.resuming + wait.toNat })
          let s := g.ready.foldl (fun s n => s.kQueue g n) s
          (s, if wait then none else some false))

/-- A group that is retired and applies nothing any more is gone (R283, R284). -/
def State.kRetired (s : State) (p j g : Nat) : State :=
  match s.kgroup p j g with
  | some k =>
    if k.retiring != 0 && !s.keeper.apps.any (fun a => a.part == p && a.job == j && a.group == g) then
      let fs : List KDup := k.waiting
      let s : State := { s with keeper := { s.keeper with groups := s.keeper.groups.filter (fun k => !(k.part == p && k.job == j && k.group == g)) } }
      let s := fs.foldl (fun (s : State) d => match d.chunk with
        | some (c, m, n) => s.takenBlock c m n
        | none => s) s
      (upto 0 k.retiring).foldl (fun (s : State) _ => s.kDone p j g 4 0) s
    else s
  | none => s

/-- RETIRE (R284). -/
def execKRetire (b : KBlock) (s : State) : Out :=
  let gn := khGroup b.kh
  kCommand s b (.kRetire b) gn 4 (fun p j s =>
    match s.kgroup p j gn with
    | none => (s.eventJob p j { Report.of .kblockBad with detail := kDetail gn 0 0 }, some true)
    | some g =>
      let s := (s.modGroup p j gn (fun g => { g with retiring := g.retiring + 1 })).dropHeld g (fun _ => true)
      (s.kRetired p j gn, none))

/-- A word that an update program may not hold (R285). -/
def kwordBad (len n : Nat) (w : W64) : Bool :=
  let op := bits w 40 8
  match decodeWord true .v w with
  | .illop => true
  | .ok _ i =>
    (0x40 ≤ op && op ≤ 0x44) || [0x4A, 0x4C, 0x2B, 0x51, 0x54, 0x55, 0x59].contains op ||
    (match i with
     | .vloopQ .. => true
     | .vloop _ _ body => n + body.toNat > len - 1
     | _ => false)

/-- PROGRAM (R285): the index of the first bad word stands in COUNT. -/
def execKProgram (b : KBlock) (s : State) : Out :=
  let pn := khProg b.kh
  kCommand s b (.kProgram b) pn 5 (fun p j s =>
    let len := bits b.kh 210 8 + 1
    let ws := (upto 0 len).map (fun i => BitVec.ofNat 64 (ofBytes ((b.payload.drop (8 * i)).take 8)))
    match (ws.zipIdx.find? (fun e => kwordBad len e.2 e.1)) with
    | some e => (s.eventJob p j { Report.of .kprogBad with detail := kDetail pn 0 0, count := e.2 }, some true)
    | none =>
      let others := s.keeper.progs.filter (fun q => !(q.part == p && q.job == j && q.no == pn))
      ({ s with keeper := { s.keeper with progs := others ++ [⟨p, j, pn, ws⟩] } }, some false))

/-! ## Applying a block (R280, R288, R301) -/

/-- Requests that may start: their group is not frozen or lost, and their block is not being applied. -/
def State.kStartable (s : State) : List (Nat × Nat × Nat × Nat) :=
  s.keeper.queue.filter (fun q =>
    (match s.kgroup q.1 q.2.1 q.2.2.1 with
     | some g => !g.frozen && !g.lost && g.held.any (fun h => h.block == q.2.2.2 && g.isNext h)
     | none => false) && (s.kApplying q.1 q.2.1 q.2.2.1 q.2.2.2).isNone)

/-- Homes of a block in a cabinet array. -/
def arrayPieces (s : State) (g : KGroup) (i b : Nat) : Option (List (Nat × Nat)) :=
  ioPieces s g.part g.job (gArray g.setup i + 4096 * b) 4096 true true

/-- The leases that an application checks and holds (R288). -/
def appLeases (s : State) (g : KGroup) (b : Nat) : Except Nat (List Nat) := do
  let ls ← (upto 0 (gArrays g.setup)).mapM (fun i => vaLeases s g.part g.job none (gArray g.setup i + 4096 * b) 4096)
  let n := emitSlot (gFmt g.setup)
  let e ← vaLeases s g.part g.job none (gEmit g.setup + b * n) n
  pure (ls.flatten ++ e).eraseDups

/-- Blocks that failed their check at their start and stay without a slot: at most one for each update unit (R289). -/
def State.slotless (s : State) : Nat := s.keeper.groups.foldl (fun n g => n + (g.held.filter (fun h => g.frozen && h.slot.isNone && g.isNext h)).length) 0

/-- A block whose application fails its lease check stays with its group, which freezes (R289): first of its held blocks, in a stage slot if one is free. With 16 that have none, it goes on waiting for its start. -/
def State.kRefused (s : State) (g : KGroup) (h : KHeld) (id : Nat) : State :=
  let slot := h.slot.orElse (fun _ => freeStage s g)
  if slot.isNone && 16 ≤ s.slotless then s
  else
    let s := s.xpartIf g.part g.job ((upto 0 (gArrays g.setup)).map (fun i => (gArray g.setup i + 4096 * h.block, 4096)) ++ [(emitAt g h.block, emitSlot (gFmt g.setup))])
    let s := match h.slot, slot with
      | none, some i => s.toStage g i h.grad
      | _, _ => s
    (s.modGroup g.part g.job g.group (fun k => { k with frozen := true, held := { h with slot := slot } :: k.held.filter (· != h) })).kEvent g .expiry h.block h.step id 0

/-- The application of a block starts on the lowest free update unit, or its group freezes (R288, R289). -/
def State.kStart (s : State) (p j gn b : Nat) : State :=
  match s.kgroup p j gn with
  | none => s
  | some g =>
    match g.held.find? (fun h => h.block == b && g.isNext h) with
    | none => s
    | some h =>
      match appLeases s g b with
      | .error id => s.kRefused g h id
      | .ok ls =>
        let used := s.keeper.apps.map (·.unit)
        let u := ((upto 0 16).find? (fun n => !used.contains n)).getD 0
        let prog := ((s.keeper.progs.find? (fun q => q.part == p && q.job == j && q.no == gProg g.setup)).map (·.words)).getD []
        let arrays := (upto 0 (gArrays g.setup)).map (fun i => (arrayPieces s g i b).getD [])
        let a : App := ⟨u, p, j, gn, b, h.step, s.fromStage g h, prog, 0, [.zero, .zero, .zero, .zero], ⟨[], []⟩, 0, [], none, false, ls, arrays, slotPieces s g b⟩
        let s := ((s.hold ls true).modGroup p j gn (fun g => { g with held := g.held.filter (· != h) })).kResumed p j gn
        let s : State := { s with keeper := { s.keeper with apps := s.keeper.apps ++ [a], queue := s.keeper.queue.filter (· != (p, j, gn, b)) } }
        if prog.isEmpty then s.soon [.blockApplication p j gn b] else s

/-- An application leaves its unit; its holds end. -/
def State.kLeave (s : State) (a : App) : State :=
  State.hold { s with keeper := { s.keeper with apps := s.keeper.apps.filter (fun q => q.unit != a.unit) } } a.leases false

/-- An application ends without a commit (R288): the block is discarded. -/
def State.kAbort (s : State) (a : App) : State :=
  let s := s.kLeave a
  match s.kgroup a.part a.job a.group with
  | none => s
  | some g => ((s.kEvent g .kprogAbort a.block a.step 0 0).kFate a.part a.job a.group a.block a.step).kRetired a.part a.job a.group

/-! ## Fetches (R290, R291) -/

/-- A fetch command ends: its results are in its record (R290). -/
def State.fetchEnd (s : State) (core : Nat) (x : XCmd) (got flags dups : Nat) : State :=
  let k := keySpm core (tBase x.rb)
  let v := BitVec.ofNat 128 (s.readNat k 16)
  let v := putBits (putBits (putBits v 64 32 got) 33 5 flags) 6 27 (min dups (2 ^ 27 - 1))
  let s := s.writeOwn core k (toBytes 16 v.toNat)
  let s : State := { s with keeper := { s.keeper with fetches := s.keeper.fetches.filter (fun f => !(f.core == core && f.cmd == x.id)) } }
  s.modCmd core x.id (fun y => { y with acted := true })

/-- A block of a fetch is delivered, `n` blocks of it asked for (R291): the slot and its step are read as one access, the bytes written, the object incremented. A chunk that may not start, or an increment that may not be made, parks the command (R194, R315). -/
def State.deliver (s : State) (f : KFetch) (x : XCmd) (g : KGroup) (c : Nat) : State :=
  let slot := emitSlot (gFmt g.setup)
  match ioOpen s f.part f.job (emitAt g f.block) slot false false, resolveSpans s f.core x.ra true true (spansOf x.ra (c * slot) slot) with
  | none, _ => s
  | _, .error e => s.parkFor f.core x e (xNums x.instr).1
  | some ps, .ok d =>
    let hot := sidePoison s (ps.map (fun p => (some p.1, p.2)))
    let m : Move := ⟨s.pieceBytes ps, hot, [], x⟩
    let (t, h) := landSide s f.core x false false d.pieces hot m.bytes
    let (t, codes) := t.sendAll (t.fjob f.core) (storeCargo (farPieces d.pieces) 0 m)
    match (if x.ob && !x.again then t.bumpObject f.core x x.obj 1 else .ok (t, [])) with
    | .error e => s.parkCmd f.core x e 0 0 0
    | .ok (t, sig) =>
      let got := min (x.data.getD 1 (2 ^ 32 - 1)) (g.block f.block).emitted
      let t := t.modCmd f.core x.id (fun y => { (y.landed c) with data := [x.data.headD 0, got], poison := y.poison || h, acks := y.acks ++ codes ++ sig })
      let t : State := { t with keeper := { t.keeper with fetches := t.keeper.fetches.filter (· != f) } }
      if t.keeper.fetches.any (fun q => q.core == f.core && q.cmd == f.cmd) then t
      else t.fetchEnd f.core x got g.flags.toNat g.dups

/-- A block of a fetch is refused, or delivered once the applied step allows and the group is not frozen (R289, R291). Its chunk keeps the limits of R194 and R195. -/
def State.serveFetch (s : State) (f : KFetch) : State :=
  match (s.core f.core).cmd f.cmd with
  | none => s
  | some x =>
    let n := match x.instr with
      | .xkfetch _ _ _ _ n => n.toNat + 1
      | _ => 1
    let first := fldN (x.data.headD 0) 38 20
    let c := f.block - first
    if x.parked.isSome || (s.core f.core).seat.stopping then s
    else
      match s.kgroup f.part f.job f.group with
      | none => s.fetchEnd f.core x (2 ^ 32 - 1) 0 0
      | some g =>
        if g.lost || first + n > gBlocks g.setup || tExtent x.ra < n * emitSlot (gFmt g.setup) then
          s.fetchEnd f.core x (2 ^ 32 - 1) g.flags.toNat g.dups
        else if g.frozen || (g.block f.block).applied < f.step || c < x.pp || x.pp + 4 < c || 32 ≤ (s.core f.core).inFlight then s
        else s.deliver f x g c

/-- FETCH_SERVE (R291). -/
def execFetchServe (fetch block : Nat) (s : State) : Out :=
  match s.keeper.fetches[fetch]? with
  | none => .next s
  | some f => .next (if f.block = block then s.serveFetch f else s)

/-! ## The end of an application -/

/-- A commit (R166, R288): arrays and slot are written at once, the applied step rises, waiting fetches are served, the subscribers are sent the slot, and the next held step follows. -/
def State.kCommit (s : State) (a : App) : State :=
  match s.kgroup a.part a.job a.group with
  | none => s.kLeave a
  | some g =>
    let tiles := a.stores.map (fun e => (a.arrays.getD e.1 [], (List.range 1024).flatMap (fun n => toBytes 4 (lane e.2 n).toNat)))
    let s := tiles.foldl (fun (s : State) e => s.writePieces e.1 e.2) s
    let s := match a.emit with
      | some bs => s.writePieces a.slot bs
      | none => s
    let k := g.block a.block
    let em := if a.emit.isSome then a.step else k.emitted
    let s := (s.modGroup a.part a.job a.group (fun g => { (g.setBlock { k with applied := a.step, emitted := em }) with flags := g.flags ||| a.flags })).kLeave a
    let mine (f : KFetch) : Bool := f.part == a.part && f.job == a.job && f.group == a.group && f.block == a.block
    let s := (s.keeper.fetches.filter mine).foldl State.serveFetch s
    let s := if g.primary then s.sendWeights g a.block a.step a.slot false else s
    let s := if g.held.any (fun h => h.block == a.block && h.step == a.step + 1) then s.kQueue g a.block else s
    (s.kFate a.part a.job a.group a.block a.step).kRetired a.part a.job a.group

/-- BLOCK_APPLICATION (R288): the application that the arbiter grants starts (R302), or one that has come to its end without `KSTEP` is over. -/
def execBlockApplication (part job group block : Nat) (s : State) : Out :=
  match s.kApplying part job group block with
  | some a => if a.aborted || a.prog.length ≤ a.pc then .next (s.kAbort a) else .next s
  | none =>
    if s.keeper.apps.length ≥ 16 then .next s
    else
      let qs := s.kStartable
      let w (n : Nat) : Nat := (s.job (n / 1024) (n % 1024)).wkeep.toNat
      let d : Demand := ⟨fun n => if qs.any (fun q => jobIx q.1 q.2.1 == n) then some 1 else none, w, fun n => max (4 * w n) 1⟩
      match s.keeper.arb.choose (qs.map (fun q => jobIx q.1 q.2.1)) d with
      | none => .next s
      | some (n, arb) =>
        match qs.find? (fun q => jobIx q.1 q.2.1 == n) with
        | some (p, j, g, b) =>
          if (p, j, g, b) = (part, job, group, block) then
            .next (State.kStart { s with keeper := { s.keeper with arb := arb } } p j g b)
          else .next s
        | none => .next s

/-! ## Emission at a subscriber (R292) -/

/-- A slot is delivered at this package, tried again next tick, or dropped (R289, R292, R375). -/
def State.weights (s : State) (b : KBlock) : State :=
  let (p, j) := pkJob b.hdr
  let at_ := pkAddr b.hdr
  let n := b.payload.length
  let lose (id : Nat) : State := (s.xpartIf p j [(at_, 64 + n), (pkObj b.hdr, 8)]).eventJob p j { Report.of .ksubLost with detail := kDetail (khGroup b.kh) (khBlock b.kh) (khStep b.kh), lease := id }
  match ioPieces s p j at_ (64 + n) false true, ioHome s p j (pkObj b.hdr) true true with
  | some ps, some ko =>
    match pieceLease s p j none (ps ++ [(ko, 8)]) with
    | .error id =>
      if (s.lease id).any (fun l => l.part == p && l.job == j && (l.state == .lapsed || l.state == .open_) && !l.vacating && !l.stowed) then
        s.atTick (s.tick + 1) (.kweights { b with hdr := putBits b.hdr 496 12 Config.chip })
      else lose id
    | .ok _ =>
      let tag := ofBytes ((s.pieceBytes ps).take 4)
      let step := khStep b.kh
      let regen := bits b.kh 0 1 == 1
      if (regen && tag = step) || (!regen && tag < step) then
        let old := s.pieceBytes ps
        let head := if regen then old.take 64 else toBytes 4 step ++ (old.take 64).drop 4
        let s := s.writePieces ps (head ++ b.payload)
        let s := b.poison.foldl (fun (s : State) g => match ioHome s p j (at_ + 64 + 64 * g) false true with
          | some k => s.poisonAt k 64
          | none => s) s
        if regen then s else (s.increment p j ko 1 [] 0).getD s
      else s
  | _, _ => lose 0

/-- KWEIGHTS (R292): from another chip after the sequence check; from this package's own keeper at once. -/
def execKweights (b : KBlock) (s : State) : Out :=
  if pkSrc b.hdr = Config.chip then .next (s.weights b)
  else if !s.forUs b.hdr then .next s
  else if seqRule (pkSeq b.hdr) (s.peer (pkSrc b.hdr)).expect != .taken then .next (s.notTaken b.hdr (.kweights b))
  else
    let s := s.accept b.hdr (blockFlits b) (b.poison.map (· + 1))
    .next (if s.ourJob b.hdr then s.weights b else s)

/-! ## Deadlines (R293) -/

/-- MISSING (R293): the deadline of a step has passed; blocks below it are named, at most 64, once. -/
def execMissing (part job group step : Nat) (s : State) : Out :=
  match s.kgroup part job group with
  | none => .next s
  | some g =>
    match g.deadlines.find? (fun d => d.1 == step) with
    | none => .next s
    | some d =>
      if d.2.2 || s.tick < d.2.1 then .next s
      else
        let s := s.modGroup part job group (fun g => { g with deadlines := g.deadlines.map (fun e => if e.1 = step then (e.1, e.2.1, true) else e) })
        let late := (upto 0 (gBlocks g.setup)).filter (fun b => (g.block b).applied < step)
        .next ((late.take 64).foldl (fun s b => s.kEvent g .missing b step 0 late.length) s)

/-! ## Emission and regeneration (R165, R375) -/

/-- The bytes of a slot that `KEMIT` forms from a tile: elements, then scales (R165, R279), then zeros to the slot's length (log 51); with the flags. -/
def emitBytes (g : KGroup) (b step : Nat) (t : Tile) : List Byte × Fl :=
  let fmt := gFmt g.setup
  let mode : Mode := if gEsr g.setup then .sr else .rne
  let xs := (List.range 1024).map (fun n => decodeF fmtFP32 (lane t n).toNat)
  let pad (bs : List Byte) : List Byte := bs ++ List.replicate (emitSlot fmt - bs.length) 0
  let draw (n : Nat) : Nat := if gEsr g.setup then (mixDraw (gSeed g.setup) (step * 2 ^ 64 + b * 1024 + n)).toNat else 0
  if isBlock fmt then
    let r := (upto 0 32).map (fun k => encodeBlock fmt mode (fun i _ => draw (32 * k + i)) ((xs.drop (32 * k)).take 32))
    (pad (packCodes (contBits fmt) (r.flatMap (fun q => q.2.2.1)) ++
      r.flatMap (fun q => toBytes (scaleBytes fmt) (q.1 + 256 * q.2.1))), r.foldl (fun f q => f ||| q.2.2.2) 0)
  else
    let r := xs.zipIdx.map (fun q => encodeFmt fmt mode false (draw q.2) q.1)
    (pad (packCodes (contBits fmt) (r.map (·.1))), r.foldl (fun f q => f ||| q.2) 0)

/-- The cabinet array that a program stores from the register that its `KEMIT` encodes (R375). -/
def emitSource (ws : List W64) : Option Nat :=
  let is := ws.filterMap (fun w => match decodeWord true .v w with
    | .ok _ i => some i
    | .illop => none)
  let v := is.findSome? (fun i => match i with
    | .kemit d _ _ => some d
    | _ => none)
  match v with
  | none => none
  | some d => is.findSome? (fun i => match i with
    | .ksts e src => if e = d then some src.toNat else none
    | _ => none)

/-- KEEPER_REGEN (R375): the primary forms the slot again from the cabinet, by the mirror's arrays where its own are poisoned, and sends it to every subscriber. Storage that lies under no open lease is not touched (R329; log 103). -/
def execKeeperRegen (part job group block : Nat) (s : State) : Out :=
  match s.kgroup part job group with
  | none => .next s
  | some g =>
    let prog := ((s.keeper.progs.find? (fun q => q.part == part && q.job == job && q.no == gProg g.setup)).map (·.words)).getD []
    match (emitSource prog).bind (fun src => ioOpen s part job (gArray g.setup src + 4096 * block) 4096 true true),
      ioOpen s part job (emitAt g block) (emitSlot (gFmt g.setup)) false false with
    | some ps, some slot =>
      if !g.primary || g.lost then .next s
      else
        let k := g.block block
        let hot := s.piecePoison ps
        let mirror := g.mirror != 0xFFF && g.mirror != Config.chip && !(s.peer g.mirror).lost
        if hot && !mirror then
          .next (((s.modGroup part job group (fun g => { g with lost := true })).dropHeld g (fun _ => true)).kEvent g .kcabinetLost block k.applied 0 0)
        else
          -- the mirror's arrays hold the same bits (R294)
          let s := if hot then (s.writePieces ps (s.pieceBytes ps)).kEvent g .mirrorUsed block k.applied 0 0 else s
          let bs := s.pieceBytes ps
          let t := tileOf 1024 (fun n => BitVec.ofNat 32 (ofBytes ((bs.drop (4 * n)).take 4)))
          let s := s.writePieces slot (emitBytes g block k.emitted t).1
          .next ((s.sendWeights g block k.emitted slot true).kEvent g .regen block k.emitted 0 0)
    | _, _ => .next s

end Sys2Proof.Machine
end

