-- ==== Sys2Proof/Machine/KeeperWords.lean ====
section
/-! DEFINITION. The words that exist only in update programs (R164 to R166). -/

namespace Sys2Proof.Machine

/-- A keeper word on the application under the cursor; on a core's V engine it is illegal (R164). -/
def kWord (s : State) (body : App → KGroup → Option (App × State)) : Out :=
  match s.cur.unit with
  | none => .next (s.faultHere (.of .illop))
  | some u =>
    match s.keeper.apps.find? (fun a => a.unit == u) with
    | none => .next s
    | some a =>
      -- an application runs under a group; without one nothing tells it where to store
      let g := (s.kgroup a.part a.job a.group).getD (default : KGroup)
      match body a g with
      | none => .next s
      | some (a', s) => .next { s with keeper := { s.keeper with apps := s.keeper.apps.map (fun b => if b.unit = u then a' else b) } }

/-- The application ends without a commit (R166). -/
def App.abort (a : App) : App := { a with aborted := true }

/-- The tile of a cabinet array's block (R165). -/
def arrayTile (s : State) (ps : List (Nat × Nat)) : Tile :=
  let bs := s.pieceBytes ps
  tileOf 1024 (fun n => BitVec.ofNat 32 (ofBytes ((bs.drop (4 * n)).take 4)))

/-- The gradient of an application in FP32, with flags (R165): each element decoded and multiplied by GSCALE. -/
def gradTile (b : KBlock) : Tile × Fl :=
  let fmt := khFmt b.kh
  let n := contBits fmt / 8
  let sc : Num := if khScale b.kh = 0 then .fin false 1 0 else decodeF fmtFP32 (khScale b.kh)
  let cells := (List.range 1024).map (fun i =>
    let (v, f) := mulRne (decodeFmt fmt (ofBytes ((b.payload.drop (n * i)).take n))) sc
    (i, BitVec.ofNat 32 (roundRne v).1, f))
  ((cells.map (fun c => (c.1, c.2.1))).filter (fun c => c.2 != 0), cells.foldl (fun f c => f ||| c.2.2) 0)

/-- `KLDS` (R165): a constant waits, holding its unit, for the set of the block's step (R286). -/
def execKlds (d : BitVec 4) (src : BitVec 8) (s : State) : Out :=
  kWord s (fun a g =>
    let put (t : Tile) (f : Fl) : Option (App × State) := some ({ a.next with vec := a.vec.setV d.toNat t, flags := a.flags ||| f }, s)
    if src.toNat < 8 then
      if src.toNat ≥ gArrays g.setup then some (a.abort, s)
      else
        let ps := a.arrays.getD src.toNat []
        if s.piecePoison ps then some (a.abort, s) else put (arrayTile s ps) 0
    else if src = 8 then
      if !a.grad.poison.isEmpty then some (a.abort, s) else let (t, f) := gradTile a.grad; put t f
    else
      match s.keeper.consts.find? (fun k => k.part == a.part && k.job == a.job && k.prog == gProg g.setup && k.tag == a.step) with
      | none => none
      | some k => if k.hot then some (a.abort, s) else put (tileOf 1024 (fun _ => k.vals.getD (src.toNat - 32) 0)) 0)

/-- `KSTS` (R165): held until `KSTEP`; a second one to an array ends the application (R166). -/
def execKsts (d : BitVec 4) (src : BitVec 3) (s : State) : Out :=
  kWord s (fun a g =>
    if src.toNat ≥ gArrays g.setup || (spFind a.stores src.toNat).isSome then some (a.abort, s)
    else some ({ a.next with stores := spSet a.stores src.toNat (a.vec.V d.toNat) }, s))

/-- `KEMIT` (R165): held until `KSTEP`; it must agree with EFMT and ESR, and come once (R166). -/
def execKemit (d : BitVec 4) (fmt : BitVec 5) (mode : BitVec 3) (s : State) : Out :=
  kWord s (fun a g =>
    if fmt.toNat != gFmt g.setup || mode.toNat != (if gEsr g.setup then 4 else 0) || a.emit.isSome then some (a.abort, s)
    else
      let (bs, f) := emitBytes g a.block a.step (a.vec.V d.toNat)
      some ({ a.next with emit := some bs, flags := a.flags ||| f }, s))

/-- `KSTEP` (R166): the block's step commits, arrays and emission at once. -/
def execKstep (s : State) : Out :=
  match s.cur.unit with
  | none => .next (s.faultHere (.of .illop))
  | some u =>
    match s.keeper.apps.find? (fun a => a.unit == u) with
    | none => .next s
    | some a => .next (s.kCommit a)

end Sys2Proof.Machine
end

