-- ==== Sys2Proof/Machine/Platform.lean ====
section
/-! DEFINITION. Boot, firmware, measurements, clocks, telemetry, and errors that the package detects (R366 to R369, R380, R383 to R387, R335 to R337). -/

namespace Sys2Proof.Machine

/-! ## Who asks, and what is answered -/

/-- The number that stands for the management interface (R387) where a CXL function is asked for (log 58). -/
def fnManagement : Nat := 64

/-- An answer. -/
def State.answer (s : State) (r : Response) : State := { s with responses := s.responses ++ [r] }

/-- A command of the physical function's mailbox (R333, R383): Unsupported on another function; unanswered in recovery state. -/
def mailbox (fn : Nat) (s : State) (body : State → State) : Out :=
  if fn != 0 then .next (s.answer .unsupported)
  else if s.platform.recovery then .next s
  else .next (body s)

/-- A command that is done at once, or refused with no table changed. -/
def command (fn : Nat) (s : State) (refused : Bool) (act : State → State) : Out :=
  mailbox fn s (fun s => if refused then s.answer .refused else (act s).answer .done)

/-! ## Clocks (R385) -/

/-- THERMAL_THROTTLE (R385): a junction temperature in °C or a package power in W beyond the limit. -/
def execThermalThrottle (tj watts : Nat) (s : State) : Out :=
  if 105 ≤ tj || s.platform.powerLimit < watts then .next { s with platform := { s.platform with thermal := true } } else .next s

/-- THROTTLE_EXIT (R385): after ticks in a row below the limits. -/
def execThrottleExit (ticksCool : Nat) (s : State) : Out :=
  if 1000 ≤ ticksCool then .next { s with platform := { s.platform with thermal := false } } else .next s

/-- DROOP_DETECT (R385, R386). -/
def execDroopDetect (die : Nat) (s : State) : Out :=
  if 4 ≤ die then .next s
  else
    let d := s.die die
    let n := s.clockStep die
    let d' := { d with
      droop := min 5 (n + 1), droopTick := s.tick
      droopCount := if n = 5 || d.droopCount = BitVec.allOnes 32 then d.droopCount else d.droopCount + 1 }
    .next (State.atTick { s with dies := putAt 4 .reset s.dies die d' } (s.tick + 100) (.droopStepDown die))

/-- DROOP_STEP_DOWN (R385): 100 ticks without a further detection. -/
def execDroopStepDown (die : Nat) (s : State) : Out :=
  let d := s.die die
  if 4 ≤ die || d.droop = 0 || s.tick < d.droopTick + 100 then .next s
  else
    let s : State := { s with dies := putAt 4 .reset s.dies die { d with droop := d.droop - 1, droopTick := s.tick } }
    .next (if d.droop = 1 then s else s.atTick (s.tick + 100) (.droopStepDown die))

/-! ## Telemetry (R386) and the management interface (R387) -/

/-- The telemetry record of a die; TJ and PWR are what the sensors give (log 13). -/
def State.telemetry (s : State) (n : Nat) : BitVec 512 :=
  let d := s.die n
  let f (v lo n : Nat) : Nat := v % 2 ^ n * 2 ^ lo
  let suspects := (s.cores.filter (fun e => dieOf e.1 == n && e.2.health.suspect)).length
  BitVec.ofNat 512 (f d.acAtTick 448 64 + f d.throttleTicks 400 48 + f d.droopCount.toNat 368 32 + f (s.clockStep n) 365 3 +
    f (Config.sensor (2 * n) s.tick).toNat 336 16 + f (Config.sensor (2 * n + 1) s.tick).toNat 320 16 + f d.corrections.toNat 288 32 + f suspects 256 32)

/-- TELEM_READ (R386, R387): by the physical function's mailbox, or by the board controller. -/
def execTelemRead (fn die : Nat) (s : State) : Out :=
  let r (s : State) : State := s.answer (if 4 ≤ die then .refused else .telemetry (s.telemetry die))
  if fn = fnManagement then .next (r s) else mailbox fn s r

/-- POWER_LIMIT (R387): from the next tick. -/
def execPowerLimit (watts : Nat) (s : State) : Out :=
  if watts < 1200 || 2400 < watts then .next (s.answer .refused)
  else .next (State.answer { s with platform := { s.platform with newLimit := some watts } } .done)

/-! ## Measurements (R337, R383) -/

/-- Where the measurement of a partition's block is kept: index 16 of its function. -/
def partMeasure (p : Nat) : Nat := 1024 + p

/-- What an index of a function measured; none where the function has no such index. -/
def State.measure (s : State) (fn ix : Nat) : Option (List Nat) :=
  if 1 ≤ ix && ix ≤ 3 then some (spGet [] s.platform.measured ix)
  else if ix = 16 && fn < 64 then some (spGet [] s.platform.measured (partMeasure fn))
  else none

/-- GET_MEASUREMENTS (R337, R387): SHAKE256 digests and a signature over them, which the model leaves free (log 13). -/
def execGetMeasurements (fn : Nat) (idxs : List Nat) (s : State) : Out :=
  if fn > fnManagement || (fn < 64 && fn != 0 && !(s.part fn).valid) || (fn != fnManagement && s.platform.recovery) then .next s
  else
    match idxs.mapM (fun ix => (s.measure fn ix).map (fun m => Config.digest ix m)) with
    | some ds => .next (s.answer (.digests ds (Config.signature ds)))
    | none => .next (s.answer .refused)

/-! ## Reset and boot (R383) -/

/-- Storage outside the package, which no reset touches. -/
def outsideMem (m : Memory) : Memory := m.filter (fun e => 2 ^ 64 ≤ e.1)

/-- A firmware image as its measurement takes it. -/
def imageNats (img : List Byte) : List Nat := img.map (·.toNat)

/-- A package reset (R383, R384): every register and table takes its reset value, and the boot steps run until one fails. What stands outside the package is as it was. Which part of an image is measured into which index is free (log 13). -/
def State.boot (s : State) (r : BootReport) : State :=
  let p := s.platform
  let try_ := p.pending.getD p.active
  let part (ix : Nat) : Nat × List Nat := (ix, Config.fwPart ix (imageNats (p.slots.getD try_ [])))
  let images := r.sigOk.firmware && r.sigOk.tables
  let ready := images && r.hbmOk
  let pl : Platform := { Platform.reset with
    slots := p.slots
    active := if images then try_ else p.active
    failed := !images
    recovery := !(ready && r.cxlOk)
    -- step 2 measures the first stage, and step 3 the hypervisor's firmware and its tables
    measured := (if r.sigOk.firmware then [part 1] else []) ++ (if images then [part 2, part 3] else [])
    downPorts := if ready then (r.fabric.down.filter (· < 32)).eraseDups else []
    mcast := ready && r.fabric.mcast
    rload := ready && r.fabric.rload }
  -- step 4 scrubs the package's storage
  { State.reset with
    mem := if ready then outsideMem s.mem else s.mem
    poison := s.poison.filter (fun g => !ready || 2 ^ 64 ≤ g * 64)
    platform := pl
    responses := s.responses
    script := s.script
    fresh := s.fresh }

/-- PACKAGE_RESET (R383, R387): `mgmt`: the management interface asks, and the reset waits for a firmware transfer in progress. -/
def execPackageReset (mgmt : Bool) (sigOk : Signatures) (hbmOk cxlOk : Bool) (downPorts : FabricReport) (s : State) : Out :=
  let found : BootReport := ⟨sigOk, hbmOk, cxlOk, downPorts⟩
  if mgmt && s.platform.transferring.isSome then .next { s with platform := { s.platform with resetWaiting := some found } }
  else .next (s.boot found)

/-! ## Firmware (R384) -/

/-- A firmware command of the physical function's mailbox, which recovery state answers too. -/
def fwCommand (fn : Nat) (s : State) (body : State → State) : Out :=
  if fn != 0 then .next (s.answer .unsupported) else .next (body s)

/-- GET_FW_INFO (R384). -/
def execGetFwInfo (fn : Nat) (s : State) : Out :=
  fwCommand fn s (fun s => s.answer (.firmware s.platform.active s.platform.pending s.platform.failed))

/-- TRANSFER_FW (R384): a part of an image; the last one ends the transfer, and a reset that waits is performed (R387). -/
def execTransferFw (fn slot : Nat) (image : List Byte) (last : Bool) (s : State) : Out :=
  fwCommand fn s (fun s =>
    let p := s.platform
    if 1 < slot || p.transferring.any (· != slot) then s.answer .refused
    else
      let old := if p.transferring.isSome then p.slots.getD slot [] else []
      let s : State := State.answer { s with platform := { p with
        slots := putAt 2 [] p.slots slot (old ++ image)
        transferring := if last then none else some slot
        resetWaiting := if last then none else p.resetWaiting } } .done
      match p.resetWaiting with
      | some r => if last then s.boot r else s
      | none => s)

/-- ACTIVATE_FW (R384): offline, at the next package reset. -/
def execActivateFw (fn slot : Nat) (s : State) : Out :=
  fwCommand fn s (fun s =>
    if 1 < slot then s.answer .refused
    else State.answer { s with platform := { s.platform with pending := some slot } } .done)

/-! ## Errors that storage detects (R367 to R369) -/

/-- Every time of a core that is stated in ac, counted without 12 ac that begin at `now` (R368). -/
def Core.delayed (c : Core) (now : Nat) : Core :=
  let late (n : Nat) : Nat := if now < n then n + 12 else n
  -- times that have passed keep their distance from later ones
  let past (n : Nat) : Nat := n + 12
  let q (l : List (Nat × W64)) : List (Nat × W64) := l.map (fun e => (late e.1, e.2))
  let st (s : Stream) : Stream := { s with nextAc := late s.nextAc, wait := { s.wait with ac := past s.wait.ac } }
  let xc (x : XCmd) : XCmd := { x with flight := x.flight.map (fun f => { f with due := late f.due }) }
  { c with
    c := st c.c, v := st c.v, m := st c.m, x := st c.x
    regs := { c.regs with prepAc := c.regs.prepAc.map (fun e => (e.1, past e.2)), due := c.regs.due.map (fun e => (e.1, past e.2.1, e.2.2)) }
    portR := late c.portR, portW := late c.portW
    mat := { c.mat with stepDue := late c.mat.stepDue }
    copy := { c.copy with cmds := c.copy.cmds.map xc }
    cqv := q c.cqv, cqm := q c.cqm
    ctl := { c.ctl with lastEnd := past c.ctl.lastEnd } }

/-- A correction of 12 ac in a core (R368): errors of one ac share a freeze, one found during a freeze follows it. -/
def State.freezeCore (s : State) (core : Nat) : State :=
  let now := s.acOf core
  let c := s.core core
  if c.health.foundAc = now + 1 then s
  else
    let from_ := max now c.health.frozenUntil
    let s : State := { s with timers := s.timers.map (fun t => if t.core = some core && now < t.due then { t with due := t.due + 12 } else t) }
    let s := s.setCore core { c.delayed now with health := { c.health with frozenUntil := from_ + 12, foundAc := now + 1 } }
    -- the end of a freeze that ran is put off with everything else
    if from_ = now then s.after core 12 (.freezeEnd core) else s

/-- A saturating 32-bit count. -/
def countUp (v : W32) (n : Nat) : W32 := BitVec.ofNat 32 (min (v.toNat + n) (2 ^ 32 - 1))

/-- CORRECTABLE (R368): `n` errors found in a core's SRAM; where `core` is no core, in the stage or the HBM, corrected on the way to the reader. -/
def execCorrectable (core n : Nat) (s : State) : Out :=
  if n = 0 then .next s
  else if 2048 ≤ core then .next { s with platform := { s.platform with ioFixed := s.platform.ioFixed + n } }
  else
    let s := (s.freezeCore core).modCore core (fun c => { c with health := { c.health with fixedThisTick := c.health.fixedThisTick + n } })
    let d := s.die (dieOf core)
    .next { s with dies := putAt 4 .reset s.dies (dieOf core) { d with corrections := countUp d.corrections n } }

/-- FREEZE_END (R368): the engines go on. -/
def execFreezeEnd (core : Nat) (s : State) : Out :=
  let h := (s.core core).health
  if h.frozenUntil = 0 || s.acOf core < h.frozenUntil then .next s
  else
    .next ((s.modCore core (fun c => { c with health := { c.health with frozenUntil := 0 } })).soon ((upto 0 4).map (.mOperationStart core)))

/-- UNCORRECTABLE_ERROR (R367, R369): the granule of a byte of the package's storage is poisoned; the dictionaries of core `n` are numbered from 2^53 + 2^15 × n on (log 109). -/
def execUncorrectableError (key : Nat) (s : State) : Out :=
  if (key < 2 ^ 52 && isStorage key) || (2 ^ 52 ≤ key && key < keyMsm 2048 0) then .next (s.poisonAt key 1)
  else if 2 ^ 53 ≤ key && key < 2 ^ 53 + 2 ^ 26 then
    .next (s.modCore ((key - 2 ^ 53) / 2 ^ 15) (fun c => { c with hot := (c.hot ++ [key % 2 ^ 15 / 64]).eraseDups }))
  else .next s

/-! ## The host (R335, R336, R380, R381) -/

/-- REGISTER_WRITE (R380): READ of an event ring; the ring's other registers are read-only, and the rings of partitions that do not exist are not there. -/
def execRegisterWrite (part off : Nat) (val : W64) (s : State) : Out :=
  if part < 64 && off = 0x40008 && (part == 0 || (s.part part).valid) then
    .next { s with rings := spSet s.rings part { s.ring part with read := val.toNat } }
  else .next s

/-- Jobs with a lease over a range of device memory. -/
def jobsOver (s : State) (k n : Nat) : List (Nat × Nat) :=
  ((s.leases.filter (fun e => overlaps e.2.ranges k n)).map (fun e => (e.2.part, e.2.job))).eraseDups

/-- The hypervisor sets the window of HBM that the host sees, in steps of 256 MiB (R335); one beyond the HBM is not set. -/
def State.setHdm (s : State) (base len : Nat) : State :=
  if base + len ≤ 2048 then { s with platform := { s.platform with hdm := (base, len) } } else s

/-- HOST_CXL_MEM_WRITE (R335, R336, R381): at an offset of the window of HBM, whose first 256 KiB are the post windows; a write of one aligned line there is a post, and any other is discarded. Beyond the window there is no storage that the host may write. -/
def execHostCxlMemWrite (addr : Nat) (bytes : List Byte) (s : State) : Out :=
  let n := bytes.length
  let home := s.platform.hdm.1 * 2 ^ 28 + addr
  if n = 0 then .next s
  else if addr + n > s.platform.hdm.2 * 2 ^ 28 then .fault .noStorage
  else if addr < 2 ^ 18 then
    let p := addr / 4096
    if !s.hasWindow p then .next s
    else if addr % 64 = 0 && n = 64 then execGraphPost p (addr % 4096 / 64) bytes s
    else .next (s.postRefused p)
  else
    let js := jobsOver s home n
    if js.any (fun q => s.captures.any (fun c => c.part == q.1 && c.job == q.2 && c.replay)) then .next s
    else
      let s := js.foldl (fun (s : State) q => s.captureHost q.1 q.2 1 home bytes) s
      .next (s.writeHome home bytes)

end Sys2Proof.Machine
end

