-- ==== Sys2Proof/Machine/Matrix.lean ====
section
/-! DEFINITION. The words of M: the shadow table, and the operations that they place with their checks at issue (R168 to R188). -/

namespace Sys2Proof.Machine

/-! ## The shadow table (R173 to R175) -/

/-- A value popped from CQM is out of range (R173). -/
def MBody.cause (c : Cause) : MBody := .fault (.of c)

/-- The core with its shadow table changed. -/
def Core.modShadow (c : Core) (f : Nest → Nest) : Core := { c with mat := { c.mat with shadow := f c.mat.shadow } }

/-- One field of a nest level: 0 COUNT, 1 MSTEP, 2 KSTEP, 3 NSTEP, 4 TSTEP. -/
def Level.put (l : Level) (f v : Nat) : Level :=
  match f with
  | 0 => { l with count := BitVec.ofNat 12 v }
  | 1 => { l with mstep := BitVec.ofNat 24 v }
  | 2 => { l with kstep := BitVec.ofNat 24 v }
  | 3 => { l with nstep := BitVec.ofNat 24 v }
  | _ => { l with tstep := BitVec.ofNat 4 v }

/-- What a popped entry writes into field `f` of a level; `none` where it is out of range (R173). -/
def popLevel (f : Nat) (e : W64) : Option Nat :=
  if f = 0 then (if 1 ≤ e.toNat && e.toNat ≤ 4096 then some (e.toNat - 1) else none)
  else if -(2 ^ 23) ≤ e.toInt && e.toInt < 2 ^ 23 then some (wrap 24 e.toInt) else none

/-- What a popped entry writes into ROW0 or COL0. -/
def popOrigin (e : W64) : Option Nat := if e.toNat < 2 ^ 24 then some e.toNat else none

/-- `MNOP` (R172). -/
def execMnop (s : State) : Out := mOp s 0 (fun c _ => .now c)

/-- `MNEST` (R173). -/
def execMnest (l : BitVec 4) (q : BitVec 1) (f : BitVec 6) (v : BitVec 24) (s : State) : Out :=
  mOp s q.toNat (fun c pops =>
    let w := if q = 1 then popLevel f.toNat (pops.headD 0) else some v.toNat
    match w with
    | none => .cause .qval
    | some n => .now (c.modShadow (fun sh =>
      { sh with levels := putAt 6 .zero sh.levels l.toNat ((sh.levels.getD l.toNat .zero).put f.toNat n) })))

/-- `MSRCA.REC` (R174). -/
def execMsrcaRec (t : BitVec 6) (cin : BitVec 12) (s : State) : Out :=
  mOp s 0 (fun c _ => .now (c.modShadow (fun sh => { sh with at_ := t, cin := cin })))

/-- `MSRCA.DIM` (R174). -/
def execMsrcaDim (ih iw : BitVec 12) (s : State) : Out :=
  mOp s 0 (fun c _ => .now (c.modShadow (fun sh => { sh with ih := ih, iw := iw })))

/-- `MSRCA.ROW0` (R174). -/
def execMsrcaRow0 (q : BitVec 1) (v : BitVec 24) (s : State) : Out :=
  mOp s q.toNat (fun c pops =>
    match if q = 1 then popOrigin (pops.headD 0) else some v.toNat with
    | none => .cause .qval
    | some n => .now (c.modShadow (fun sh => { sh with row0 := BitVec.ofNat 24 n })))

/-- `MSRCB.REC` (R174). -/
def execMsrcbRec (t : BitVec 6) (ncol : BitVec 12) (s : State) : Out :=
  mOp s 0 (fun c _ => .now (c.modShadow (fun sh => { sh with bt := t, ncol := ncol })))

/-- `MSRCB.COL0` (R174). -/
def execMsrcbCol0 (q : BitVec 1) (v : BitVec 24) (s : State) : Out :=
  mOp s q.toNat (fun c pops =>
    match if q = 1 then popOrigin (pops.headD 0) else some v.toNat with
    | none => .cause .qval
    | some n => .now (c.modShadow (fun sh => { sh with col0 := BitVec.ofNat 24 n })))

/-- `MDEST` (R175). -/
def execMdest (x : BitVec 4) (s : State) : Out :=
  mOp s 0 (fun c _ => .now (c.modShadow (fun sh => { sh with tb := x })))

/-- `MFMT` (R175). -/
def execMfmt (first i32 : BitVec 1) (s : State) : Out :=
  mOp s 0 (fun c _ => .now (c.modShadow (fun sh => { sh with acc := i32 == 1, first := first == 1 })))

/-! ## Operands of a nest (R174, R176, R177) -/

/-- Speed class of a format (R177), slowest first. -/
def fmtRank (fmt : Nat) : Nat :=
  if fmt = 0x00 then 0 else if fmt = 0x13 then 1 else if fmt = 0x01 || fmt = 0x02 then 2
  else if contBits fmt = 4 then 4 else 3

/-- G and the step length in ac of an operand pair (R177). -/
def nestRate (fa fb : Nat) : Nat × Nat :=
  match min (fmtRank fa) (fmtRank fb) with
  | 0 => (32, 256)
  | 1 => (32, 64)
  | 2 => (32, 32)
  | 3 => (64, 32)
  | _ => (128, 32)

/-- A nest with its records: what the unfolding unit works from. -/
structure Unfold where
  a : BitVec 256
  b : BitVec 256
  n : Nest
  deriving DecidableEq, Repr, Inhabited

/-- KH + 1, KW + 1, SH + 1, SW + 1, DH + 1, DW + 1 -/
def Unfold.kh (u : Unfold) : Nat := bits u.a 32 4 + 1
def Unfold.kw (u : Unfold) : Nat := bits u.a 28 4 + 1
def Unfold.sh (u : Unfold) : Nat := bits u.a 25 3 + 1
def Unfold.sw (u : Unfold) : Nat := bits u.a 22 3 + 1
def Unfold.dh (u : Unfold) : Nat := bits u.a 19 3 + 1
def Unfold.dw (u : Unfold) : Nat := bits u.a 16 3 + 1
/-- PT, PB, PL, PR -/
def Unfold.pt (u : Unfold) : Nat := bits u.a 12 4
def Unfold.pb (u : Unfold) : Nat := bits u.a 8 4
def Unfold.pl (u : Unfold) : Nat := bits u.a 4 4
def Unfold.pr (u : Unfold) : Nat := bits u.a 0 4
/-- CIN, IH, IW, NCOL -/
def Unfold.cin (u : Unfold) : Nat := u.n.cin.toNat + 1
def Unfold.ih (u : Unfold) : Nat := u.n.ih.toNat + 1
def Unfold.iw (u : Unfold) : Nat := u.n.iw.toNat + 1
def Unfold.ncol (u : Unfold) : Nat := u.n.ncol.toNat + 1
/-- OH and OW (R174) -/
def Unfold.oh (u : Unfold) : Int :=
  ((u.ih + u.pt + u.pb : Nat) - (u.dh * (u.kh - 1) : Nat) - 1 : Int).fdiv u.sh + 1
def Unfold.ow (u : Unfold) : Int :=
  ((u.iw + u.pl + u.pr : Nat) - (u.dw * (u.kw - 1) : Nat) - 1 : Int).fdiv u.sw + 1
/-- MROWS and KTOT -/
def Unfold.mrows (u : Unfold) : Int := u.oh * u.ow
def Unfold.ktot (u : Unfold) : Nat := u.kh * u.kw * u.cin
/-- G and step length -/
def Unfold.rate (u : Unfold) : Nat × Nat := nestRate (tFmt u.a) (tFmt u.b)

/-- Where an element of an operand lies: its byte offset from BASE, whether it is the high nibble of that byte, and the SPM offset of its scale. -/
structure Spot where
  off : Int
  high : Bool
  scale : Int
  deriving DecidableEq, Repr, Inhabited

/-- The place of `Aval(m, k)`; `none` where it is 0 by position (R174). -/
def Unfold.aSpot (u : Unfold) (m k : Int) : Option Spot :=
  if m < 0 || m ≥ u.mrows || k < 0 || k ≥ u.ktot then none
  else
    let ow := u.ow.toNat
    let mn := m.toNat
    let kn := k.toNat
    let p := kn / u.cin
    let c := kn % u.cin
    let h : Int := (mn / ow * u.sh : Nat) - (u.pt : Int) + (p / u.kw * u.dh : Nat)
    let w : Int := (mn % ow * u.sw : Nat) - (u.pl : Int) + (p % u.kw * u.dw : Nat)
    if h < 0 || h ≥ u.ih || w < 0 || w ≥ u.iw then none
    else
      let bits := contBits (tFmt u.a)
      some ⟨h * tStride1 u.a + w * tStride2 u.a + (c * bits / 8 : Nat), bits = 4 && c % 2 = 1,
        (tScale u.a + ((h.toNat * u.iw + w.toNat) * u.cin / 32 + c / 32) * scaleBytes (tFmt u.a) : Nat)⟩

/-- The place of `Bval(k, n)`; the scale row stride is STRIDE2 (R174). -/
def Unfold.bSpot (u : Unfold) (k n : Int) : Option Spot :=
  if k < 0 || k ≥ u.ktot || n < 0 || n ≥ u.ncol then none
  else
    let bits := contBits (tFmt u.b)
    let sc : Int := (tScale u.b : Int) + ((k.toNat / 32 : Nat) : Int) * tStride2 u.b + (n.toNat * scaleBytes (tFmt u.b) : Nat)
    some ⟨k * tStride1 u.b + (n.toNat * bits / 8 : Nat), bits = 4 && n.toNat % 2 = 1, sc⟩

/-- Bytes of an element's container. -/
def elemBytes (t : BitVec 256) : Nat := max 1 (contBits (tFmt t) / 8)

/-- An element lies within the limit of its record (R176, R185). -/
def inLimit (t : BitVec 256) (off : Int) : Bool := 0 ≤ off && off + elemBytes t ≤ window t

/-- Steps of a nest (R178). -/
def Nest.total (n : Nest) : Nat := n.levels.foldl (fun p l => p * (l.count.toNat + 1)) 1

/-- The counters `c0` to `c5` of step `i`: `c0` is the fastest (R176). -/
def Nest.counters (n : Nest) (i : Nat) : List Nat :=
  (n.levels.foldl (fun (acc : List Nat × Nat) l => (acc.1 ++ [acc.2 % (l.count.toNat + 1)], acc.2 / (l.count.toNat + 1))) ([], i)).1

/-- Origin of step `i`: m0, k0, n0 and the tile (R176). -/
def Nest.origin (n : Nest) (i : Nat) : Int × Int × Int × Nat :=
  let cs := n.counters i
  let dot (f : Level → Int) : Int := (cs.zip n.levels).foldl (fun a p => a + p.1 * f p.2) 0
  (n.row0.toNat + dot (fun l => l.mstep.toInt), dot (fun l => l.kstep.toInt), n.col0.toNat + dot (fun l => l.nstep.toInt),
   wrap 4 (n.tb.toNat + dot (fun l => l.tstep.toNat)))

/-- Lowest byte and one past the highest so far. -/
abbrev Reach := Option (Int × Int)

/-- A reach with `n` bytes at `a` more. -/
def Reach.add (r : Reach) (a : Int) (n : Nat) : Reach :=
  match r with
  | none => some (a, a + n)
  | some (lo, hi) => some (min lo a, max hi (a + n))

/-- What a nest reads of one operand: all it reads, what lies within the limit, and the scale bytes of that. -/
structure Touch where
  all : Reach
  inside : Reach
  scale : Reach
  deriving DecidableEq, Repr, Inhabited

/-- One element more. -/
def Touch.add (r : Touch) (t : BitVec 256) (p : Spot) : Touch :=
  let inl := inLimit t p.off
  ⟨r.all.add p.off (elemBytes t),
   if inl then r.inside.add p.off (elemBytes t) else r.inside,
   if inl && isBlock (tFmt t) then r.scale.add p.scale (scaleBytes (tFmt t)) else r.scale⟩

/-- The integers from `lo`, `n` of them, that lie in `[0, top)`. -/
def rangeIn (lo : Int) (n : Nat) (top : Int) : List Int :=
  let a := max 0 lo
  let b := min (lo + n) top
  (List.range (b - a).toNat).map (fun (i : Nat) => a + (i : Int))

/-- What the steps of a nest read of A and of B (R176). -/
def Unfold.touch (u : Unfold) : Touch × Touch :=
  let g := u.rate.1
  (List.range u.n.total).foldl (fun (acc : Touch × Touch) i =>
    let (m0, k0, n0, _) := u.n.origin i
    let ks := rangeIn k0 g u.ktot
    let ta := (rangeIn m0 64 u.mrows).foldl (fun t m => ks.foldl (fun t k => match u.aSpot m k with
      | some p => t.add u.a p
      | none => t) t) acc.1
    let tb := ks.foldl (fun t k => (rangeIn n0 32 u.ncol).foldl (fun t n => match u.bSpot k n with
      | some p => t.add u.b p
      | none => t) t) acc.2
    (ta, tb)) (⟨none, none, none⟩, ⟨none, none, none⟩)

/-- A fault through record `n`, with the lease. -/
def mFault (c : Cause) (n lease : Nat) : Report := { Report.of c with trec := n, lease := lease }

/-- With BOUNDS 0, a byte that a step reads lies outside the limit (R176). -/
def Touch.out (r : Touch) (t : BitVec 256) : Bool :=
  match r.all with
  | some (lo, hi) => tBounds t == 0 && (lo < 0 || hi > window t)
  | none => false

/-- The lease of a record, and its range within it (R176); the offsets count from BASE. -/
def rangeLease (s : State) (core : Nat) (t : BitVec 256) (inside : Reach) : Option Cause :=
  let pj := s.jobOf core
  match inside with
  | some (lo, hi) => checkRange s pj.1 pj.2 (tLease t) (keyTier core (tBkind t) (tBase t + lo.toNat)) (hi - lo).toNat
  | none => match leaseCheck s pj.1 pj.2 (tLease t) with
    | .ok _ => none
    | .error .reclaimed => some .nolease
    | .error c => some c

/-- The covering lease of a scale array, or its fault: beyond the core's SPM no lease covers it (R176, R10). -/
def scaleCheck (s : State) (core : Nat) (r : Reach) : Except (Cause × Nat) (List Nat) :=
  match r with
  | none => .ok []
  | some (lo, hi) =>
    if lo < 0 || hi > 0x100000 then .error (.nolease, 0) else
    let pj := s.jobOf core
    let k := keySpm core lo.toNat
    let n := (hi - lo).toNat
    let id := coveringLease s pj.1 pj.2 k n
    match checkRange s pj.1 pj.2 id k n with
    | some c => .error (c, id)
    | none => .ok [id]

/-- An operation made from the word under the cursor. -/
def mkMOp (s : State) (c : Core) (i : Instr) (stream : BitVec 2) (ra rb : BitVec 256) (leases : List Nat) : MOp :=
  ⟨c.nextId, stream.toNat, s.cur.word, i, BitVec.ofNat 17 s.cur.pc, if s.cur.packed then s.cur.codePos else 0, s.cur.frame.signal, false, 0,
   c.mat.epoch, c.mat.shadow, ra, rb, leases, c.csr.tol, c.csr.srkey, 0, none, false, false, 0⟩

/-- Operations of a stream of M. -/
def Mat.queue (m : Mat) (stream : Nat) : List MOp := m.ops.filter (fun o => o.stream == stream)

/-- A word that places an operation (R169): MQ_FULL, then its own checks. -/
def mPlace (s : State) (stream : BitVec 2) (late : Bool) (make : Core → Except Report MOp) : Out :=
  mOp s 0 (fun c _ =>
    if (c.mat.queue stream.toNat).length ≥ 4 then .cause .mqFull
    else match make c with
      | .error r => .fault r
      | .ok op => .place c op late)

/-- A record's BASE and strides are multiples of 4 (R176). -/
def strideOk (t : BitVec 256) : Bool := tBase t % 4 == 0 && tStride1 t % 4 == 0 && tStride2 t % 4 == 0

/-- The RECORD conditions of `MGO` (R176): the number of the record at fault. -/
def Unfold.bad (u : Unfold) : Option Nat :=
  let ia := isIntFmt (tFmt u.a)
  if tBkind u.a != 0 || tBounds u.a == 1 then some u.n.at_.toNat
  else if tBkind u.b != 1 || tBounds u.b == 1 then some u.n.bt.toNat
  else if u.oh ≤ 0 || u.ow ≤ 0 || ((isBlock (tFmt u.a) || isBlock (tFmt u.b)) && u.cin % 32 != 0) ||
      ia != isIntFmt (tFmt u.b) || u.n.acc != ia then some u.n.at_.toNat
  else none

/-- `MGO` (R176). -/
def execMgo (stream : BitVec 2) (s : State) : Out :=
  mPlace s stream true (fun c => do
    let core := s.cur.core
    let n := c.mat.shadow
    let u : Unfold := ⟨c.T n.at_.toNat, c.T n.bt.toNat, n⟩
    let na := n.at_.toNat
    let nb := n.bt.toNat
    match u.bad with
    | some r => throw (mFault .record r 0)
    | none => pure ()
    if !strideOk u.a then throw (mFault .align na 0)
    if !strideOk u.b then throw (mFault .align nb 0)
    let (ta, tb) := u.touch
    if ta.out u.a then throw (mFault .bounds na (tLease u.a))
    if tb.out u.b then throw (mFault .bounds nb (tLease u.b))
    match rangeLease s core u.a ta.inside with
    | some e => throw (mFault e na (tLease u.a))
    | none => pure ()
    match rangeLease s core u.b tb.inside with
    | some e => throw (mFault e nb (tLease u.b))
    | none => pure ()
    let la ← (scaleCheck s core ta.scale).mapError (fun e => mFault e.1 na e.2)
    let lb ← (scaleCheck s core tb.scale).mapError (fun e => mFault e.1 nb e.2)
    pure (mkMOp s c (.mgo stream) stream u.a u.b ([tLease u.a, tLease u.b] ++ la ++ lb)))

/-! ## The other operations -/

/-- `MLOADB` (R182): all its checks are made at issue. -/
def execMloadb (t : BitVec 6) (stream : BitVec 2) (y : BitVec 6) (n : BitVec 12) (s : State) : Out :=
  mPlace s stream false (fun c => do
    let core := s.cur.core
    let src := c.T t.toNat
    let dst := c.T y.toNat
    let len : Int := 64 * (n.toNat + 1)
    if tBkind src != 0 then throw (mFault .record t.toNat 0)
    if tBkind dst != 1 then throw (mFault .record y.toNat 0)
    if tBase src % 64 != 0 then throw (mFault .align t.toNat 0)
    if tBase dst % 64 != 0 then throw (mFault .align y.toNat 0)
    if len > window src then throw (mFault .bounds t.toNat 0)
    if len > window dst then throw (mFault .bounds y.toNat 0)
    let pj := s.jobOf core
    match checkRange s pj.1 pj.2 (tLease src) (keySpm core (tBase src)) len.toNat with
    | some e => throw (mFault e t.toNat (tLease src))
    | none => pure ()
    match checkRange s pj.1 pj.2 (tLease dst) (keyMsm core (tBase dst)) len.toNat with
    | some e => throw (mFault e y.toNat (tLease dst))
    | none => pure ()
    pure (mkMOp s c (.mloadb t stream y n) stream src dst [tLease src, tLease dst]))

/-- The RECORD conditions of `MDRAIN` (R185). -/
def drainOk (t : BitVec 256) (i32 nonsat : Bool) : Bool :=
  let f := tFmt t
  tBkind t == 0 && tBounds t != 1 && !(i32 && !(isIntFmt f || f == 0)) && !(nonsat && noNonsat f)

/-- Offset of element `(row, col)` of a drain (R185). -/
def drainOff (t : BitVec 256) (row col : Nat) : Int := (row : Int) * tStride1 t + (col * contBits (tFmt t) / 8 : Nat)

/-- What a drain writes: elements, those within the limit, and scale bytes. -/
def drainTouch (t : BitVec 256) : Touch :=
  (List.range 64).foldl (fun (acc : Touch) row =>
    (List.range 32).foldl (fun (acc : Touch) col =>
      acc.add t ⟨drainOff t row col, false, (tScale t + row * scaleBytes (tFmt t) : Nat)⟩) acc) ⟨none, none, none⟩

/-- `MDRAIN` (R185). -/
def execMdrain (x : BitVec 4) (t : BitVec 6) (stream : BitVec 2) (i32 chk nonsat : BitVec 1) (mode : BitVec 3) (s : State) : Out :=
  mPlace s stream true (fun c => do
    let core := s.cur.core
    let r := c.T t.toNat
    let n := t.toNat
    if !drainOk r (i32 == 1) (nonsat == 1) then throw (mFault .record n 0)
    if tBase r % 4 != 0 || tStride1 r % 4 != 0 then throw (mFault .align n 0)
    let w := drainTouch r
    if w.out r then throw (mFault .bounds n (tLease r))
    match w.scale with
    | some (_, hi) => if hi > 0x100000 then throw (mFault .bounds n 0)
    | none => pure ()
    match rangeLease s core r w.inside with
    | some e => throw (mFault e n (tLease r))
    | none => pure ()
    let ls ← (scaleCheck s core w.scale).mapError (fun e => mFault e.1 n e.2)
    pure (mkMOp s c (.mdrain x t stream i32 chk nonsat mode) stream 0 r ([tLease r] ++ ls)))

/-- `MZERO` (R183). -/
def execMzero (stream : BitVec 2) (mask : BitVec 16) (s : State) : Out :=
  mPlace s stream false (fun c => .ok (mkMOp s c (.mzero stream mask) stream 0 0 []))

/-- `MCHK.ON` (R184). -/
def execMchkOn (stream : BitVec 2) (mask : BitVec 16) (s : State) : Out :=
  mPlace s stream false (fun c => .ok (mkMOp s c (.mchkOn stream mask) stream 0 0 []))

/-- `MCHK.OFF` (R184). -/
def execMchkOff (stream : BitVec 2) (mask : BitVec 16) (s : State) : Out :=
  mPlace s stream false (fun c => .ok (mkMOp s c (.mchkOff stream mask) stream 0 0 []))

/-- `MDRY` (R187). -/
def execMdry (k : BitVec 4) (seed : BitVec 6) (stream : BitVec 2) (check : BitVec 24) (s : State) : Out :=
  mPlace s stream false (fun c => .ok (mkMOp s c (.mdry k seed stream check) stream 0 0 []))

/-- `MSYNC` (R188): operations queued from now on start only when every earlier one has completed. -/
def execMsync (s : State) : Out :=
  mOp s 0 (fun c _ =>
    if [0, 1, 2, 3].any (fun q => (c.mat.queue q).length ≥ 4) then .cause .mqFull
    else .now { c with mat := { c.mat with epoch := c.mat.epoch + 1 } })

end Sys2Proof.Machine
end

