-- ==== Sys2Proof/Machine/Image.lean ====
section
/-! DEFINITION. The save image (R318 to R322): what a pre-empted unit's pages hold. -/

namespace Sys2Proof.Machine

/-! ## Pieces of sections -/

/-- `bs` with zeros up to `n` bytes. -/
def padTo (n : Nat) (bs : List Byte) : List Byte := bs ++ List.replicate (n - bs.length) 0

/-- A loop register (R20). -/
def loopBits (l : Loop) : Nat := l.act.toNat * 2 ^ 63 + l.count.toNat * 2 ^ 34 + l.start.toNat * 2 ^ 17 + l.stop.toNat

/-- A stream entry (R320). -/
def streamEntry (st : Stream) : List Byte :=
  let state := match st.run with
    | .ended => 0
    | .running => 1
    | .frozen => 2
  let code := if st.packed then st.codePos % 4 else 0
  toBytes 64 (st.pc.toNat * 2 ^ 463 + code * 2 ^ 461 + state * 2 ^ 458 +
    ((st.loops.take 4).zipIdx.foldl (fun n l => n + loopBits l.1 * 2 ^ (64 * l.2)) 0))

/-- A bitmap of `n` bits, then the granules that it names. -/
def bitmapSection (n : Nat) (gs : List (Nat × List Byte)) : List Byte :=
  toBytes (n / 8) (gs.foldl (fun m g => m + 2 ^ g.1) 0) ++ gs.flatMap (·.2)

/-- Granules of a file of tiles that are not all zero; a tile has `per` granules. -/
def tileGranules (file : Sparse Tile) (per : Nat) (live : Nat → Bool) : List (Nat × List Byte) :=
  (file.filter (fun t => live t.1)).flatMap (fun t =>
    ((t.2.map (fun e => e.1 / 16)).eraseDups.filter (· < per)).map (fun g =>
      (t.1 * per + g, (List.range 16).flatMap (fun i => toBytes 4 (lane t.2 (16 * g + i)).toNat))))

/-- Registers `0` to `n - 1` of a file of `w` bytes each. -/
def fileBytes (n w : Nat) (f : Nat → Nat) : List Byte := (List.range n).flatMap (fun i => toBytes w (f i))

/-! ## The sections (R319) -/

/-- Section 1: the live S registers. -/
def imageS (c : Core) (mask : Nat) : List Byte :=
  let ns := (upto 0 32).filter (fun n => mask.testBit n)
  padTo (ceilDiv (8 * ns.length) 64 * 64) (ns.flatMap (fun n => toBytes 8 (c.S n).toNat))

/-- Section 2: G, H, T, I, O. -/
def imageRegs (c : Core) : List Byte :=
  padTo 64 (fileBytes 12 4 (fun n => (c.G n).toNat)) ++ fileBytes 32 16 (fun n => (c.H n).toNat) ++
    fileBytes 64 32 (fun n => (c.T n).toNat) ++ fileBytes 16 16 (fun n => (c.I n).toNat) ++ fileBytes 32 8 (fun n => (c.O n).toNat)

/-- Section 3: the stored CSRs. -/
def imageCsrs (q : Csrs) : List Byte :=
  padTo 64 (toBytes 4 q.fflags.toNat ++ toBytes 4 q.amax.toNat ++ toBytes 8 q.srkey.toNat ++ toBytes 4 q.offcutb.toNat ++
    toBytes 4 q.offcutn.toNat ++ toBytes 4 q.trapv.toNat ++ toBytes 4 q.trapc.toNat ++ toBytes 8 q.trappc.toNat ++
    toBytes 8 q.trapx.toNat ++ toBytes 4 q.trapret.toNat ++ toBytes 4 q.tol.toNat)

/-- Section 4: the streams. -/
def imageStreams (l : List Stream) : List Byte := padTo 256 (l.flatMap streamEntry)

/-- Section 5: the buffer-phase snapshot. -/
def imageSnap (sn : Snapshot) : List Byte := imageStreams sn.streams ++ fileBytes 16 8 (fun n => (spGet 0 sn.idx n).toNat)

/-- Section 6: control queues, dowels, HEAD and PENDN. -/
def imageQueues (c : Core) : List Byte :=
  let q (l : List (Nat × W64)) : List Byte := padTo 520 (toBytes 8 l.length ++ l.flatMap (fun e => toBytes 8 e.2.toNat))
  let pairs := (upto 0 16).filter (fun i => i / 4 != i % 4)
  padTo 1152 (q c.cqv ++ q c.cqm ++ pairs.flatMap (fun i => toBytes 1 (spGet 0 c.dowel i)) ++ toBytes 2 c.head ++ toBytes 2 c.pendn)

/-- Section 11: checksums. -/
def imageSums (m : Mat) : List Byte :=
  padTo 64 (toBytes 2 m.chkOn.toNat) ++ (List.range 16).flatMap (fun t =>
    fileBytes 64 4 (fun i => (spGet 0 m.rho (t * 64 + i)).toNat) ++ fileBytes 32 4 (fun i => (spGet 0 m.gam (t * 32 + i)).toNat))

/-- A nest entry (R321): the shadow table, or an operation. -/
def nestEntry (word : W64) (stream pos : Nat) (started mark : Bool) (ctr : List Nat) (n : Nest) (ra rb : BitVec 256) : List Byte :=
  let levels := n.levels.zipIdx.foldl (fun a l =>
    a + (l.1.count.toNat * 2 ^ 76 + l.1.mstep.toNat * 2 ^ 52 + l.1.kstep.toNat * 2 ^ 28 + l.1.nstep.toNat * 2 ^ 4 + l.1.tstep.toNat) * 2 ^ (88 * l.2)) 0
  let src := n.at_.toNat * 2 ^ 108 + n.cin.toNat * 2 ^ 96 + n.ih.toNat * 2 ^ 84 + n.iw.toNat * 2 ^ 72 + n.row0.toNat * 2 ^ 48 +
    n.bt.toNat * 2 ^ 42 + n.ncol.toNat * 2 ^ 30 + n.col0.toNat * 2 ^ 6 + n.tb.toNat * 2 ^ 2 + n.acc.toNat * 2 + n.first.toNat
  let cs := ctr.zipIdx.foldl (fun a c => a + c.1 % 4096 * 2 ^ (12 * c.2)) 0
  toBytes 256 (word.toNat * 2 ^ 1984 + stream * 2 ^ 1982 + pos * 2 ^ 1980 + started.toNat * 2 ^ 1979 + mark.toNat * 2 ^ 1978 +
    cs * 2 ^ 1906 + levels * 2 ^ 1378 + src * 2 ^ 1264 + ra.toNat * 2 ^ 768 + rb.toNat * 2 ^ 512)

/-- Section 12: the nest tables. -/
def imageNests (m : Mat) : List Byte :=
  let low := m.ops.foldl (fun n o => min n o.epoch) m.epoch
  let one (o : MOp) (pos prev : Nat) : List Byte :=
    let ctr := match o.instr with
      | .mgo _ => o.nest.counters o.steps
      | _ => [o.steps]
    nestEntry o.word o.stream pos o.started (prev < o.epoch) ctr o.nest o.ra o.rb
  nestEntry 0 0 0 false false [] m.shadow 0 0 ++
    (upto 0 4).flatMap (fun q =>
      let l := m.queue q
      l.zipIdx.flatMap (fun e => one e.1 e.2 (if e.2 = 0 then low else (l.map (·.epoch)).getD (e.2 - 1) 0)))

/-- A replay entry (R322). -/
def replayEntry (x : XCmd) (kind cstat : Nat) : List Byte :=
  toBytes 128 (x.word.toNat * 2 ^ 960 + x.pc.toNat * 2 ^ 943 + x.codePos % 4 * 2 ^ 941 + kind * 2 ^ 937 + x.pp % 2 ^ 24 * 2 ^ 913 +
    x.lb % 16 * 2 ^ 909 + cstat % 256 * 2 ^ 901 + x.obj.toNat * 2 ^ 768 + x.ra.toNat * 2 ^ 512 + x.rb.toNat * 2 ^ 256 + x.rx.toNat)

/-- Progress of a prefetch list (R322): the first entry, in the order in which they run, that is not over, and PP and LB of 32 entries, LB lowest (log 54). -/
def listEntry (x : XCmd) : List Byte :=
  let es := (prefOrder x.data).zipIdx
  let first := (es.takeWhile (fun e => x.entOver e.2 e.1)).length
  let low := (upto 0 32).foldl (fun n i => let q := x.entAt (first + i); n + (q.pp % 2 ^ 24 * 16 + q.lb % 16) * 2 ^ (28 * i)) 0
  toBytes 128 (first % 2 ^ 16 * 2 ^ 1008 + 2 * 2 ^ 937 + low)

/-- Section 13: the replay entries, and how many. -/
def imageReplay (c : Core) : List Byte × Nat :=
  let one (x : XCmd) : List (List Byte) := match x.instr with
    | .xcoll .. => [replayEntry x 1 (if x.acted then cf (BitVec.ofNat 1024 (x.data.headD 0)) 1016 8 else 0)]
    | .xpref _ => [replayEntry x 0 0, listEntry x]
    | _ => [replayEntry x 0 0]
  let bars : List (List Byte) := c.ctl.bars.map (fun a =>
    toBytes 128 (a.word.toNat * 2 ^ 960 + a.pc % 2 ^ 17 * 2 ^ 943 + a.codePos % 4 * 2 ^ 941 + 3 * 2 ^ 937 + a.gen % 2 ^ 24 * 2 ^ 913))
  let es := c.copy.cmds.flatMap one ++ bars
  (es.flatten, es.length)

/-! ## The image (R318) -/

/-- Bytes of the SPM or the MSM of a core that stowed ranges cover and that are not zero, granule by granule, poisoned ones among them. -/
def savedGranules (s : State) (core : Nat) (rs : List (Nat × Nat)) : List (Nat × List Byte × Bool) :=
  let in_ (k : Nat) : Bool := isOwnKey core k && overlaps rs k 1
  let ks : List Nat := ((s.mem.filter (fun (e : Nat × Byte) => in_ e.1)).map (fun (e : Nat × Byte) => e.1 / 64) ++ s.poison.filter (fun g => in_ (g * 64))).eraseDups
  let gs := ks.foldl (fun (l : List Nat) g => l.takeWhile (· < g) ++ g :: l.dropWhile (· < g)) []
  gs.map (fun g => (g * 64, memBytes s.mem (g * 64) 64, s.poison.contains g))

/-- The image of a unit: header, sections, at their offsets. -/
def saveImage (s : State) (core : Nat) (c : Core) (sMask vMask : Nat) (lease : Nat) (gs : List (Nat × List Byte × Bool)) : List Byte :=
  let pj := s.jobOf core
  let u := c.seat.unit.getD (0, 0)
  let (replay, n) := imageReplay c
  let tier (base count : Nat) : List (Nat × List Byte) :=
    (gs.filter (fun g => base ≤ g.1 && g.1 < base + 64 * count)).map (fun g => ((g.1 - base) / 64, g.2.1))
  let secs : List (List Byte) :=
    [imageS c sMask, imageRegs c, imageCsrs c.csr, imageStreams [c.c, c.v, c.m, c.x], imageSnap c.snap, imageQueues c,
     fileBytes 4096 8 (fun n => (spGet 0 c.dict n).toNat), fileBytes 7 128 (fun n => (c.vec.K (n + 1)).toNat),
     bitmapSection 1024 (tileGranules c.vec.v 64 (fun n => vMask.testBit n)), bitmapSection 2048 (tileGranules c.mat.a 128 (fun _ => true)),
     imageSums c.mat, imageNests c.mat, replay,
     bitmapSection 16384 (tier (keySpm core 0) 16384), bitmapSection 4096 (tier (keyMsm core 0) 4096)]
  let (sect, _) := secs.zipIdx.foldl (fun (acc : Nat × Nat) e =>
    (acc.1 + (acc.2 * 2 ^ 32 + e.1.length) * 2 ^ (64 * (e.2 + 1)), acc.2 + e.1.length)) (256, 256)
  let head := 0x42585356 * 2 ^ 2016 + 2 ^ 2008 + pj.2 % 2 ^ 16 * 2 ^ 1992 + u.2 % 2 ^ 32 * 2 ^ 1960 + u.1 % 2 ^ 32 * 2 ^ 1928 +
    core % 2048 * 2 ^ 1917 + s.tick % 2 ^ 48 * 2 ^ 1864 + lease % 2 ^ 16 * 2 ^ 1848 + n % 64 * 2 ^ 1842 + sect
  toBytes 256 head ++ secs.flatten

/-! ## Loading an image (R323) -/

/-- A byte of a saved image, as its pages hold it now; nothing lies beyond them. -/
def State.imageByte (s : State) (v : Saved) (o : Nat) : Byte :=
  match v.pages[o / 2 ^ 18]? with
  | some k => memByte s.mem (k + o % 2 ^ 18)
  | none => 0

/-- `n` bytes of a saved image from offset `o` on, as a number. -/
def State.imageNat (s : State) (v : Saved) (o n : Nat) : Nat := ofBytes ((upto o n).map (s.imageByte v))

/-- A granule that a saved image holds from offset `o` on is poisoned now (R369). -/
def State.imageHot (s : State) (v : Saved) (o : Nat) : Bool :=
  match v.pages[o / 2 ^ 18]? with
  | some k => s.poisoned (k + o % 2 ^ 18) 64
  | none => false

/-- Where section `n` of a saved image begins, as its header says (R318). -/
def State.sectionAt (s : State) (v : Saved) (n : Nat) : Nat := s.imageNat v (8 * n + 4) 4

/-- Registers `a` to `a + n - 1` of a file of `w` bytes each, at `o`. -/
def loadFile {m : Nat} (rd : Nat → Nat → Nat) (o w a n : Nat) : Sparse (BitVec m) :=
  (upto 0 n).foldl (fun f i => spPut 0 f (a + i) (BitVec.ofNat m (rd (o + w * i) w))) []

/-- The granules of `n` that the bitmap at `o` names: number, and where the granule stands in the image. -/
def bitmapPlaces (rd : Nat → Nat → Nat) (o n : Nat) : List (Nat × Nat) :=
  let map := rd o (n / 8)
  ((upto 0 n).filter (fun g => map.testBit g)).zipIdx.map (fun g => (g.1, o + n / 8 + 64 * g.2))

/-- A file of tiles of `per` granules, from a bitmap section of `n` bits at `o`. -/
def loadTiles (rd : Nat → Nat → Nat) (o n per : Nat) : Sparse Tile :=
  (bitmapPlaces rd o n).foldl (fun f g =>
    let t := (upto 0 16).foldl (fun t i => spPut 0 t (16 * (g.1 % per) + i) (BitVec.ofNat 32 (rd (g.2 + 4 * i) 4))) (spGet [] f (g.1 / per))
    spPut [] f (g.1 / per) t) []

/-- A loop register (R20). -/
def loadLoop (n : Nat) : Loop := ⟨n.testBit 63, fld n 34 24, fld n 17 17, fld n 0 17⟩

/-- A stream entry (R320); what it does not hold stays. -/
def loadStream (st : Stream) (n : Nat) : Stream :=
  let packed := st.packed || fldN n 461 2 != 0
  { st with
    pc := fld n 463 17
    packed := packed
    codePos := if packed then fldN n 461 2 else st.codePos
    run := match fldN n 458 3 with
      | 0 => .ended
      | 1 => .running
      | 2 => .frozen
      | _ => st.run
    loops := (upto 0 4).map (fun l => loadLoop (fldN n (64 * l) 64)) }

/-- The four streams of a section at `o`. -/
def loadStreams (rd : Nat → Nat → Nat) (o : Nat) (l : List Stream) : List Stream :=
  l.zipIdx.map (fun e => loadStream e.1 (rd (o + 64 * e.2) 64))

/-- The stored CSRs at `o`. -/
def loadCsrs (rd : Nat → Nat → Nat) (o : Nat) : Csrs :=
  let f (m i w : Nat) : BitVec m := BitVec.ofNat m (rd (o + i) w)
  ⟨f 32 0 4, f 32 4 4, f 64 8 8, f 32 16 4, f 10 20 4, f 17 24 4, f 16 28 4, f 17 32 8, f 64 40 8, f 32 48 4, f 32 52 4⟩

/-- A control queue at `o`: its entries may be popped at once. -/
def loadQueue (rd : Nat → Nat → Nat) (o : Nat) : List (Nat × W64) :=
  (upto 0 (min (rd o 8) 64)).map (fun i => (0, BitVec.ofNat 64 (rd (o + 8 + 8 * i) 8)))

/-- The nest table that an entry holds (R321). -/
def loadNest (n : Nat) : Nest :=
  ⟨(upto 0 6).map (fun l => let b := 1378 + 88 * l
      (⟨fld n (b + 76) 12, fld n (b + 52) 24, fld n (b + 28) 24, fld n (b + 4) 24, fld n b 4⟩ : Level)),
   fld n 1372 6, fld n 1360 12, fld n 1348 12, fld n 1336 12, fld n 1312 24, fld n 1306 6, fld n 1294 12, fld n 1270 24, fld n 1266 4,
   n.testBit 1265, n.testBit 1264⟩

/-- An operation as its entry has it (R321): whether it has started, its counters, its table and its record images. -/
def loadOp (o : MOp) (n : Nat) : MOp :=
  let nest := loadNest n
  let ctr := (upto 0 6).map (fun i => fldN n (1906 + 12 * i) 12)
  let steps := match o.instr with
    | .mgo _ => if o.nest.counters o.steps = ctr then o.steps else ((ctr.zip nest.levels).foldr (fun p acc => acc * (p.2.count.toNat + 1) + p.1) 0)
    | _ => if o.steps % 4096 = ctr.headD 0 then o.steps else ctr.headD 0
  { o with started := n.testBit 1979, steps := steps, nest := nest, ra := fld n 768 256, rb := fld n 512 256 }

/-- M's operations, in the order of their entries. -/
def loadOps (rd : Nat → Nat → Nat) (o : Nat) (m : Mat) : List MOp :=
  let order := (upto 0 4).flatMap (fun q => (m.queue q).map (·.id))
  m.ops.map (fun e => match order.idxOf? e.id with
    | some i => loadOp e (rd (o + 256 * (i + 1)) 256)
    | none => e)

/-- A command as its replay entry has it (R322): the images that it runs on, its progress, and the STATUS of one that was handed over. -/
def loadCmd (x : XCmd) (rd : Nat → Nat → Nat) (o : Nat) : XCmd :=
  let n := rd o 128
  let x := { x with obj := fld n 768 64, ra := fld n 512 256, rb := fld n 256 256, rx := fld n 0 256 }
  match x.instr with
  | .xcoll .. =>
    if fldN n 901 8 = 0 then x
    else { x with acted := true, data := [(putBits (BitVec.ofNat 1024 (x.data.headD 0)) 1016 8 (fldN n 901 8)).toNat] }
  | .xpref _ =>
    let m := rd (o + 128) 128
    (upto 0 32).foldl (fun (x : XCmd) i =>
      let e := fldN m 1008 16 + i
      if e < x.data.length then x.setEnt e { x.entAt e with pp := fldN m (28 * i + 4) 24, lb := fldN m (28 * i) 4 } else x) x
  | _ => { x with pp := fldN n 913 24, lb := fldN n 909 4 }

/-- The commands of X, in the order of their entries. -/
def loadCmds (rd : Nat → Nat → Nat) : Nat → List XCmd → List XCmd
  | _, [] => []
  | o, x :: xs =>
    let n := match x.instr with
      | .xpref _ => 2
      | _ => 1
    loadCmd x rd o :: loadCmds rd (o + 128 * n) xs

/-- The context of a saved unit: every item of R17 from the sections of the image as its pages hold it now (R323). DEDUCED: what no section holds, and how many operations and commands there are, comes from the record (log 16). -/
def State.loadImage (s : State) (v : Saved) : Core :=
  let rd := s.imageNat v
  let at_ := s.sectionAt v
  let c := v.ctx
  let live := liveS v.sMask
  let q := at_ 6
  let pairs := (upto 0 16).filter (fun i => i / 4 != i % 4)
  let st := loadStreams rd (at_ 4) [c.c, c.v, c.m, c.x]
  { c with
    regs := { c.regs with
      s := live.zipIdx.foldl (fun f e => spPut 0 f e.1 (BitVec.ofNat 64 (rd (at_ 1 + 8 * e.2) 8))) []
      g := loadFile rd (at_ 2) 4 0 12
      h := loadFile rd (at_ 2 + 64) 16 0 32
      t := loadFile rd (at_ 2 + 576) 32 0 64
      i := loadFile rd (at_ 2 + 2624) 16 0 16
      o := loadFile rd (at_ 2 + 2880) 8 0 32 }
    csr := loadCsrs rd (at_ 3)
    c := st.getD 0 c.c, v := st.getD 1 c.v, m := st.getD 2 c.m, x := st.getD 3 c.x
    snap := { c.snap with
      streams := loadStreams rd (at_ 5) c.snap.streams
      idx := (upto 0 16).foldl (fun f i => spPut 0 f i (BitVec.ofNat 48 (rd (at_ 5 + 256 + 8 * i) 8))) [] }
    cqv := loadQueue rd q
    cqm := loadQueue rd (q + 520)
    dowel := pairs.zipIdx.foldl (fun f e => spPut 0 f e.1 (rd (q + 1040 + e.2) 1)) []
    head := rd (q + 1052) 2
    pendn := rd (q + 1054) 2
    dict := loadFile rd (at_ 7) 8 0 4096
    hot := (upto 0 512).filter (fun g => s.imageHot v (at_ 7 + 64 * g))
    vec := { v := loadTiles rd (at_ 9) 1024 64, k := loadFile rd (at_ 8) 128 1 7 }
    mat := { c.mat with
      a := loadTiles rd (at_ 10) 2048 128
      chkOn := BitVec.ofNat 16 (rd (at_ 11) 2)
      rho := (upto 0 16).foldl (fun f t => (upto 0 64).foldl (fun f i => spPut 0 f (t * 64 + i) (BitVec.ofNat 32 (rd (at_ 11 + 64 + 384 * t + 4 * i) 4))) f) []
      gam := (upto 0 16).foldl (fun f t => (upto 0 32).foldl (fun f i => spPut 0 f (t * 32 + i) (BitVec.ofNat 32 (rd (at_ 11 + 320 + 384 * t + 4 * i) 4))) f) []
      shadow := loadNest (rd (at_ 12) 256)
      ops := loadOps rd (at_ 12) c.mat }
    copy := { c.copy with cmds := loadCmds rd (at_ 13) c.copy.cmds } }

/-- The granules of SPM and of MSM that an image holds: the home on the core that saved it, the bytes, and whether the image's granule is poisoned now (R369). -/
def State.imageGranules (s : State) (v : Saved) : List (Nat × List Byte × Bool) :=
  let rd := s.imageNat v
  let one (base : Nat) (g : Nat × Nat) : Nat × List Byte × Bool :=
    (base + 64 * g.1, (upto g.2 64).map (s.imageByte v), s.imageHot v g.2)
  (bitmapPlaces rd (s.sectionAt v 14) 16384).map (one (keySpm v.core 0)) ++ (bitmapPlaces rd (s.sectionAt v 15) 4096).map (one (keyMsm v.core 0))

end Sys2Proof.Machine
end

