-- ==== Sys2Proof/Machine/Sched.lean ====
section
/-! DEFINITION. Slices, watchdogs, pre-emption, the save and the restore of units (R305, R311, R313 to R323). -/

namespace Sys2Proof.Machine

/-! ## Slices (R305) -/

/-- A ready unit of the partition waits for a core of the die, or the job's purse is capped (R305, R356). -/
def State.sliceWanted (s : State) (core : Nat) : Bool :=
  let pj := s.jobOf core
  (s.purse pj.1 pj.2).capped || !(s.readyUnits pj.1 (dieOf core) none).isEmpty

/-- A new slice begins, and is charged (R305). -/
def State.newSlice (s : State) (core : Nat) : State :=
  let pj := s.jobOf core
  let sl := (s.part pj.1).slice.toNat
  let ix := placerIx pj.1 core
  let a := spGet Arbiter.zero s.placers ix
  let s : State := { s with placers := spSet s.placers ix { a with d := spPut 0 a.d pj.2 (spGet 0 a.d pj.2 - sl) } }
  (s.modCore core (fun c => { c with seat := { c.seat with sliceTick := s.tick, sliceAc := s.acOf core, leaving := false, stopping := false } })).atTick
    (s.tick + sl) (.sliceEnd core)

/-- The dispatcher decides to pre-empt the unit on a core. -/
def State.evict (s : State) (core : Nat) : State :=
  (s.modCore core (fun c => { c with seat := { c.seat with leaving := true } })).soon [.preempt core]

/-- SLICE_END (R305). -/
def execSliceEnd (core : Nat) (s : State) : Out :=
  let q := (s.core core).seat
  if q.unit.isNone || q.stopping || q.leaving || s.tick < q.sliceTick + (s.part (s.jobOf core).1).slice.toNat then .next s
  else if s.sliceWanted core then .next (s.evict core)
  else .next (s.newSlice core)

/-- IDLE_SLICE_END (R305): all four streams have been held at issue for 256 ticks, and a ready unit waits. -/
def execIdleSliceEnd (core : Nat) (s : State) : Out :=
  let q := (s.core core).seat
  if q.unit.isNone || q.stopping || q.leaving || !(s.core core).idleFor s.tick || (s.readyUnits (s.jobOf core).1 (dieOf core) none).isEmpty then .next s
  else .next (s.evict core)

/-- The number of a wait's kind in a STALL record (log 55). -/
def WaitKind.code : WaitKind → Nat
  | .none => 0 | .tokens => 1 | .queue => 2 | .dowelRoom => 3 | .object => 4 | .enqr => 5 | .rend => 6 | .bar => 7
  | .halt => 8 | .bphase => 9 | .cancel => 10 | .lease => 11 | .dict => 12 | .prep => 13 | .commands => 14 | .xwait => 15 | .xdrain => 16
  | .scoreboard => 17

/-- STALL (R311): a wait has lasted STALLT resident ticks; it is reported once, and goes on. -/
def execStall (core : Nat) (eng : Engine) (s : State) : Out :=
  let c := s.core core
  let st := c.stream eng
  if c.seat.unit.isNone || st.run != .running || st.wait.kind == .none || st.wait.stalled ||
      s.tick < st.wait.since + (s.part (s.jobOf core).1).stallt.toNat then .next s
  else
    let s := s.modCore core (fun c => c.modStream eng (fun st => { st with wait := { st.wait with stalled := true } }))
    .next (s.eventAt core { Report.of .stall with eng := eng, pc := st.pc, codePos := if st.packed then st.codePos else 0, detail := st.wait.kind.code })

/-! ## Pre-emption (R313) -/

/-- PREEMPT (R313, R371): issue stops in all four streams at once, after a rollback that runs. -/
def execPreempt (core : Nat) (s : State) : Out :=
  let c := s.core core
  if c.seat.unit.isNone || !c.seat.leaving || c.seat.stopping || c.health.recovering.isSome then .next s
  else .next (s.modCore core (fun c => { c with seat := { c.seat with stopping := true } }))

/-! ## The save (R315 to R319) -/

/-- Leases that are stowed with the unit on a core (R315): the job's of tiers 0 and 1 there, and their subleases. -/
def State.stowable (s : State) (core : Nat) : List Nat :=
  let pj := s.jobOf core
  let live (l : Lease) : Bool := l.state == .open_ || l.state == .lapsed
  let own := (s.leases.filter (fun e => e.2.tier ≤ 1 && e.2.core == core && e.2.part == pj.1 && e.2.job == pj.2 && e.2.parent == 0 &&
    live e.2 && !e.2.stowed)).map (·.1)
  own ++ (s.leases.filter (fun e => own.contains e.2.parent && e.2.parent != 0 && live e.2)).map (·.1)

/-- The lowest free save slot of a job (R317). -/
def State.saveSlot (s : State) (p j : Nat) : Option Nat :=
  let used := (s.saves.filter (fun v => v.part == p && v.job == j)).map (·.slot)
  (upto 0 (used.length + 1)).find? (fun n => !used.contains n && n < 2048)

/-- The lowest pages of the reserve on a die's stacks (R7, R317). -/
def findPages (s : State) : Nat → Nat → Nat → List Nat
  | 0, _, _ => []
  | _, _, 0 => []
  | fuel + 1, pg, n + 1 =>
    if s.taken [(pg * 2 ^ 18, 2 ^ 18)] then findPages s fuel (pg + 1) (n + 1)
    else pg * 2 ^ 18 :: findPages s fuel (pg + 1) n

/-- Pages for an image of a job's unit on a core, if there are enough. -/
def State.savePages (s : State) (p core n : Nat) : Option (List Nat) :=
  let pt := s.part p
  let lo := max pt.hbase.toNat (dieOf core * 2 ^ 19)
  let hi := min (pt.hbase.toNat + pt.hpages.toNat) ((dieOf core + 1) * 2 ^ 19)
  let l := findPages s (hi - lo) lo n
  if l.length = n then some l else none

/-- Only the live registers of C and V are kept (R75). -/
def Core.keepLive (c : Core) (sMask vMask : Nat) : Core :=
  { c with
    regs := { c.regs with s := c.regs.s.filter (fun r => sMask.testBit r.1) }
    vec := { c.vec with v := c.vec.v.filter (fun r => vMask.testBit r.1) } }

/-- The context as it is kept: words held at issue are abandoned, and what they have waited so far is noted (R311); M's holds have ended (R180, R313). -/
def Core.atRest (c : Core) (tick : Nat) : Core :=
  let rest (st : Stream) : Stream := { st with
    wait := .idle, heldFrom := none
    broken := if st.wait.kind = .none then st.broken else some (st.wait.kind, tick - st.wait.since, st.wait.stalled) }
  let c := c.stopSweep
  { c with
    c := rest c.c, v := rest c.v, m := rest c.m, x := rest c.x
    portR := 0, portW := 0
    mat := { c.mat with
      served := 3
      ops := c.mat.ops.map (fun o => { o with check := if o.check = 0 then 1 else if o.check = 3 then 2 else o.check }) } }

/-- Bytes of an image written to its pages. -/
def State.writePages (s : State) (pages : List Nat) (bs : List Byte) : State :=
  s.writePieces (pages.map (fun k => (k, 2 ^ 18))) bs

/-- CONTEXT_SAVE (R315 to R319): when the drain is complete, the image is written to pages rented for it, the leases are stowed, and the core is free; with no slot or page the unit begins a new slice. -/
def execContextSave (core : Nat) (s : State) : Out :=
  let c := s.core core
  match s.unitOf core with
  | none => .next s
  | some u =>
    if !c.seat.leaving || !c.paused || !c.quiet || c.c.wait.kind == .cancel || c.health.recovering.isSome then .next s
    else
      let pj := s.jobOf core
      let kept := s
      let s := s.withdrawSends core
      let c := s.core core
      let sMask := s.liveMask (keySpm core (s.imgBase core)) 0 c.c.pc.toNat
      let vMask := s.liveMask (keySpm core (s.imgBase core)) 1 c.v.pc.toNat % 2 ^ 16
      let ids := s.stowable core
      let ranges := ids.flatMap (fun id => ((s.lease id).map (·.ranges)).getD [])
      let gs := savedGranules s core ranges
      let id := (s.freeSlot 4).getD 0
      let img := saveImage s core c sMask vMask id gs
      match s.saveSlot pj.1 pj.2, s.savePages pj.1 core (ceilDiv img.length (2 ^ 18)), s.freeSlot 4 with
      | some slot, some pages, some id =>
        -- M's operations give up their holds
        let s := (c.mat.ops.filter (fun o => o.check != 1 && o.check != 2)).foldl (fun (s : State) o => s.hold o.leases false) s
        let n := pages.length
        let lease : Lease := ⟨.open_, false, false, 3, false, false, pj.1, pj.2,
          (s.job pj.1 pj.2).savewin.toNat + slot * 2 ^ 21, n * 2 ^ 18, 2 ^ 48 - 1, 0, 0, 0, 0, 0, 0, false, 0, joinRanges (pages.map (fun k => (k, 2 ^ 18)))⟩
        let s := (s.setLease id lease).writePages pages img
        -- poison goes with the granules (R369)
        let sec (n : Nat) : Nat := ofBytes ((img.drop (8 * n + 4)).take 4)
        let at_ (o : Nat) : Nat := pages.getD (o / 2 ^ 18) 0 + o % 2 ^ 18
        let spm := gs.filter (fun g => g.1 < 2 ^ 52)
        let msm := gs.filter (fun g => 2 ^ 52 ≤ g.1)
        let hot (s : State) (o : Nat) (l : List (Nat × List Byte × Bool)) : State :=
          l.zipIdx.foldl (fun (s : State) g => if g.1.2.2 then s.poisonAt (at_ (o + 64 * g.2)) 64 else s) s
        let s := hot (hot s (sec 14 + 2048) spm) (sec 15 + 512) msm
        let s := c.hot.foldl (fun (s : State) g => s.poisonAt (at_ (sec 7 + 64 * g)) 64) s
        let v : Saved := ⟨slot, pj.1, pj.2, u.launch, u.no, core, id, pages, img.length, sMask, (c.keepLive sMask vMask).atRest s.tick, ids, [], false,
          c.c.wait.held.bind (fun h => waitoDest? h.2)⟩
        let s := s.eventAt core { Report.of .preempted with lease := id, count := slot }
        let s := ids.foldl (fun (s : State) i => s.modLease i (fun l => { l with stowed := true })) s
        -- the released ranges are scrubbed before another job may have them (R257, R315)
        let gone (k : Nat) : Bool := overlaps ranges k 1
        let s : State := { s with
          mem := s.mem.filter (fun e => !gone e.1)
          poison := s.poison.filter (fun g => !gone (g * 64))
          saves := s.saves ++ [v] }
        .next ((s.leaveCore core).modUnit u.launch u.no (fun w => { w with state := .saved }))
      | _, _, _ =>
        .next ((kept.newSlice core).soon ([.trapEntry core, .waitoTimeout core, .enqrTimeout core] ++ (upto 0 4).map (.mOperationStart core)))

/-! ## The restore (R22, R316, R323) -/

/-- The place on the new core of a home on the old one. -/
def movedKey (from_ new k : Nat) : Nat := (movedRange from_ new (k, 0)).1

/-- Handles at restore (R22): a valid READY or PENDING one is walked again. DESIGN CHOICE: until its walk ends its other fields stay as they were (log 91). -/
def Core.rewalk (c : Core) : Core :=
  let again (h : BitVec 128) : Bool := (hState h == 1 || hState h == 2) && hValid h
  let hs := c.regs.h.map (fun e => (e.1, if again e.2 then putBits e.2 126 2 1 else e.2))
  let walks := (c.regs.h.filter (fun e => again e.2)).map (fun e => (e.1, bits e.2 6 34 * 2 ^ 18, bits e.2 108 1 == 1, bits e.2 107 1 == 1))
  { c with regs := { c.regs with h := hs }, ctl := { c.ctl with walks := walks } }

/-- Increments held for a lease are performed in order of arrival, at the home that the lease has now (R323, R361). -/
def State.applyHeld (s : State) (from_ new id : Nat) : State :=
  match s.lease id with
  | none => s
  | some l =>
    let mine := s.heldIncs.filter (fun h => h.lease == id)
    let s : State := { s with heldIncs := s.heldIncs.filter (fun h => h.lease != id) }
    mine.foldl (fun (s : State) h => s.incrementUnder l.part l.job id (movedKey from_ new h.key) h.n h.join 0 h.cancel) s

/-- A pre-empted unit is on a core again (R323), with the context and the granules that its image holds now. -/
def State.restoreUnit (s : State) (core : Nat) (v : Saved) : State :=
  let mv (k : Nat) : Nat := movedKey v.core core k
  -- leases that are still stowed are bound to this core, and their granules are written
  let ids := v.stowed.filter (fun id => (s.lease id).isSome)
  let ranges := ids.flatMap (fun id => ((s.lease id).map (·.ranges)).getD [])
  let s := ids.foldl (fun (s : State) id => s.modLease id (fun l => { l with
    stowed := false, core := core, ranges := l.ranges.map (movedRange v.core core) })) s
  let loaded := s.loadImage v
  let s := ((s.imageGranules v).filter (fun g => overlaps ranges g.1 64)).foldl (fun (s : State) g =>
    let s := s.writeMem (mv g.1) g.2.1
    if g.2.2 then s.poisonAt (mv g.1) 64 else s) s
  -- the sections, the handles, the objects that waits are counted on
  let ctx := loaded.rewalk
  let now := s.acOf core
  let go (st : Stream) : Stream := { st with nextAc := now }
  let ctx := { ctx with regs := { ctx.regs with prepAc := [], due := [] } }
  let ctx := { ctx with
    c := go ctx.c, v := go ctx.v, m := go ctx.m, x := go ctx.x
    ctl := { ctx.ctl with countedC := ctx.ctl.countedC.map mv, countedX := ctx.ctl.countedX.map mv } }
  let s := s.seatUnit core v.launch v.unit ctx v.ctx.seat.view v.ctx.seat.joined
  -- the replay entries of leases that were reclaimed meanwhile park with RECLAIMED (R359)
  let gone := v.ctx.seat.lost ++ ctx.copy.cmds.flatMap (fun x => v.lost.map (fun id => (x.id, id)))
  let s := s.modCore core (fun c => { c with seat := { c.seat with lost := gone } })
  let s := s.modUnit v.launch v.unit (fun u => { u with state := .resident, core := core })
  let s : State := { s with
    saves := s.saves.map (fun w => if w.lease = v.lease then { w with cancelled := true, stowed := [] } else w)
    joins := s.joins.foldl (fun m e => spSet m (if overlaps ranges e.1 8 then mv e.1 else e.1) e.2) []
    colls := s.colls.map (fun k => { k with copies := k.copies.map (fun q => if q.launch = v.launch && q.unit = v.unit then { q with core := core } else q) })
    keeper := { s.keeper with fetches := s.keeper.fetches ++ ctx.copy.cmds.flatMap (fetchesOf core v.part v.job) } }
  -- held increments, then what each engine had under way
  let s := ids.foldl (fun (s : State) id => s.applyHeld v.core core id) s
  let s := ctx.copy.cmds.foldl (fun (s : State) x => match x.instr with
    | .xcoll .. =>
      let r := BitVec.ofNat 1024 (x.data.headD 0)
      let s := if x.acted then s.writeStatus core x (cf r 1016 8) (cf r 1006 10) else s
      s.raisePark core x.id
    | _ => s.raisePark core x.id) s
  (s.soon ((upto 0 4).map (.mOperationStart core) ++ [.trapEntry core])).vacateNow v.lease

/-- RESTORE (R304, R316, R323): the unit that the dispatcher gives a free core, where it is a pre-empted one. -/
def execRestore (core : Nat) (s : State) : Out :=
  match s.dispatch core with
  | some (.saved v, s') => .next (s'.restoreUnit core v)
  | _ => .next s

end Sys2Proof.Machine
end

