-- ==== Sys2Proof/Machine/Mailbox.lean ====
section
/-! DEFINITION. The hypervisor's mailbox commands (R333, R350, R376, R381, R382). -/

namespace Sys2Proof.Machine

/-! ## Partitions (R330, R333) -/

/-- A partition entry from the bits that a command gives (R330). -/
def partEntry (p : Nat) (e : BitVec 128) : Partition :=
  { Partition.reset with
    valid := true, vf := BitVec.ofNat 6 p, slice := sub e 105 16, stallt := sub e 81 24, grace := sub e 65 16, hpages := sub e 43 22, hbase := sub e 22 21 }

/-- The bits of a partition entry as it stands (R330): what a command gives for its reserved bits is not kept (R3). -/
def Partition.bits128 (e : Partition) : BitVec 128 :=
  let f (v lo : Nat) : Nat := v * 2 ^ lo
  BitVec.ofNat 128 (f e.valid.toNat 127 + f e.vf.toNat 121 + f e.slice.toNat 105 + f e.stallt.toNat 81 + f e.grace.toNat 65 +
    f e.hpages.toNat 43 + f e.hbase.toNat 22)

/-- Two spans of HBM pages overlap. -/
def pagesMeet (a b : Partition) : Bool :=
  a.hpages != 0 && b.hpages != 0 && a.hbase.toNat < b.hbase.toNat + b.hpages.toNat && b.hbase.toNat < a.hbase.toNat + a.hpages.toNat

/-- PART_CREATE (R333): refused where the partition is there, where its HBM meets another's, and where SLICE or STALLT is out of the range that R300 gives. -/
def execPartCreate (fn part : Nat) (entry : BitVec 128) (s : State) : Out :=
  let e := partEntry part entry
  let meets := s.parts.any (fun q => q.1 != part && q.2.valid && pagesMeet e q.2)
  command fn s (64 ≤ part || (s.part part).valid || meets || e.slice.toNat < 100 || e.stallt.toNat < 1000) (fun s =>
    let s : State := { s with
      parts := spSet s.parts part e
      platform := { s.platform with measured := spSet s.platform.measured (partMeasure part) (e.bits128.toNat :: e.rates) } }
    -- the hypervisor's ring has been there since boot (R380)
    if part = 0 then s else { s with rings := spSet s.rings part ⟨[], 0, 0, 0, false⟩ })

/-- The SPM and MSM of a quad's cores. -/
def quadRanges (q : Nat) : List (Nat × Nat) :=
  (upto (4 * q) 4).flatMap (fun c => [(keySpm c 0, 0x100000), (keyMsm c 0, 0x40000)])

/-- A quad is assigned. -/
def State.quadTaken (s : State) (q : Nat) : Bool := (spGet 0 s.owners q).toNat.testBit 6

/-- PART_GROW (R333). -/
def execPartGrow (fn part : Nat) (quads : List Nat) (s : State) : Out :=
  command fn s (64 ≤ part || quads.any (fun q => 512 ≤ q || s.quadTaken q || s.taken (quadRanges q))) (fun s =>
    { s with owners := quads.foldl (fun (o : Sparse (BitVec 7)) q => spPut 0 o q (BitVec.ofNat 7 (64 + part))) s.owners })

/-- A quad belongs to a partition. -/
def State.quadOf (s : State) (q p : Nat) : Bool := (spGet 0 s.owners q).toNat == 64 + p

/-- A step of taking quads from a partition: residents are pre-empted, leases that are not stowed are vacated, ranges are scrubbed; whether nothing is left there. -/
def State.clearQuads (s : State) (p : Nat) (quads : List Nat) : State × Bool :=
  let cores := (quads.filter (fun q => s.quadOf q p)).flatMap (fun q => upto (4 * q) 4)
  let busy (s : State) (c : Nat) : Bool := (s.core c).seat.unit.isSome
  let s := cores.foldl (fun (s : State) c =>
    let q := (s.core c).seat
    if q.unit.isSome && !q.leaving && !q.stopping then s.evict c else s) s
  let here (s : State) : List (Nat × Lease) := s.leases.filter (fun e => e.2.tier ≤ 1 && !e.2.stowed && e.2.parent == 0 && cores.contains e.2.core)
  let s := ((here s).filter (fun e => !busy s e.2.core)).foldl (fun (s : State) e => s.vacateNow e.1) s
  let rs := quads.flatMap quadRanges
  let clear := !cores.any (busy s) && (here s).isEmpty && !s.scrubs.any (fun c => rs.any (fun r => overlaps c.ranges r.1 r.2))
  (s, clear)

/-- Quads leave a partition: ASSIGNED := 0 (R333). -/
def State.freeQuads (s : State) (p : Nat) (quads : List Nat) : State :=
  { s with owners := (quads.filter (fun q => s.quadOf q p)).foldl (fun (o : Sparse (BitVec 7)) q => spPut 0 o q (putBits (spGet 0 o q) 6 1 0)) s.owners }

/-- A shrink would leave a die without a quad of the partition while a unit of it holds stowed leases there (R316, R333). -/
def State.strands (s : State) (p : Nat) (quads : List Nat) : Bool :=
  (upto 0 4).any (fun d =>
    let mine := (upto (128 * d) 128).filter (fun q => s.quadOf q p)
    mine.any (fun q => quads.contains q) && mine.all (fun q => quads.contains q) &&
      s.saves.any (fun v => v.part == p && !v.cancelled && !v.stowed.isEmpty && dieOf v.core == d))

/-- A command that is not complete yet is kept, and goes on at the next tick. -/
def State.later (s : State) (m : Mail) (i : Instr) : State :=
  State.atTick { s with mail := if s.mail.contains m then s.mail else s.mail ++ [m] } (s.tick + 1) i

/-- A command is complete. -/
def State.settled (s : State) (m : Mail) : State := State.answer { s with mail := s.mail.filter (· != m) } .done

/-- PART_SHRINK (R333): complete when its last step is. -/
def execPartShrink (fn part : Nat) (quads : List Nat) (s : State) : Out :=
  mailbox fn s (fun s =>
    let m := Mail.shrink part quads
    if !s.mail.contains m && s.strands part quads then s.answer .refused
    else
      let (s, clear) := s.clearQuads part quads
      if clear then (s.freeQuads part quads).settled m else s.later m (.partShrink fn part quads))

/-- Jobs of a partition. -/
def State.jobsOf (s : State) (p : Nat) : List Nat :=
  (s.jobs.filter (fun e => e.1 / 1024 == p && e.2.valid)).map (fun e => e.1 % 1024)

/-- PART_DESTROY (R333): each job is cancelled, every quad leaves, and the partition ends. -/
def execPartDestroy (fn part : Nat) (s : State) : Out :=
  mailbox fn s (fun s =>
    let m := Mail.destroy part
    let s := if s.mail.contains m then s else (s.jobsOf part).foldl (fun (s : State) j => s.cancelJob part j none) s
    let quads := (upto 0 512).filter (fun q => s.quadOf q part)
    let (s, clear) := if s.graphs.any (fun g => g.part == part) then (s, false) else s.clearQuads part quads
    if clear then
      let s := s.freeQuads part quads
      State.settled { s with parts := if (s.part part).valid then spSet s.parts part { s.part part with valid := false } else s.parts } m
    else s.later m (.partDestroy fn part))

/-! ## Jobs (R332, R333) -/

/-- A job entry from the bits that a command gives (R332, R299). -/
def jobEntry (p : Nat) (e : BitVec 384) : Job :=
  { valid := true, part := BitVec.ofNat 6 p, asid := sub e 233 16, super := sub e 222 11, root := sub e 170 52, savewin := sub e 118 52,
    cap := sub e 70 48, wdisp := sub e 56 8, whbm := sub e 48 8, wfab := sub e 40 8, wcoll := sub e 32 8, wkeep := sub e 24 8, graphsDone := 0 }

/-- A job may use the shared resources that its partition reaches (R301). -/
def State.enterArbiters (s : State) (p j : Nat) : State :=
  { s with
    placers := (upto 0 4).foldl (fun (m : Sparse Arbiter) d => spSet m (p * 4 + d) ((spGet Arbiter.zero m (p * 4 + d)).enter j)) s.placers
    collArb := s.collArb.enter (jobIx p j)
    keeper := { s.keeper with arb := s.keeper.arb.enter (jobIx p j) } }

/-- A job may no longer use them. -/
def State.leaveArbiters (s : State) (p j : Nat) : State :=
  { s with
    placers := (upto 0 4).foldl (fun (m : Sparse Arbiter) d => spSet m (p * 4 + d) ((spGet Arbiter.zero m (p * 4 + d)).leave j)) s.placers
    collArb := s.collArb.leave (jobIx p j)
    keeper := { s.keeper with arb := s.keeper.arb.leave (jobIx p j) } }

/-- JOB_CREATE (R333, R299): refused where the ASID is in use, SUPER is no core of the partition, or a weight is 0; and over a job that exists, whose ASID only JOB_RETIRE gives back (R332, log 64). -/
def execJobCreate (fn part job : Nat) (entry : BitVec 384) (s : State) : Out :=
  let e := jobEntry part entry
  let used := s.jobs.any (fun q => q.2.valid && q.2.asid == e.asid)
  let zero := [e.wdisp, e.whbm, e.wfab, e.wcoll, e.wkeep].contains 0
  command fn s (64 ≤ part || 1024 ≤ job || (s.job part job).valid || used || zero || s.partOfCore e.super.toNat != some part) (fun s =>
    -- the generation of the ASID is 0 at JOB_CREATE (R345)
    let s : State := { s with jobs := spSet s.jobs (jobIx part job) e, asidGen := spPut 0 s.asidGen e.asid.toNat 0 }
    (s.setPurse part job { s.purse part job with cap := e.cap.toNat }).enterArbiters part job)

/-- A retired job's work is over: no graph, no lease or scrub of its purse, no application, no collective record. -/
def State.jobAtRest (s : State) (p j : Nat) : Bool :=
  !s.graphs.any (fun g => g.part == p && grJob g.record == j) && !s.leases.any (fun e => e.2.part == p && e.2.job == j) &&
    !s.keeper.apps.any (fun a => a.part == p && a.job == j) && !s.colls.any (fun k => k.part == p && k.job == j)

/-- A retired job leaves: the `XINV` of its ASID acknowledges, and nothing of it is left for a later job (R332, R333, R345). -/
def State.dropJob (s : State) (p j : Nat) : State :=
  let e := s.job p j
  let s := s.invalidate p e.asid 0 (2 ^ 52)
  let s := s.leaveArbiters p j
  let k := s.keeper
  { s with
    asidGen := spPut 0 s.asidGen e.asid.toNat (spGet 0 s.asidGen e.asid.toNat + 1)
    hyperInvs := s.hyperInvs.filter (fun v => v.asid != e.asid)
    jobs := spSet s.jobs (jobIx p j) { e with valid := false }
    purses := spDel s.purses (jobIx p j)
    captures := s.captures.filter (fun c => !(c.part == p && c.job == j))
    heldTransfers := s.heldTransfers.filter (fun h => h.job != jobIx p j)
    keeper := { k with
      groups := k.groups.filter (fun g => !(g.part == p && g.job == j))
      progs := k.progs.filter (fun g => !(g.part == p && g.job == j))
      consts := k.consts.filter (fun g => !(g.part == p && g.job == j))
      fetches := k.fetches.filter (fun g => !(g.part == p && g.job == j))
      queue := k.queue.filter (fun g => !(g.1 == p && g.2.1 == j)) } }

/-- JOB_RETIRE (R333): cancelled, every lease of the purse vacated, then gone. -/
def execJobRetire (fn part job : Nat) (s : State) : Out :=
  mailbox fn s (fun s =>
    let m := Mail.retire part job
    if 64 ≤ part || 1024 ≤ job || !(s.job part job).valid then s.settled m
    else
      let s := if s.mail.contains m then s else s.cancelJob part job none
      let s := (s.leases.filter (fun e => e.2.part == part && e.2.job == job)).foldl (fun (s : State) e => s.vacateNow e.1) s
      if s.jobAtRest part job then (s.dropJob part job).settled m else s.later m (.jobRetire fn part job))

/-! ## Rates, purses, cores (R333, R350, R376) -/

/-- RATE_SET (R333): from the next tick. -/
def execRateSet (fn part : Nat) (rates : List Nat) (s : State) : Out :=
  command fn s (64 ≤ part || rates.length != 5 || rates.contains 0) (fun s =>
    { s with parts := spSet s.parts part { s.part part with nextRates := some rates } })

/-- PURSE_CREDIT (R350, R110). -/
def execPurseCredit (fn part job n : Nat) (s : State) : Out :=
  command fn s (64 ≤ part || 1024 ≤ job || !(s.job part job).valid) (fun s => s.credit part job n)

/-- CORE_CLEAR (R376). -/
def execCoreClear (fn core : Nat) (s : State) : Out :=
  command fn s (!(s.core core).health.suspect) (fun s => s.modCore core (fun c => { c with health := { c.health with suspect := false } }))

/-! ## Capture and replay (R381, R382) -/

/-- CAPTURE_SET (R381). -/
def execCaptureSet (fn part job va len : Nat) (s : State) : Out :=
  let under := match vaPieces s part job va len false true with
    | some ps => (match pieceLease s part job (some 3) ps with
      | .ok _ => true
      | .error _ => false)
    | none => false
  command fn s (64 ≤ part || 1024 ≤ job || !(s.job part job).valid || va % 2 ^ 18 != 0 || len % 2 ^ 18 != 0 || !under) (fun s =>
    { s with captures := s.captures.filter (fun c => !(c.part == part && c.job == job && !c.replay)) ++ [⟨part, job, va, len, 0, false, s.tick⟩] })

/-- REPLAY_SET (R382). -/
def execReplaySet (fn part job va len : Nat) (s : State) : Out :=
  command fn s (64 ≤ part || 1024 ≤ job || !(s.job part job).valid) (fun s =>
    { s with captures := s.captures.filter (fun c => !(c.part == part && c.job == job && c.replay)) ++ [⟨part, job, va, len, 0, true, s.tick⟩] })

end Sys2Proof.Machine
end

