-- ==== Sys2Proof/Machine/MatrixRun.lean ====
section
/-! DEFINITION. M's operations at work: starting, steps in cyclic order, checksums, completion (R169 to R187, R227, R228, R234 to R236). -/

namespace Sys2Proof.Machine

/-! ## Values (R174, R217, R223, R224) -/

/-- Home of the byte at an offset from a record's BASE, in the core's SPM or MSM. -/
def recKey (core : Nat) (t : BitVec 256) (off : Int) : Nat := keyTier core (tBkind t) ((tBase t : Int) + off).toNat

/-- The code of an element. -/
def spotCode (s : State) (core : Nat) (t : BitVec 256) (p : Spot) : Nat :=
  let v := s.readNat (recKey core t p.off) (elemBytes t)
  if contBits (tFmt t) = 4 then (if p.high then v / 16 else v % 16) else v

/-- The value of an element of A or B: zero by position or beyond the limit, else with its scale. -/
def spotVal (s : State) (core : Nat) (t : BitVec 256) (p : Option Spot) : Num :=
  match p with
  | none => .fin false 0 0
  | some p =>
    if !inLimit t p.off then .fin false 0 0
    else
      let code := spotCode s core t p
      let fmt := tFmt t
      if isBlock fmt then
        let k := keySpm core p.scale.toNat
        blockVal fmt code (s.readNat k 1) (if fmt = 0x11 then s.readNat (k + 1) 1 else 0)
      else if isIntFmt fmt then decodeFmt fmt code
      else scaled (decodeFmt fmt code) (recScale t)

/-- An element that a step reads is poisoned, or its scale is (R369). -/
def spotPoison (s : State) (core : Nat) (t : BitVec 256) (p : Option Spot) : Bool :=
  match p with
  | none => false
  | some p => inLimit t p.off &&
    (s.poisoned (recKey core t p.off) (elemBytes t) ||
      (isBlock (tFmt t) && s.poisoned (keySpm core p.scale.toNat) (scaleBytes (tFmt t))))

/-- An integer operand as an integer (R228). -/
def numInt (v : Num) : Int :=
  match v with
  | .fin g m e => (if g then -1 else 1) * (scaleTo m e 0 : Int)
  | _ => 0

/-! ## The K-group (R227, R228) -/

/-- `KGroupSum` (R227): the group's value and its flags. -/
def kGroupSum (as bs : List Num) : Num × Fl :=
  let ps := (as.zip bs).map (fun p => nMul p.1 p.2)
  let vs := ps.map (·.1)
  let bad := ps.foldl (fun f p => f ||| p.2) 0
  let pinf := vs.any (fun v => v == .inf false)
  let ninf := vs.any (fun v => v == .inf true)
  if vs.any Num.isNan then (.nan false, bad &&& flInvalid)
  else if pinf && ninf then (.nan false, flInvalid)
  else if pinf then (.inf false, 0)
  else if ninf then (.inf true, 0)
  else
    let top := vs.foldl (fun (acc : Option Int) v => match v with
      | .fin _ m e => if m = 0 then acc else some (match acc with
        | some t => max t (ilog2 m e)
        | none => ilog2 m e)
      | _ => acc) none
    match top with
    | none => (.fin (vs.all Num.isNeg) 0 0, 0)
    | some emax =>
      let u := emax - 60
      let r := vs.foldl (fun (acc : Int × Bool) v => match v with
        | .fin g m e =>
          let (t, cut) := if u ≤ e then (scaleTo m e u, false) else (m / 2 ^ (u - e).toNat, m % 2 ^ (u - e).toNat != 0)
          (acc.1 + (if g then -(t : Int) else t), acc.2 || cut)
        | _ => acc) (0, false)
      let cutFl := flIf r.2 flInexact
      if r.1 = 0 then (.fin false 0 0, cutFl)
      else
        let (c, f) := roundRne (.fin (r.1 < 0) r.1.natAbs u)
        (decodeF fmtFP32 c, f ||| cutFl)

/-- `AccAdd` on FP32 codes (R227). -/
def accAdd (acc : W32) (g : Num) : W32 × Fl :=
  let (v, f) := nAdd false (decodeF fmtFP32 acc.toNat) g
  let (c, h) := roundRne v
  (BitVec.ofNat 32 c, f ||| h)

/-- The group's value on integers: an exact sum of products (R228). -/
def kGroupInt (as bs : List Num) : Int := (as.zip bs).foldl (fun a p => a + numInt p.1 * numInt p.2) 0

/-- An accumulator element after a group (R176): `first` replaces it. -/
def accumulate (i32 first : Bool) (acc : W32) (as bs : List Num) : W32 × Fl :=
  if i32 then
    let g := kGroupInt as bs
    let v := if first then g else acc.toInt + g
    (BitVec.ofInt 32 v, flIf (v < -(2 ^ 31) || 2 ^ 31 ≤ v) flOverflow)
  else
    let (g, f) := kGroupSum as bs
    if first then (BitVec.ofNat 32 (roundRne g).1, f)
    else
      let (w, h) := accAdd acc g
      (w, f ||| h)

/-- Exact sum of values. -/
def exactSum (l : List Num) : Num := l.tail.foldl (fun a v => (nAdd false a v).1) (l.headD (.fin false 0 0))

/-! ## A step of a nest (R176, R181, R234) -/

/-- The operands of step `i`: 64 rows of A and 32 columns of B, each of G places. -/
def nestSpots (u : Unfold) (i : Nat) : List (List (Option Spot)) × List (List (Option Spot)) :=
  let (m0, k0, n0, _) := u.n.origin i
  let g := u.rate.1
  ((List.range 64).map (fun (r : Nat) => (List.range g).map (fun (q : Nat) => u.aSpot (m0 + r) (k0 + q))),
   (List.range 32).map (fun (j : Nat) => (List.range g).map (fun (q : Nat) => u.bSpot (k0 + q) (n0 + j))))

/-- Sums of a tile brought up to date by a step (R234). -/
def Mat.sumStep (m : Mat) (t : Nat) (i32 first : Bool) (g : Nat) (as bs : List (List Num)) : Mat :=
  let at_ (l : List Num) (q : Nat) : Num := l.getD q (.fin false 0 0)
  let bsum := (List.range g).map (fun q => exactSum (bs.map (fun b => at_ b q)))
  let asum := (List.range g).map (fun q => exactSum (as.map (fun a => at_ a q)))
  let rho := as.zipIdx.foldl (fun r p => spPut 0 r (t * 64 + p.2) (accumulate i32 first (spGet 0 r (t * 64 + p.2)) p.1 bsum).1) m.rho
  let gam := bs.zipIdx.foldl (fun r p => spPut 0 r (t * 32 + p.2) (accumulate i32 first (spGet 0 r (t * 32 + p.2)) asum p.1).1) m.gam
  { m with rho := rho, gam := gam }

/-- What a step decides. -/
inductive Stepped where
  | done (s : State) (op : MOp)
  /-- it read poison: nothing is written -/
  | poison
  /-- SILENT, with what the step has written; `dry`: of a dry-fit tile -/
  | silent (s : State) (dry : Bool)

/-- One step of a nest. -/
def nestStep (s : State) (core : Nat) (op : MOp) : Stepped :=
  let u : Unfold := ⟨op.ra, op.rb, op.nest⟩
  let (sa, sb) := nestSpots u op.steps
  let hot := !s.poison.isEmpty &&
    (sa.any (fun l => l.any (spotPoison s core op.ra)) || sb.any (fun l => l.any (spotPoison s core op.rb)))
  if hot then .poison
  else
    let as := sa.map (fun l => l.map (spotVal s core op.ra))
    let bs := sb.map (fun l => l.map (spotVal s core op.rb))
    let (_, k0, _, t) := u.n.origin op.steps
    let first := u.n.first && k0 == 0
    let m := (s.core core).mat
    let old := m.A t
    let cells := as.zipIdx.flatMap (fun a => bs.zipIdx.map (fun b =>
      let e := a.2 * 32 + b.2
      (e, accumulate u.n.acc first (lane old e) a.1 b.1)))
    let tile : Tile := (cells.map (fun c => (c.1, c.2.1))).filter (fun c => c.2 != 0)
    let fl := cells.foldl (fun f c => f ||| c.2.2) op.flags
    let m := m.setA t tile
    let m := { m with int32 := if u.n.acc then m.int32 ||| BitVec.ofNat 16 (2 ^ t) else m.int32 &&& ~~~(BitVec.ofNat 16 (2 ^ t)) }
    let m := if m.chkOn.toNat.testBit t then m.sumStep t u.n.acc first u.rate.1 as bs else m
    .done (s.modCore core (fun c => { c with mat := m })) { op with flags := fl }

/-! ## Checksums (R184, R235, R236) -/

/-- A sum of accumulator elements in a tile's format, in order (R234). -/
def tileSum (i32 : Bool) (l : List W32) : W32 :=
  if i32 then l.foldl (· + ·) 0
  else l.tail.foldl (fun a v => (accAdd a (decodeF fmtFP32 v.toNat)).1) (l.headD 0)

/-- Row `r` and column `j` of a tile. -/
def tileRow (t : Tile) (r : Nat) : List W32 := (List.range 32).map (fun j => lane t (r * 32 + j))
def tileCol (t : Tile) (j : Nat) : List W32 := (List.range 64).map (fun r => lane t (r * 32 + j))

/-- The tile's format is INT32. -/
def Mat.isInt (m : Mat) (t : Nat) : Bool := m.int32.toNat.testBit t

/-- A kept sum and a formed sum mismatch (R235); `tol` is TOL. -/
def sumDiffers (i32 : Bool) (tol kept formed : W32) : Bool :=
  if i32 then kept != formed
  else
    let a := decodeF fmtFP32 kept.toNat
    let b := decodeF fmtFP32 formed.toNat
    if a.isNan || b.isNan then a.isNan != b.isNan
    else if a.isInf || b.isInf then a != b
    else
      let tau := decodeF fmtFP32 tol.toNat
      let tau := if tau.isNan || tau.isNeg then .fin false 0 0 else tau
      let one : Num := .fin false 1 0
      let big := if nLt one b.abs then b.abs else one
      nLt (nMul tau big).1 (nAdd false a b.neg).1.abs

/-- What the verification of a tile finds (R236): nothing, the tile corrected, or SILENT. -/
inductive Verified where
  | clean
  | fixed (t : Tile)
  /-- with the tile as the correction leaves it -/
  | silent (t : Tile)

/-- The verification of R186 on tile `x`. -/
def Mat.verify (m : Mat) (x : Nat) (tol : W32) : Verified :=
  let t := m.A x
  let i32 := m.isInt x
  let rho (r : Nat) : W32 := spGet 0 m.rho (x * 64 + r)
  let gam (j : Nat) : W32 := spGet 0 m.gam (x * 32 + j)
  let colBad (t : Tile) (j : Nat) : Bool := sumDiffers i32 tol (gam j) (tileSum i32 (tileCol t j))
  let rows := (List.range 64).filter (fun r => sumDiffers i32 tol (rho r) (tileSum i32 (tileRow t r)))
  let cols := (List.range 32).filter (colBad t)
  match rows, cols with
  | [], [] => .clean
  | [r], [j] =>
    let v : W32 :=
      if i32 then lane t (r * 32 + j) + rho r - tileSum i32 (tileRow t r)
      else
        let rest := ((List.range 32).filter (· != j)).map (fun c => decodeF fmtFP32 (lane t (r * 32 + c)).toNat)
        BitVec.ofNat 32 (roundRne (nAdd false (decodeF fmtFP32 (rho r).toNat) (exactSum rest).neg).1).1
    let t' : Tile := spPut 0 t (r * 32 + j) v
    if colBad t' j then .silent t' else .fixed t'
  | _, _ => .silent t

/-- An INT32 sum of elements in order wraps (R222, R228). -/
def sumWraps (l : List W32) : Bool :=
  let out (v : Int) : Bool := v < -(2 ^ 31) || 2 ^ 31 ≤ v
  (l.tail.foldl (fun (a : W32 × Bool) v => (a.1 + v, a.2 || out (a.1.toInt + v.toInt))) (l.headD 0, false)).2

/-- An INT32 sum that the verification of tile `x` forms wraps (R222; log 93). -/
def Mat.verifyWraps (m : Mat) (x : Nat) : Bool :=
  let t := m.A x
  m.isInt x && ((List.range 64).any (fun r => sumWraps (tileRow t r)) || (List.range 32).any (fun j => sumWraps (tileCol t j)))

/-! ## A step of a drain (R185) -/

/-- One row of a drain: codes, scale pair of a block format, flags, and the values that count for AMAX. -/
def drainRow (op : MOp) (i32 nonsat : Bool) (mode : Mode) (t : Tile) (row : Nat) : List Nat × List (Nat × Nat) × Fl × List Num :=
  let fmt := tFmt op.rb
  let raw := tileRow t row
  if i32 then
    match elemOf fmt with
    | .int sg w => (raw.map (fun v => wrap w (clamp v.toInt (intLo sg w) (intHi sg w))), [], 0, [])
    | _ => (raw.map (·.toNat), [], 0, [])
  else
    let xs := raw.map (fun v => mulRne (decodeF fmtFP32 v.toNat) (recScale op.rb))
    let (codes, scales, fl) := convert fmt mode nonsat op.srkey (row * 32) (xs.map (·.1))
    let kept := xs.zipIdx.filter (fun p => inLimit op.rb (drainOff op.rb row p.2))
    (codes, scales, xs.foldl (fun f x => f ||| x.2) fl, kept.map (·.1.1))

/-- Containers of a row, as bytes with their byte offsets. -/
def rowBytes (t : BitVec 256) (row : Nat) (codes : List Nat) : List (Int × List Byte) :=
  let w := contBits (tFmt t)
  let n := elemBytes t
  let bs := packCodes w codes
  (List.range (bs.length / n)).map (fun i => ((row : Int) * tStride1 t + (i * n : Nat), (bs.drop (i * n)).take n))

/-- The rows of one step of a drain. -/
def drainStep (s : State) (core : Nat) (op : MOp) (x : Nat) (i32 nonsat : Bool) (mode : Mode) (g : Nat) : State × MOp :=
  (List.range 8).foldl (fun (acc : State × MOp) i =>
    let row := 8 * g + i
    let (codes, scales, fl, vals) := drainRow op i32 nonsat mode ((s.core core).mat.A x) row
    let units := (rowBytes op.rb row codes).filter (fun p => inLimit op.rb p.1)
    let s1 := units.foldl (fun s p => s.writeOwn core (recKey core op.rb p.1) p.2) acc.1
    let sb := scaleBytes (tFmt op.rb)
    let s2 := if units.isEmpty then s1 else scales.foldl (fun s q =>
      s.writeOwn core (keySpm core (tScale op.rb + row * sb)) (toBytes sb (q.1 + 256 * q.2))) s1
    let o := acc.2
    let (mx, nan) := if i32 then (o.amax, o.amaxNan) else vals.foldl amaxStep (o.amax, o.amaxNan)
    (s2, { o with flags := o.flags ||| fl, amax := mx, amaxNan := nan })) (s, op)

/-! ## The other steps -/

/-- Tiles that a mask names. -/
def tilesOf (mask : BitVec 16) : List Nat := (List.range 16).filter (fun t => mask.toNat.testBit t)

/-- A tile's sums from its contents, or zero (R234). -/
def Mat.seed (m : Mat) (x : Nat) : Mat :=
  let t := m.A x
  let i32 := m.isInt x
  { m with
    rho := (List.range 64).foldl (fun r i => spPut 0 r (x * 64 + i) (tileSum i32 (tileRow t i))) m.rho
    gam := (List.range 32).foldl (fun r i => spPut 0 r (x * 32 + i) (tileSum i32 (tileCol t i))) m.gam }

/-- The known-answer sum of a dry-fit tile (R187): the sum of the 2,048 results is that of the products of the column sums of A and the row sums of B. -/
def dryCheck (c seed : Nat) : Nat :=
  let draw (j : Nat) : Nat := (mixDraw (BitVec.ofNat 64 seed) j).toNat
  let val (d : Nat) : Int := if c = 2 then sx d 4 else sx d 8
  let g := match c with
    | 0 => 64
    | 1 => 32
    | _ => 128
  wrap 24 ((List.range g).foldl (fun (acc : Int) k =>
    let ca := (List.range 64).foldl (fun (a : Int) m => a + val (draw (m * 128 + k))) 0
    let rb := (List.range 32).foldl (fun (a : Int) n => a + val (draw (8192 + k * 32 + n))) 0
    acc + ca * rb) 0)

/-- A copy of granules from SPM to MSM (R182), poison with them (R369). -/
def loadbStep (s : State) (core : Nat) (op : MOp) (n : Nat) : State :=
  let lo := 1024 * op.steps
  let len := min 1024 (64 * n - lo)
  let a := keySpm core (tBase op.ra + lo)
  let b := keyMsm core (tBase op.rb + lo)
  let hot := (upto 0 (len / 64)).filter (fun i => s.poisoned (a + 64 * i) 64)
  let s := s.writeOwn core b (memBytes s.mem a len)
  hot.foldl (fun s i => s.poisonAt (b + 64 * i) 64) s

/-- Steps of an operation, and the length in ac of its next one (R170). -/
def MOp.plan (op : MOp) : Nat × Nat :=
  match op.instr with
  | .mgo _ =>
    let u : Unfold := ⟨op.ra, op.rb, op.nest⟩
    (op.nest.total, u.rate.2 + if op.steps = 0 then 12 else 0)
  | .mdrain _ _ _ _ chk _ _ => (8 + chk.toNat, 8)
  | .mloadb _ _ _ n => (ceilDiv (n.toNat + 1) 16, 8)
  | .mzero _ mask | .mchkOn _ mask | .mchkOff _ mask => ((tilesOf mask).length, 2)
  | _ => (1, 32)

/-- The report of a fault of an operation: the word that issued it. -/
def MOp.report (op : MOp) (c : Cause) : Report := { Report.of c with eng := .m, pc := op.pc, codePos := op.codePos }

/-- What one step of an operation does. -/
def opStep (s : State) (core : Nat) (op : MOp) : Stepped :=
  let mat (s : State) (f : Mat → Mat) : State := s.modCore core (fun c => { c with mat := f c.mat })
  match op.instr with
  | .mgo _ => nestStep s core op
  | .mloadb _ _ _ n => .done (loadbStep s core op (n.toNat + 1)) op
  | .mdrain x _ _ i32 chk nonsat mode =>
    let m := (s.core core).mat
    if chk = 1 && op.steps = 0 then
      if !m.chkOn.toNat.testBit x.toNat then .done s op
      else
        let op := { op with flags := op.flags ||| flIf (m.verifyWraps x.toNat) flOverflow }
        match m.verify x.toNat op.tol with
        | .clean => .done s op
        | .silent t => .silent (mat s (fun m => m.setA x.toNat t)) false
        | .fixed t =>
          let s := mat s (fun m => m.setA x.toNat t)
          let s := s.modCore core (fun c => { c with health := { c.health with
            corrected := if c.health.corrected = BitVec.allOnes 32 then c.health.corrected else c.health.corrected + 1 } })
          .done (s.eventAt core (op.report .corrected)) op
    else
      let r := drainStep s core op x.toNat (i32 == 1) (nonsat == 1) (modeOf mode.toNat) (op.steps - chk.toNat)
      .done r.1 r.2
  | .mzero _ mask =>
    let x := (tilesOf mask).getD op.steps 0
    .done (mat s (fun m => { (m.setA x []) with
      rho := m.rho.filter (fun p => p.1 / 64 != x), gam := m.gam.filter (fun p => p.1 / 32 != x) })) op
  | .mchkOn _ mask =>
    let x := (tilesOf mask).getD op.steps 0
    .done (mat s (fun m => { (m.seed x) with chkOn := m.chkOn ||| BitVec.ofNat 16 (2 ^ x) })) op
  | .mchkOff _ mask =>
    let x := (tilesOf mask).getD op.steps 0
    .done (mat s (fun m => { m with chkOn := m.chkOn &&& ~~~(BitVec.ofNat 16 (2 ^ x)) })) op
  | .mdry c seed _ check => if dryCheck c.toNat seed.toNat = check.toNat then .done s op else .silent s true
  | _ => .done s op

/-! ## The streams (R169, R170, R180, R188) -/

/-- An operation of a core changed. -/
def State.modOp (s : State) (core id : Nat) (f : MOp → MOp) : State :=
  s.modCore core (fun c => { c with mat := { c.mat with ops := c.mat.ops.map (fun o => if o.id = id then f o else o) } })

/-- The head of a stream starts if the markers allow (R188); its leases are checked first where a restore asks it (R180). -/
def State.startHead (s : State) (core stream : Nat) : State :=
  let c := s.core core
  match c.mat.queue stream with
  | [] => s
  | op :: _ =>
    if c.mat.ops.any (fun o => o.epoch < op.epoch) || c.seat.stopping || c.health.recovering.isSome then s
    else if op.check = 0 then s.modOp core op.id (fun o => { o with started := true })
    else if op.check ≥ 2 && c.m.run == .frozen then s
    else if op.check = 3 then s.modOp core op.id (fun o => { o with started := true, check := 0 })
    else
      let pj := s.jobOf core
      let bad := op.leases.findSome? (fun id => match leaseCheck s pj.1 pj.2 id with
        | .ok _ => none
        | .error .reclaimed => some (Cause.nolease, id)
        | .error e => some (e, id))
      match bad with
      | none => (s.hold op.leases true).modOp core op.id (fun o => { o with started := true, check := 0 })
      | some (e, id) => (s.modOp core op.id (fun o => { o with check := 2 })).engineFault core { op.report e with lease := id }

/-- M takes the next step, from the first stream after the one just served whose head has started (R170). -/
def State.nextStep (s : State) (core : Nat) : State :=
  let c := s.core core
  let m := c.mat
  if m.stepping.isSome || c.seat.stopping || c.health.recovering.isSome then s
  else
    let pick := (upto 1 4).findSome? (fun i => match m.queue ((m.served + i) % 4) with
      | op :: _ => if op.started && !op.ending && op.check = 0 then some op else none
      | [] => none)
    match pick with
    | none => s
    | some op =>
      let n := op.plan.2
      let s := s.modCore core (fun c => { c with mat := { c.mat with served := op.stream, stepping := some op.id, stepDue := s.acOf core + n } })
      s.after core n (.mStep core)

/-- Every head that may start does, and M goes on. -/
def State.goOn (s : State) (core : Nat) : State :=
  ((upto 0 4).foldl (fun s q => s.startHead core q) s).nextStep core

/-- An operation is complete (R169, R171): its holds end; a nest or a drain retires with its flags and its maximum. -/
def State.opDone (s : State) (core : Nat) (op : MOp) : State :=
  let s := s.hold op.leases false
  let s := s.modCore core (fun c =>
    let c := { c with mat := { c.mat with ops := c.mat.ops.filter (fun o => o.id != op.id) } }
    let q := c.csr.noteAmax .m op.amax op.amaxNan
    { c with csr := { q with fflags := orFlags q.fflags .m op.flags } }.push .m op.signal)
  s

/-- M_OPERATION_START (R169, R188). -/
def execMOperationStart (core stream : Nat) (s : State) : Out :=
  .next ((s.startHead core stream).nextStep core)

/-- M_STEP (R170): a step ends; then M takes the next. -/
def execMStep (core : Nat) (s : State) : Out :=
  let m := (s.core core).mat
  match m.stepping.bind (fun id => m.ops.find? (fun o => o.id == id)) with
  | none => .next s
  | some op =>
    if s.acOf core < m.stepDue then .next s
    else
      let s := s.modCore core (fun c => { c with mat := { c.mat with stepping := none } })
      match opStep s core op with
      | .poison => .next ((((s.modOp core op.id (fun o => { o with check := if o.check = 0 then 3 else o.check })).consume core (op.report .poison)).goOn core).stir core)
      | .silent s dry => .next ((((s.modOp core op.id (fun o => { o with check := if o.check = 0 then 3 else o.check })).silentError core dry (op.report .silent)).goOn core).stir core)
      | .done s' op' =>
        let op' := { op' with steps := op.steps + 1 }
        if op'.steps < op.plan.1 then
          .next (((s'.modOp core op.id (fun o => { op' with check := o.check })).goOn core).stir core)
        else
          match op.instr with
          | .mgo _ =>
            .next (((((s'.modOp core op.id (fun o => { op' with check := o.check, ending := true })).after core 8 (.nestComplete core op.id))).goOn core).stir core)
          | _ => .next (((s'.opDone core op').goOn core).stir core)

/-- NEST_COMPLETE (R170, R176): 8 ac after its last step. -/
def execNestComplete (core op : Nat) (s : State) : Out :=
  match (s.core core).mat.ops.find? (fun o => o.id == op && o.ending) with
  | none => .next s
  | some o => .next (((s.opDone core o).goOn core).stir core)

end Sys2Proof.Machine
end

