-- ==== Sys2Proof/Machine/RentTicks.lean ====
section
/-! DEFINITION. What the lease controllers do at each tick (R33, R317, R354, R355, R360). -/

namespace Sys2Proof.Machine

/-- The escrow of a lease that is due buys its STEP (R354). -/
def escrowBuys (s : State) (l : Lease) : Bool :=
  l.parent == 0 && l.step > 0 && charge s l.part l.len l.tier l.step ≤ l.escrow

/-- A lease that is OPEN and whose paid-until is now (R354). -/
def State.dueLease (s : State) (id : Nat) : Option Lease :=
  match s.lease id with
  | some l => if l.state == .open_ && l.paid == s.tick then some l else none
  | none => none

/-- ESCROW_RENEWAL (R354). -/
def execEscrowRenewal (lease : Nat) (s : State) : Out :=
  match s.dueLease lease with
  | none => .next s
  | some l =>
    if !escrowBuys s l then .next s
    else .next (s.setLease lease { l with
      escrow := l.escrow - charge s l.part l.len l.tier l.step, paid := s.tick + l.step, arrears := false })

/-- ARREARS (R354): the event once, then one tick at the tick's start. -/
def execArrears (lease : Nat) (s : State) : Out :=
  match s.dueLease lease with
  | none => .next s
  | some l =>
    if escrowBuys s l || !l.sync || l.waiters = 0 then .next s
    else
      let s := if l.arrears then s else s.eventJob l.part l.job { Report.of .arrears with lease := lease }
      let s := s.setLease lease { l with arrears := true, paid := s.tick + 1 }
      .next (s.bill l.part l.job lease (charge s l.part l.len l.tier 1))

/-- LAPSE (R354). -/
def execLapse (lease : Nat) (s : State) : Out :=
  match s.dueLease lease with
  | none => .next s
  | some l => if escrowBuys s l || (l.sync && l.waiters > 0) then .next s else .next (s.lapse lease)

/-- RECLAIM (R354, R357). -/
def execReclaim (lease : Nat) (s : State) : Out :=
  if s.reclaimDue lease then .next (s.reclaim lease) else .next s

/-- OVERDRAFT (R354, R355): at the tick's end, for a LAPSED lease. -/
def execOverdraft (lease : Nat) (s : State) : Out :=
  match s.lease lease with
  | none => .next s
  | some l => if l.state == .lapsed then .next (s.bill l.part l.job lease (charge s l.part l.len l.tier 1)) else .next s

/-- The bill of a save-area lease for a tick (R317): ARREARS when the cap holds back a part of it. -/
def State.billSave (s : State) (v : Saved) : State :=
  match s.lease v.lease with
  | none => s
  | some l =>
    if l.state != .open_ then s
    else
      let c := charge s l.part l.len l.tier 1
      let q := s.purse l.part l.job
      let short := (max 0 (q.bal + q.cap)).toNat < c
      let s := s.bill l.part l.job v.lease c
      let s := if short && !l.arrears then s.eventJob l.part l.job { Report.of .arrears with lease := v.lease } else s
      s.modLease v.lease (fun l => { l with arrears := short })

/-- SEAT_BILLING (R33, R317, R355): each resident unit's seat, each save area; then BURN is what the tick billed. -/
def execSeatBilling (tick : Nat) (s : State) : Out :=
  if tick != s.tick then .next s
  else
    let s := (s.cores.filter (fun e => e.2.seat.unit.isSome && !(e.2.paused && e.2.quiet))).foldl (fun (s : State) e =>
      let pj := s.jobOf e.1
      s.bill pj.1 pj.2 0 4096) s
    let s := s.saves.foldl State.billSave s
    .next { s with purses := s.purses.map (fun e => (e.1, { e.2 with burn := e.2.burning, burning := 0 })) }

/-- SCRUB_COMPLETE (R360). -/
def execScrubComplete (lease : Nat) (s : State) : Out :=
  if s.scrubs.any (fun c => c.id == lease && c.due ≤ s.tick) then .next (s.scrubbed lease) else .next s

end Sys2Proof.Machine
end

