-- ==== Sys2Proof/Machine/Scalar.lean ====
section
/-! DEFINITION. Register arithmetic and immediates of C, the `IMMX` pair and packed words (R62, R65, R84, R85). -/

namespace Sys2Proof.Machine

/-- `NOP` (R84). -/
def execNop (s : State) : Out := cOp s (fun _ => .done s 1 1 none [])

/-- A register-register instruction of one result (R84). -/
def cBin (s : State) (d a b : BitVec 5) (lat : Nat) (f : W64 → W64 → W64) : Out :=
  cWrite s d.toNat lat (fun c => f (c.S a.toNat) (c.S b.toNat))

/-- `ADD` (R84). -/
def execAdd (d a b : BitVec 5) (s : State) : Out := cBin s d a b 1 (fun x y => x + y)

/-- `SUB` (R84). -/
def execSub (d a b : BitVec 5) (s : State) : Out := cBin s d a b 1 (fun x y => x - y)

/-- `MUL` (R84). -/
def execMul (d a b : BitVec 5) (s : State) : Out := cBin s d a b 4 (fun x y => x * y)

/-- `MULH` (R84). -/
def execMulh (d a b : BitVec 5) (s : State) : Out := cBin s d a b 4 (fun x y => BitVec.ofInt 64 (x.toInt * y.toInt / 2 ^ 64))

/-- `MULHU` (R84). -/
def execMulhu (d a b : BitVec 5) (s : State) : Out := cBin s d a b 4 (fun x y => BitVec.ofNat 64 (x.toNat * y.toNat / 2 ^ 64))

/-- `DIVU` (R84). -/
def execDivu (d a b : BitVec 5) (s : State) : Out := cBin s d a b 34 (fun x y => if y = 0 then BitVec.allOnes 64 else x / y)

/-- `REMU` (R84). -/
def execRemu (d a b : BitVec 5) (s : State) : Out := cBin s d a b 34 (fun x y => if y = 0 then x else x % y)

/-- `AND` (R84). -/
def execAnd (d a b : BitVec 5) (s : State) : Out := cBin s d a b 1 (fun x y => x &&& y)

/-- `OR` (R84). -/
def execOr (d a b : BitVec 5) (s : State) : Out := cBin s d a b 1 (fun x y => x ||| y)

/-- `XOR` (R84). -/
def execXor (d a b : BitVec 5) (s : State) : Out := cBin s d a b 1 (fun x y => x ^^^ y)

/-- `ANDN` (R84). -/
def execAndn (d a b : BitVec 5) (s : State) : Out := cBin s d a b 1 (fun x y => x &&& ~~~y)

/-- `SHL` (R84). -/
def execShl (d a b : BitVec 5) (s : State) : Out := cBin s d a b 1 (fun x y => x <<< bits y 0 6)

/-- `SHR` (R84). -/
def execShr (d a b : BitVec 5) (s : State) : Out := cBin s d a b 1 (fun x y => x >>> bits y 0 6)

/-- `SAR` (R84). -/
def execSar (d a b : BitVec 5) (s : State) : Out := cBin s d a b 1 (fun x y => x.sshiftRight (bits y 0 6))

/-- `ROTL` (R84). -/
def execRotl (d a b : BitVec 5) (s : State) : Out := cBin s d a b 1 (fun x y => rotl64 x (bits y 0 6))

/-- `MIN` (R84). -/
def execMin (d a b : BitVec 5) (s : State) : Out := cBin s d a b 1 (fun x y => if x.slt y then x else y)

/-- `MAX` (R84). -/
def execMax (d a b : BitVec 5) (s : State) : Out := cBin s d a b 1 (fun x y => if x.slt y then y else x)

/-- `MINU` (R84). -/
def execMinu (d a b : BitVec 5) (s : State) : Out := cBin s d a b 1 (fun x y => if x.ult y then x else y)

/-- `MAXU` (R84). -/
def execMaxu (d a b : BitVec 5) (s : State) : Out := cBin s d a b 1 (fun x y => if x.ult y then y else x)

/-- `CLZ` (R84). -/
def execClz (d a : BitVec 5) (s : State) : Out :=
  cWrite s d.toNat 1 (fun c => BitVec.ofNat 64 (clz64 (c.S a.toNat)))

/-- `POPC` (R84). -/
def execPopc (d a : BitVec 5) (s : State) : Out :=
  cWrite s d.toNat 1 (fun c => BitVec.ofNat 64 (popcount (c.S a.toNat).toNat 64))

/-- The pair `S(n+1):Sn` (R84). -/
def Core.pair (c : Core) (n : Nat) : Nat := (c.S (n + 1)).toNat * 2 ^ 64 + (c.S n).toNat

/-- `ADDP` (R84). -/
def execAddp (d a b : BitVec 5) (s : State) : Out :=
  cOp s (fun c =>
    let z := c.pair a.toNat + c.pair b.toNat
    let c := s.result c d.toNat (BitVec.ofNat 64 z) 2
    let c := s.result c (d.toNat + 1) (BitVec.ofNat 64 (z / 2 ^ 64)) 2
    .done (s.setCore s.cur.core c) 1 2 none [])

/-- An immediate instruction (R85). -/
def cImm (s : State) (d a : BitVec 5) (signed : Bool) (imm : BitVec 30) (f : W64 → W64 → W64) : Out :=
  cWrite s d.toNat 1 (fun c => f (c.S a.toNat) (immOf s signed imm))

/-- A shift by an immediate: an amount above 63 is ILLOP, also under `IMMX` (R85), before the word waits for anything (R61). -/
def cShift (s : State) (d a : BitVec 5) (imm : BitVec 30) (f : W64 → Nat → W64) : Out :=
  let v := (immOf s false imm).toNat
  if v > 63 then .next (s.faultHere (.of .illop))
  else cOp s (fun c => .done (s.setCore s.cur.core (c.setS d.toNat (f (c.S a.toNat) v))) 1 1 none [])

/-- `ADDI` (R85). -/
def execAddi (d a : BitVec 5) (imm : BitVec 30) (s : State) : Out := cImm s d a true imm (fun x v => x + v)
/-- `ANDI` (R85). -/
def execAndi (d a : BitVec 5) (imm : BitVec 30) (s : State) : Out := cImm s d a false imm (fun x v => x &&& v)
/-- `ORI` (R85). -/
def execOri (d a : BitVec 5) (imm : BitVec 30) (s : State) : Out := cImm s d a false imm (fun x v => x ||| v)
/-- `XORI` (R85). -/
def execXori (d a : BitVec 5) (imm : BitVec 30) (s : State) : Out := cImm s d a false imm (fun x v => x ^^^ v)
/-- `SHLI` (R85). -/
def execShli (d a : BitVec 5) (imm : BitVec 30) (s : State) : Out := cShift s d a imm (fun x n => x <<< n)
/-- `SHRI` (R85). -/
def execShri (d a : BitVec 5) (imm : BitVec 30) (s : State) : Out := cShift s d a imm (fun x n => x >>> n)
/-- `SARI` (R85). -/
def execSari (d a : BitVec 5) (imm : BitVec 30) (s : State) : Out := cShift s d a imm (fun x n => x.sshiftRight n)
/-- `MOVI` (R85). -/
def execMovi (d : BitVec 5) (imm : BitVec 30) (s : State) : Out := cImm s d 0 true imm (fun _ v => v)

/-- The CI word of an `IMMX` pair runs (R65). -/
def runCI (i : Instr) (s : State) : Out :=
  match i with
  | .addi d a imm => execAddi d a imm s
  | .andi d a imm => execAndi d a imm s
  | .ori d a imm => execOri d a imm s
  | .xori d a imm => execXori d a imm s
  | .shli d a imm => execShli d a imm s
  | .shri d a imm => execShri d a imm s
  | .sari d a imm => execSari d a imm s
  | .movi d imm => execMovi d imm s
  | _ => .next (s.faultHere (.of .illseq))

/-- A shift whose amount under `IMMX` is above 63 (R85). -/
def overShift (s : State) (i : Instr) : Bool :=
  match i with
  | .shli _ _ v | .shri _ _ v | .sari _ _ v => 63 < (immOf s false v).toNat
  | _ => false

/-- `IMMX` (R65): the pair acts as one instruction; ILLSEQ where no CI word may follow, before any ILLOP of that word (R61). DESIGN CHOICE: where the next word cannot be fetched, the cause of that fetch is raised at the `IMMX` (log 85). The pair is checked in full before it waits. -/
def execImmx (imm : BitVec 40) (s : State) : Out :=
  let cur := s.cur
  if immxMisused s cur.core cur.pc then .next (s.faultHere (.of .illseq))
  else
    match fetchWord s cur.core (cur.pc + 1) with
    | .error c => .next (s.faultHere (.of c))
    | .ok w =>
      match decodeWord false .c w with
      | .illop => .next (s.faultHere (.of .illop))
      | .ok f i =>
        let pair : State := { s with cur := { cur with frame := f, word := w, ext := some imm } }
        if !overShift pair i && !(s.core cur.core).readable (sReads i) (s.acOf cur.core) then .next (s.holdAt cur.core .c .scoreboard)
        else runCI i pair

/-- `PACKED` (R62, R64): the stream stands before the word's first code; its codes issue one by one. -/
def execPacked (_cnt : BitVec 2) (_c0 _c1 _c2 : BitVec 16) (s : State) : Out :=
  .next (s.modCore s.cur.core (fun c => c.modStream s.cur.eng (fun st => { st with packed := true, codePos := 0 })))

end Sys2Proof.Machine
end

