-- ==== Sys2Proof/Machine/Steer.lean ====
section
/-! DEFINITION. Steering and hardware loops of C (R86 to R89). -/

namespace Sys2Proof.Machine

/-- `Compare` of R87. -/
def compareC (cc : Nat) (x y : W64) : Bool :=
  match cc with
  | 0 => x == y
  | 1 => x != y
  | 2 => x.slt y
  | 3 => x.ult y
  | 4 => !x.slt y
  | _ => !x.ult y

/-- `CMP` (R87). -/
def execCmp (g cc : BitVec 4) (a b : BitVec 5) (s : State) : Out :=
  cOp s (fun c =>
    .done (s.setCore s.cur.core (c.setCond g.toNat (compareC cc.toNat (c.S a.toNat) (c.S b.toNat)) cc.toNat)) 1 1 none [])

/-- `CMPI` (R87). -/
def execCmpi (g cc : BitVec 4) (a : BitVec 5) (imm : BitVec 22) (s : State) : Out :=
  cOp s (fun c =>
    .done (s.setCore s.cur.core
      (c.setCond g.toNat (compareC cc.toNat (c.S a.toNat) (BitVec.ofInt 64 (sx imm.toNat 22))) cc.toNat)) 1 1 none [])

/-- `GSET` (R87). -/
def execGset (g : BitVec 4) (a : BitVec 5) (s : State) : Out :=
  cOp s (fun c => .done (s.setCore s.cur.core (c.setCond g.toNat (c.S a.toNat != 0) 7)) 1 1 none [])

/-- `GCOMB` (R87). -/
def execGcomb (g cc h j : BitVec 4) (s : State) : Out :=
  cOp s (fun c =>
    let x := c.cond h.toNat
    let y := c.cond j.toNat
    let v := match cc.toNat with
      | 0 => x && y
      | 1 => x || y
      | 2 => x != y
      | _ => x && !y
    .done (s.setCore s.cur.core (c.setCond g.toNat v 7)) 1 1 none [])

/-- A `PREP` of a target (R87, R88). -/
def prep (s : State) (g : BitVec 4) (target : Core → Nat) : Out :=
  cOp s (fun c =>
    let c' := c.setTarget g.toNat (target c)
    .done (s.setCore s.cur.core { c' with regs := { c'.regs with prepAc := spPut 0 c'.regs.prepAc g.toNat (s.acOf s.cur.core) } })
      1 1 none [])

/-- `PREP` of an immediate target (R87). -/
def execPrepImm (g : BitVec 4) (target : BitVec 17) (s : State) : Out := prep s g (fun _ => target.toNat)

/-- `PREP` of a register target (R87). -/
def execPrepReg (g : BitVec 4) (a : BitVec 5) (s : State) : Out := prep s g (fun c => bits (c.S a.toNat) 0 17)

/-- `GO` and `GOL` (R87, R88). -/
def branch (s : State) (g cc : BitVec 4) (link : Option (BitVec 5)) : Out :=
  cOp s (fun c =>
    let r := c.G g.toNat
    let target := bits r 5 17
    let take := cc = 2 || c.cond g.toNat == (cc == 0)
    if !r.toNat.testBit 4 then .cause .steerUnset
    else if take && (target < 8 || target ≥ 8 * s.imgLen s.cur.core) then .cause .fetchBounds
    else if take && s.acOf s.cur.core < spGet 0 c.regs.prepAc g.toNat + 4 then .hold .prep
    else
      let c := match link with
        | some d => c.setS d.toNat (BitVec.ofNat 64 (s.cur.pc + 1))
        | none => if take then c.modStream .c (fun st => { st with loops := clearLoopsLeft st.loops target }) else c
      .done (s.setCore s.cur.core c) 1 1 (if take then some target else none) [])

/-- `GO` (R87). -/
def execGo (g cc : BitVec 4) (s : State) : Out := branch s g cc none

/-- `GOL` (R87). -/
def execGol (g cc : BitVec 4) (d : BitVec 5) (s : State) : Out := branch s g cc (some d)

/-- Opening a hardware loop (R89, R151): a fault, or the stream's loops after it and a redirect past an empty body. -/
def openLoop (loops : List Loop) (l pc len imgLen : Nat) (n : W64) : Except Cause (List Loop × Option Nat) :=
  if bits n 24 40 != 0 then .error .loopcnt
  else if (loops.getD l .zero).act then .error .loopbusy
  else if pc + len ≥ 8 * imgLen then .error .fetchBounds
  else if n = 0 then .ok (loops, some (pc + len + 1))
  else .ok (putAt 4 .zero loops l ⟨true, n.setWidth 24, BitVec.ofNat 17 (pc + 1), BitVec.ofNat 17 (pc + len)⟩, none)

/-- `LOOP` (R89). -/
def execLoop (l : BitVec 2) (a : BitVec 5) (len : BitVec 16) (s : State) : Out :=
  cOp s (fun c =>
    match openLoop c.c.loops l.toNat s.cur.pc len.toNat (s.imgLen s.cur.core) (c.S a.toNat) with
    | .error e => .cause e
    | .ok (loops, target) =>
      .done (s.setCore s.cur.core (c.modStream .c (fun st => { st with loops := loops }))) 1 1 target [])

end Sys2Proof.Machine
end

