-- ==== Sys2Proof/Machine/UnitFlow.lean ====
section
/-! DEFINITION. The unit and flow instructions of C: queues, forks, joins, barriers, objects, buffer phases, halting and cancelling (R42 to R56, R96 to R98). -/

namespace Sys2Proof.Machine

/-! ## QFLUSH (R53) -/

/-- `QFLUSH` (R53, R98): the entries go; a running stream restarts at the target, 6 ac after issue at the earliest. -/
def execQflush (q : BitVec 2) (target : BitVec 17) (s : State) : Out :=
  cOp s (fun c =>
    let e : Engine := if q = 0 then .v else .m
    let c := if q = 0 then { c with cqv := [] } else { c with cqm := [] }
    if q = 0 && c.sweep.isSome then
      -- a sweep that has issued completes first
      .done (s.setCore s.cur.core { c with vtarget := some target.toNat }) 1 4 none []
    else
    let c := c.modStream e (fun st =>
      if st.run == .running then
        { st with pc := target, packed := false, codePos := 0, loops := st.loops.map (fun l => { l with act := false }),
                  nextAc := max st.nextAc (s.acOf s.cur.core + 6), wait := .idle, heldFrom := none, broken := none }
      else st)
    .done (s.setCore s.cur.core c) 1 4 none [])

/-! ## ENQR (R48) -/

/-- A unit queue takes a block (R47, R48). -/
def State.enqueue (s : State) (core target : Nat) (blk : BitVec 512) : State :=
  match s.unitOf core with
  | none => s
  | some u =>
    let n := ((s.launch u.launch).map (·.enqueued)).getD 0
    let no := 2 ^ 31 + n
    let v : Unit_ := ⟨u.launch, no, .queued, target, none, some blk, u.no, lrOff blk, lrLen blk⟩
    let s : State := { s with units := s.units ++ [v] }
    let s := s.modLaunch u.launch (fun l => { l with enqueued := n + 1 })
    s.modCore target (fun c => { c with seat := { c.seat with queue := c.seat.queue ++ [(blk, u.launch, no)] } })

/-- The tick limit of an `ENQR.T` and the steer register that it writes. -/
def enqLimit (i : Instr) : Option (Nat × Nat) :=
  match i with
  | .enqrT _ _ g n => some (n.toNat, g.toNat)
  | _ => none

/-- An `ENQR` retires: 40 ac after its block has entered the queue, or when its time is up; COND of `.T` is written (R98). -/
def State.enqDone (s : State) (i : Instr) (queued : Bool) : State :=
  let s := match enqLimit i with
    | some (_, g) => s.modCore s.cur.core (fun c => c.setCond g queued 7)
    | none => s
  s.finish 0 0 none []

/-- `ENQR` and `ENQR.T` (R48): the checks are made at issue, and the block is read then; DESIGN CHOICE: the target's check comes before the block's (log 86). C issues nothing until it retires (R98). -/
def enq (s : State) (a b : BitVec 5) (i : Instr) : Out :=
  cOp s (fun c =>
    let core := s.cur.core
    let target := (c.S a.toNat).toNat
    if target ≥ 2048 || (s.partOfCore target).isNone || s.partOfCore target != some (s.jobOf core).1 then .cause .enqTarget
    else
      match rawAccess s core (c.S b.toNat).toInt 64 64 with
      | .error e => .cause e
      | .ok k =>
        if s.poisoned k 64 then .cause .poison
        else if c.behindAtom k 64 then .hold .scoreboard
        else
          let blk := BitVec.ofNat 512 (s.cNat c k 64)
          if !blockLegal blk then .cause .record
          else
            let s := s.park .enqr i target blk.toNat
            if (s.core target).seat.queue.length < 8 then .wait ((s.enqueue core target blk).retireIn core 40)
            else
            .wait (match enqLimit i with
              | some (n, _) => if n = 0 then s.soon [.enqrTimeout core] else s.atTick (s.tick + n) (.enqrTimeout core)
              | none => s))

/-- `ENQR` (R48). -/
def execEnqr (a b : BitVec 5) (s : State) : Out := enq s a b (.enqr a b)

/-- `ENQR.T` (R48). -/
def execEnqrT (a b : BitVec 5) (g : BitVec 4) (n : BitVec 22) (s : State) : Out := enq s a b (.enqrT a b g n)

/-- ENQR_QUEUED (R98): a waiting `ENQR` finds room; it retires 40 ac later. -/
def execEnqrQueued (core : Nat) (s : State) : Out :=
  match s.resume core .c .enqr with
  | none => .next s
  | some _ =>
    let w := (s.core core).c.wait
    if w.due.isSome || (s.core core).seat.stopping || (s.core w.obj).seat.queue.length ≥ 8 then .next s
    else .next ((s.enqueue core w.obj (BitVec.ofNat 512 w.goal)).retireIn core 40)

/-- ENQR_TIMEOUT (R48): the limit of an `ENQR.T` has passed; COND is written 0. -/
def execEnqrTimeout (core : Nat) (s : State) : Out :=
  match s.resume core .c .enqr with
  | none => .next s
  | some (s', i) =>
    match enqLimit i with
    | some (n, _) =>
      let w := (s.core core).c.wait
      if w.due.isNone && w.from_ + n ≤ s.tick && !(s.core core).paused then .next (s'.enqDone i false) else .next s
    | none => .next s

/-! ## FORK, stream ends, REND (R42 to R45) -/

/-- The snapshot that `FORK` and `BPHASE` write (R17, R97, R370): the streams as they stand, the iterators, the tag. -/
def Core.snapshot (c : Core) (tag : W64) (replayable : Bool) : Core :=
  { c with
    snap := ⟨[c.c, c.v, c.m, c.x].map (fun st => { st with wait := .idle, heldFrom := none, broken := none }),
      (upto 0 16).map (fun n => (n, sub (c.I n) 48 48)), tag, replayable, 0, 0, c.copy.cmds.map (fun x => (x.id, x.pp, x.lb))⟩
    copy := { c.copy with log := [], replay := [] } }

/-- One doubleword of a fork block (R42) is refused. -/
def forkBad (w : W64) : Bool :=
  bits w 34 29 != 0 || (bits w 63 1 == 1 && (bits w 17 17 ≤ bits w 0 17 || bits w 0 17 < 8))

/-- The stream that a doubleword of a fork block gives (R42, R98). -/
def forkStream (st : Stream) (w : W64) (now : Nat) : Stream :=
  if bits w 63 1 = 1 then
    { st with pc := sub w 0 17, stop := sub w 17 17, run := .running, packed := false, codePos := 0, nextAc := now + 12, wait := .idle, heldFrom := none, broken := none }
  else { st with run := .ended, wait := .idle, heldFrom := none, broken := none }

/-- `FORK` (R42, R98, R105): it waits for earlier `DICTLD`s; DESIGN CHOICE: FORKBUSY, which a frozen stream raises too, comes before the checks of its block (log 86). -/
def execFork (a : BitVec 5) (s : State) : Out :=
  cOp s (fun c =>
    let core := s.cur.core
    if !c.ctl.loads.isEmpty then .hold .dict
    else if [c.v, c.m, c.x].any (fun st => st.run != .ended) then .cause .forkbusy
    else
      match rawAccess s core (c.S a.toNat).toInt 24 8 with
      | .error e => .cause e
      | .ok k =>
        if s.poisoned k 24 then .cause .poison
        else if c.behindAtom k 24 then .hold .scoreboard
        else
          let w (i : Nat) : W64 := BitVec.ofNat 64 (s.cNat c (k + 8 * i) 8)
          if [w 0, w 1, w 2].any forkBad then .cause .record
          else
            let now := s.acOf core
            let c := { c with
              v := forkStream c.v (w 0) now, m := forkStream c.m (w 1) now, x := forkStream c.x (w 2) now
              ctl := { c.ctl with forked := true, lastEnd := now } }
            let s := (s.setCore core c).finish 1 1 none []
            .wait (s.modCore core (fun c => c.snapshot 0 true)))

/-- Everything that a stream issued has retired (R43, R44). -/
def Core.retiredAll (c : Core) (e : Engine) : Bool :=
  match e with
  | .c | .v => c.flights.all (fun f => f.eng != e)
  | .m => c.mat.ops.all (fun o => match o.instr with
    | .mgo .. | .mdrain .. => false
    | _ => true)
  | .x => c.copy.cmds.isEmpty && c.copy.issuing.isNone

/-- V, M and X have ended. -/
def Core.allEnded (c : Core) : Bool := [c.v, c.m, c.x].all (fun st => st.run == .ended)

/-- A joining `REND` or `HALT` acts 4 ac after the last stream ended (R98). -/
def State.joinSoon (s : State) (core : Nat) : State :=
  let c := s.core core
  if (c.c.wait.kind == .rend || (c.c.wait.kind == .halt && c.ctl.forked)) && c.allEnded then
    let due := c.ctl.lastEnd + 4
    if due ≤ s.acOf core then s.soon [.rendJoin core] else s.after core (due - s.acOf core) (.rendJoin core)
  else s

/-- STREAM_END (R43). -/
def execStreamEnd (core : Nat) (eng : Engine) (s : State) : Out :=
  let c := s.core core
  let st := c.stream eng
  if eng = .c || st.run != .running || st.pc != st.stop || st.packed || !c.retiredAll eng || c.seat.stopping then .next s
  else
    .next ((s.modCore core (fun c =>
      let c := c.modStream eng (fun st => { st with run := .ended, wait := .idle, heldFrom := none, broken := none })
      { c with ctl := { c.ctl with lastEnd := s.acOf core } })).joinSoon core)

/-- `REND` (R45). -/
def execRend (s : State) : Out :=
  cOp s (fun _ => .wait ((s.park .rend .rend 0 0).joinSoon s.cur.core))

/-- REND_JOIN (R45, R46): tokens and queue entries are discarded, whatever follows; then the checks. -/
def execRendJoin (core : Nat) (s : State) : Out :=
  let c := s.core core
  let kind := c.c.wait.kind
  let waits := kind == .rend || (kind == .halt && c.ctl.forked)
  if !waits || !c.allEnded || s.acOf core < c.ctl.lastEnd + 4 || c.seat.stopping then .next s
  else
    match s.resume core .c kind with
    | none => .next s
    | some (s', _) =>
      let left := !c.cqv.isEmpty || !c.cqm.isEmpty
      let s' := s'.modCore core (fun c => { c with dowel := [], cqv := [], cqm := [] })
      let off := c.csr.offcutn.toNat
      let idle (s : State) : State := s.modCore core (fun c => c.modStream .c (fun st => { st with wait := .idle }))
      if left then .next ((idle s').faultHere { Report.of .queueLeft with count := off })
      else if off != 0 then .next ((idle s').faultHere (.of .offcutLeft))
      else
        let s' := s'.modCore core (fun c => { c with ctl := { c.ctl with forked := false } })
        if kind == .rend then .next (s'.finish 1 0 none []) else .next s'

/-! ## BAR (R55, R56) -/

/-- Index of a participant's arrivals at a barrier. -/
def arriveIx (id unit : Nat) : Nat := id * 4096 + unit

/-- The arrival that a word of C made when it issued before (R100): the word under the cursor, which issues again. -/
def Control.arrival (q : Control) (cur : Cursor) (id : Nat) : Option BarWait :=
  q.bars.find? (fun a => a.pc == cur.pc && a.codePos == cur.codePos && a.id == id)

/-- The `BAR` under the cursor has retired: its arrival is no longer kept. -/
def Core.barOver (c : Core) (cur : Cursor) (id : Nat) : Core :=
  { c with ctl := { c.ctl with bars := c.ctl.bars.filter (fun a => !(a.pc == cur.pc && a.codePos == cur.codePos && a.id == id)) } }

/-- `BAR` (R55): the unit arrives, unless the word was abandoned and waits for the generation that it already joined (R100). It retires 2 ac after the generation has completed, and at once where that has happened while it was abandoned. -/
def execBar (id : BitVec 4) (s : State) : Out :=
  cOp s (fun c =>
    let core := s.cur.core
    match s.unitOf core with
    | none => .cause .barScope
    | some u =>
      if u.block.isSome then .cause .barScope
      else
        let gens := ((s.launch u.launch).map (·.gens)).getD []
        let ix := arriveIx id.toNat u.no
        match c.ctl.arrival s.cur id.toNat with
        | some a =>
          if a.gen ≤ spGet 0 gens id.toNat then .done (s.modCore core (fun c => c.barOver s.cur id.toNat)) 1 0 none []
          else .wait (s.park .bar (.bar id) id.toNat a.gen)
        | none =>
          let g := ((s.launch u.launch).map (fun l : Launch => spGet 0 l.arrivals ix)).getD 0 + 1
          let s := (s.modLaunch u.launch (fun l => { l with arrivals := spSet l.arrivals ix g })).modCore core (fun c =>
            { c with ctl := { c.ctl with bars := c.ctl.bars ++ [⟨s.cur.pc, s.cur.codePos, s.cur.word, id.toNat, g⟩] } })
          .wait (s.park .bar (.bar id) id.toNat g))

/-- Every participant has arrived at generation `g` of a barrier, by its `BAR` or by having halted or been cancelled (R55). -/
def State.allArrived (s : State) (l : Launch) (id g : Nat) : Bool :=
  let us := (s.unitsOf l.id).filter (fun u => u.block.isNone)
  lrUnits l.record ≤ us.length && us.any (fun u => !u.gone) &&
    us.all (fun u => u.gone || g ≤ spGet 0 l.arrivals (arriveIx id u.no))

/-- BAR_GENERATION_COMPLETE (R56): once what the launch's X engines accepted has landed, it is published, a phase ends, and each waiting `BAR` retires 2 ac later. -/
def execBarGenerationComplete (launch : Nat) (id : Nat) (s : State) : Out :=
  match s.launch launch with
  | none => .next s
  | some l =>
    let g := spGet 0 l.gens id + 1
    if l.done || !s.allArrived l id g || !s.plainLanded launch then .next s
    else
      let s := (s.publish launch).modLaunch launch (fun l => { l with gens := spSet l.gens id g, phase := l.phase + 1 })
      let mine (e : Nat × Core) : Bool := (e.2.seat.unit.map (·.1)) == some launch
      let s : State := { s with
        cores := s.cores.map (fun e => if mine e then (e.1, { e.2 with seat := { e.2.seat with view := s.pubCount } }) else e)
        saves := s.saves.map (fun v => if v.launch = launch then { v with ctx := { v.ctx with seat := { v.ctx.seat with view := s.pubCount } } } else v) }
      .next ((s.cores.filter (fun e => mine e && !e.2.paused && e.2.c.wait.kind == .bar && e.2.c.wait.obj == id && e.2.c.wait.goal ≤ g &&
        e.2.c.wait.due.isNone)).foldl (fun s e => s.retireIn e.1 2) s)

/-! ## WAITO and SIGO (R96) -/

/-- The object that a C instruction names: its home, or the fault. -/
def cObject (s : State) (c : Core) (n : BitVec 5) : Except Cause Nat :=
  let img := c.O n.toNat
  let pj := s.jobOf s.cur.core
  if bits img 62 2 = 0 || bits img 62 2 = 3 then .error .objEmpty
  else match objHome s s.cur.core img with
    | some k => if objectOpen s pj.1 pj.2 k then .ok k else .error .objLease
    | none => .error .objLease

/-- The value that a waiting `WAITO` needs is reached, or its wait was ended (R51). -/
def State.objectReached (s : State) (w : Wait) : Bool := w.cancelled || w.goal ≤ s.homeNat w.obj 8

/-- `WAITO` and `WAITO.T` at issue (R96, R358): the wait is counted; it may end at once. -/
def waitObject (s : State) (n a : BitVec 5) (lim : Option Nat) (i : Instr) : Out :=
  cOp s (fun c =>
    let core := s.cur.core
    let pj := s.jobOf core
    match cObject s c n with
    | .error e => .cause e
    | .ok k =>
      -- an access of C to the object comes first (R91)
      if c.cPending k 8 then .hold .scoreboard
      else
      let s := match c.ctl.countedC with
        | some old => s.waiter pj.1 pj.2 old false
        | none => s
      let s := (s.waiter pj.1 pj.2 k true).modCore core (fun c => { c with ctl := { c.ctl with countedC := some k } })
      let s := s.park .object i k (c.S a.toNat).toNat
      let s := if s.objectReached (s.core core).c.wait then s.soon [.waitoEnd core] else s
      .wait (match lim with
        | some t => if t = 0 then s.soon [.waitoTimeout core] else s.atTick (s.tick + t) (.waitoTimeout core)
        | none => s))

/-- `WAITO` (R96). -/
def execWaito (n a b : BitVec 5) (s : State) : Out := waitObject s n a none (.waito n a b)

/-- `WAITO.T` (R96). -/
def execWaitoT (n a b : BitVec 5) (lim : BitVec 23) (s : State) : Out :=
  waitObject s n a (some lim.toNat) (.waitoT n a b lim)

/-- A wait on an object ends with a status in `Sb`; a value reached joins the publications that its increments follow (R245, R358). -/
def State.waitoDone (s : State) (core b status : Nat) : State :=
  let w := (s.core core).c.wait
  let pj := s.jobOf core
  let s := (s.waiter pj.1 pj.2 w.obj false).modCore core (fun c =>
    let seat := if status = 0 then { c.seat with joined := (c.seat.joined ++ spGet [] s.joins w.obj).eraseDups } else c.seat
    { (c.setS b (BitVec.ofNat 64 status)) with ctl := { c.ctl with countedC := none }, seat := seat })
  s.finish 1 1 none []

/-- WAITO_END (R96). -/
def execWaitoEnd (core : Nat) (s : State) : Out :=
  match s.resume core .c .object with
  | none => .next s
  | some (s', i) =>
    let w := (s.core core).c.wait
    if (s.core core).paused then .next s
    else if s.objectReached w then .next (s'.waitoDone core (waitoDest i) (if w.cancelled then 1 else 0)) else .next s

/-- WAITO_TIMEOUT (R96). -/
def execWaitoTimeout (core : Nat) (s : State) : Out :=
  match s.resume core .c .object with
  | none => .next s
  | some (s', i) =>
    let w := (s.core core).c.wait
    match i with
    | .waitoT _ _ b lim =>
      if w.from_ + lim.toNat ≤ s.tick && !(s.core core).paused then
        .next (s'.waitoDone core b.toNat (if w.cancelled then 1 else if s.objectReached w then 0 else 2))
      else .next s
    | _ => .next s

/-- `SIGO` (R96): checked at issue; the increment is one access at the object's home, after every earlier store and atomic of C: 4 ac after issue for an object in SPM, and after a time that nothing fixes for a virtual one (log 37). -/
def execSigo (n a : BitVec 5) (s : State) : Out :=
  cOp s (fun c =>
    match cObject s c n with
    | .error e => .cause e
    | .ok k =>
      let far := bits (c.O n.toNat) 62 2 = 2
      let lat := if far then (if c.flights.any (fun f => f.eng == .c) then 4 else 1) + Config.freeNat s.fresh else 4
      .done (if far then { s with fresh := s.fresh + 1 } else s) 1 lat none [.object k (c.S a.toNat).toNat])

/-! ## BPHASE (R97) -/

/-- `BPHASE` (R97). -/
def execBphase (a : BitVec 5) (s : State) : Out :=
  cOp s (fun _ => .wait (s.park .bphase (.bphase a) 0 0))

/-- A stream of V, M or X stands where `BPHASE` wants it: ended, or held on an empty queue or on tokens of C, which are still missing. -/
def Core.settled (c : Core) (now : Nat) (e : Engine) : Bool :=
  let st := c.stream e
  let q := (if e = .v then c.cqv else c.cqm).filter (fun x => x.1 ≤ now)
  st.run == .ended || (st.run == .running &&
    ((st.wait.kind == .queue && q.length < st.wait.goal) ||
     (st.wait.kind == .tokens && st.wait.obj == Engine.c.num && c.dowelN .c e < st.wait.goal)))

/-- BPHASE_SNAPSHOT (R97, R370): the snapshot is taken, with C after the word and its tokens popped; `BPHASE` retires 24 ac later. -/
def execBphaseSnapshot (core : Nat) (s : State) : Out :=
  match s.resume core .c .bphase with
  | some (s', .bphase a) =>
    let c := s.core core
    let nests := c.mat.ops.any (fun o => match o.instr with
      | .mgo _ => true
      | _ => false)
    if [Engine.v, .m, .x].all (c.settled (s.acOf core)) && !nests && c.retiredAll .v && !c.seat.stopping && c.health.recovering.isNone && c.c.wait.due.isNone then
      let after := (c.pop .c s'.cur.frame.wait).modStream .c (fun st => st.next s'.cur (!c.inh) none)
      let empty := c.cqv.isEmpty && c.cqm.isEmpty && after.dowel.isEmpty && c.csr.offcutn == 0 && c.pendn == 0
      let taken := after.snapshot (c.S a.toNat) empty
      .next ((s.setCore core { c with snap := taken.snap, copy := taken.copy }).retireIn core 24)
    else .next s
  | _ => .next s

/-! ## Words that have issued and wait to retire (R98) -/

/-- The word that C holds retires when its time has come. -/
def State.retireWait (s : State) (core : Nat) : State :=
  let w := (s.core core).c.wait
  match w.due, w.held with
  | some t, some (cur, i) =>
    if s.acOf core < t then s
    else
      let s' : State := { s with cur := cur }
      match i with
      | .enqr .. | .enqrT .. => s'.enqDone i true
      | .bar id => (s'.modCore core (fun c => c.barOver cur id.toNat)).finish 0 0 none []
      | _ => s'.finish 0 0 none []
  | _, _ => s

/-! ## HALT (R46) -/

/-- `HALT` (R46): the join, if streams have been forked since the last one. -/
def execHalt (s : State) : Out :=
  cOp s (fun _ => .wait ((s.park .halt .halt 0 0).joinSoon s.cur.core))

/-- HALT_RETIRE (R46): every operation of the core's streams has retired; the seat ends, the image region is vacated, the unit has halted. -/
def execHaltRetire (core : Nat) (s : State) : Out :=
  match s.resume core .c .halt, s.unitOf core with
  | some _, some u =>
    let c := s.core core
    if c.ctl.forked || !c.flights.isEmpty || !c.mat.ops.isEmpty || !c.copy.cmds.isEmpty || c.copy.issuing.isSome ||
        !c.ctl.loads.isEmpty || c.seat.stopping then .next s
    else
      let s := (s.uncount core).leaveCore core
      let s := match u.imgLease with
        | some id => s.vacateNow id
        | none => s
      .next ((s.modUnit u.launch u.no (fun v => { v with state := .halted })).unitDone u false)
  | _, _ => .next s

/-! ## CANCEL (R51) -/

/-- The unit on a core or in a save slot that an identifier names within a job (R51, R325). -/
def cancelTarget (s : State) (p j n : Nat) : Option Unit_ :=
  if n < 2048 then
    if (s.core n).seat.unit.isSome && s.jobOf n = (p, j) && !(s.core n).seat.cancelling then s.unitOf n else none
  else if 0x10000 ≤ n && n < 0x10000 + 2048 then
    match s.saves.find? (fun v => v.part == p && v.job == j && v.slot == n - 0x10000 && !v.cancelled) with
    | some v => s.unit v.launch v.unit
    | none => none
  else none

/-- The issuer on `core` owns a unit (R35): it is the launch's supervisor unit, or the unit that enqueued it. -/
def ownsUnit (s : State) (core : Nat) (u : Unit_) : Bool :=
  (s.launch u.launch).map (·.super) == some core ||
    (u.block.isSome && (s.core core).seat.unit == some (u.launch, u.issuer))

/-- A cancel that is allowed: it retires once every unit that it names is gone. -/
def cancelWith (s : State) (i : Instr) (act : State → State) : Body :=
  let core := s.cur.core
  let s := act (s.park .cancel i 0 0)
  .wait (if (s.core core).seat.unit.isSome then s.cancelDone core else s)

/-- `CANCEL.UNIT` (R51). -/
def execCancelUnit (a : BitVec 5) (s : State) : Out :=
  cOp s (fun c =>
    let core := s.cur.core
    let pj := s.jobOf core
    match cancelTarget s pj.1 pj.2 (c.S a.toNat).toNat with
    | none => .done s 1 1 none []
    | some u =>
      if ownsUnit s core u then cancelWith s (.cancelUnit a) (fun s => (s.cancelUnit u (some core)).cancelOver u.launch) else .cause .cancelDenied)

/-- The issuer is its job's supervisor unit (R35, R332). -/
def isJobSuper (s : State) (core : Nat) : Bool :=
  let pj := s.jobOf core
  s.jobSuper pj.1 pj.2 == some core

/-- `CANCEL.LAUNCH` (R51). -/
def execCancelLaunch (a : BitVec 5) (s : State) : Out :=
  cOp s (fun c =>
    let core := s.cur.core
    let id := (c.S a.toNat).toNat
    match s.launch id with
    | none => .done s 1 1 none []
    | some l =>
      if s.jobOfLaunch id != s.jobOf core || l.done || l.cancelled then .done s 1 1 none []
      else if isJobSuper s core then cancelWith s (.cancelLaunch a) (fun s => s.cancelLaunch id (some core))
      else .cause .cancelDenied)

/-- `CANCEL.GRAPH` (R51). -/
def execCancelGraph (a : BitVec 5) (s : State) : Out :=
  cOp s (fun c =>
    let core := s.cur.core
    let pj := s.jobOf core
    let id := (c.S a.toNat).toNat
    let gs := s.graphs.filter (fun g => g.part == pj.1 && bits g.record 464 16 == pj.2 && bits g.record 480 32 == id && !g.cancelled)
    if gs.isEmpty then .done s 1 1 none []
    else if isJobSuper s core then
      cancelWith s (.cancelGraph a) (fun s => (gs.map (·.seq)).foldl (fun s q => s.cancelGraph q (some core)) s)
    else .cause .cancelDenied)

/-- `CANCEL.JOB` (R51, R35): only the hypervisor core owns a job, so a unit's own job is denied and another's is unknown. -/
def execCancelJob (a : BitVec 5) (s : State) : Out :=
  cOp s (fun c =>
    if (c.S a.toNat).toNat = (s.jobOf s.cur.core).2 then .cause .cancelDenied else .done s 1 1 none [])

/-- The hypervisor core cancels work of a job at any level (R35); no `CANCEL` of a unit waits for it. Work that has completed or been cancelled is left alone. -/
def State.hyperCancel (s : State) (p j : Nat) (w : Work) : State :=
  let mine (l : Nat) : Bool := s.jobOfLaunch l == (p, j)
  match w with
  | .unit l n => match s.unit l n with
    | some u => if mine l then (s.cancelUnit u none).cancelOver l else s
    | none => s
  | .launch l => if mine l && (s.launch l).any (fun x => !x.done && !x.cancelled) then s.cancelLaunch l none else s
  | .graph id =>
    ((s.graphs.filter (fun g => g.part == p && bits g.record 464 16 == j && bits g.record 480 32 == id && !g.cancelled)).map (·.seq)).foldl
      (fun s q => s.cancelGraph q none) s
  | .job => s.cancelJob p j none

end Sys2Proof.Machine
end

