-- ==== Sys2Proof/Machine/System.lean ====
section
/-! DEFINITION. Traps and their return, control and status registers, dictionaries, and retirement (R25 to R28, R44, R99 to R105). -/

namespace Sys2Proof.Machine

/-! ## Traps (R100 to R102) -/

/-- `TRAP` (R101): C enters its handler, with RPC after the word; without a handler C freezes and the supervisor unit has the record. -/
def execTrap (v : BitVec 15) (s : State) : Out :=
  cOp s (fun c =>
    let core := s.cur.core
    if c.inh then .cause .trapNest
    else if c.csr.trapv = 0 then .cause (.software v)
    else
      let s := s.finish 1 1 none []
      .wait (s.modCore core (fun c =>
        let c := c.enter (s.cur.pc + 1) (Cause.software v).code s.cur.pc 0
        { c with ctl := { c.ctl with rcode := 0 } })))

/-- X commands whose park has been delivered go on (R197). -/
def Core.unpark (c : Core) : Core :=
  let free (x : XCmd) : XCmd := match x.parked with
    | some r =>
      if x.raised && r.cause != .walk && !c.ctl.faults.any (fun f => f.cmd == some x.id) then
        -- a send, or constants, that a lost keeper parked go on without it (R295; log 102)
        let lost := r.cause == .peerLost
        let consts : Bool := match x.instr with
          | .xkparam .. => true
          | _ => false
        { x with parked := none, raised := false, acted := x.acted || (x.sends && lost), bumped := x.bumped || (consts && lost) }
      else x
    | none => x
  { c with copy := { c.copy with cmds := c.copy.cmds.map free } }

/-- `ERET` (R102): C resumes at RPC, the named streams are released; a held fault enters next. -/
def execEret (a : BitVec 5) (s : State) : Out :=
  cOp s (fun c =>
    let core := s.cur.core
    if !c.inh then .cause .eretState
    else
      let mask := (c.S a.toNat).toNat
      let s := (s.finish 4 4 none []).modCore core (fun c =>
        let c := c.leave mask
        let c := if mask.testBit 3 then c.unpark else c
        { c with ctl := { c.ctl with serving := none } })
      let s := if mask.testBit 2 then s.soon ((upto 0 4).map (.mOperationStart core)) else s
      .wait (s.soon [.trapEntry core]))

/-- TRAP_ENTRY (R100): a held fault enters C's handler, where C may take it. -/
def execTrapEntry (core : Nat) (s : State) : Out := .next (s.takeFault core)

/-! ## CSRs (R25, R103, R104) -/

/-- The value of a CSR; none where the number is not assigned. -/
def readCsr (s : State) (core : Nat) (n : Nat) : Option W64 :=
  let c := s.core core
  let pj := s.jobOf core
  let u := c.seat.unit.getD (0, 0)
  match n with
  | 0x000 => some (BitVec.ofNat 64 (s.tick % 2 ^ 48))
  | 0x001 => some (BitVec.ofInt 64 (s.purse pj.1 pj.2).bal)
  | 0x010 => some (c.csr.fflags.setWidth 64)
  | 0x011 => some (c.csr.amax.setWidth 64)
  | 0x012 => some c.csr.srkey
  | 0x020 => some (c.csr.offcutb.setWidth 64)
  | 0x021 => some (c.csr.offcutn.setWidth 64)
  | 0x030 => some (c.csr.trapv.setWidth 64)
  | 0x031 => some (c.csr.trapc.setWidth 64)
  | 0x032 => some (c.csr.trappc.setWidth 64)
  | 0x033 => some c.csr.trapx
  | 0x034 => some (c.csr.trapret.setWidth 64)
  | 0x040 => some (BitVec.ofNat 64 u.2)
  | 0x041 => some (BitVec.ofNat 64 core)
  | 0x042 => some (BitVec.ofNat 64 u.1)
  | 0x043 => some (BitVec.ofNat 64 (bits (spGet 0 s.owners (core / 4)) 0 6))
  | 0x044 => some (BitVec.ofNat 64 (((s.launch u.1).map (fun l => lrUnits l.record)).getD 0))
  | 0x050 => some (c.csr.tol.setWidth 64)
  | 0x051 => some ((s.part pj.1).grace.setWidth 64)
  | _ => if 0x100 ≤ n && n ≤ 0x11F then some (c.O (n - 0x100)) else none

/-- A write of a CSR (R3, R25, R28): reserved bits stay zero. DESIGN CHOICE: a value that is no multiple of 64 is stored in OFFCUTB as it is (log 96). -/
def writeCsr (c : Core) (n : Nat) (v : W64) : Except Cause Core :=
  let lo : W32 := v.setWidth 32
  match n with
  | 0x010 => .ok { c with csr := { c.csr with fflags := lo &&& 0x1F1F1F1F } }
  | 0x011 => .ok { c with csr := { c.csr with amax := lo } }
  | 0x012 => .ok { c with csr := { c.csr with srkey := v } }
  | 0x020 => if c.csr.offcutn != 0 then .error .csrbusy else .ok { c with csr := { c.csr with offcutb := lo } }
  | 0x030 => .ok { c with csr := { c.csr with trapv := v.setWidth 17 } }
  | 0x034 => .ok { c with csr := { c.csr with trapret := lo &&& 0x3FFFF }, ctl := { c.ctl with rcode := 0 } }
  | 0x050 => .ok { c with csr := { c.csr with tol := lo } }
  | _ =>
    if 0x100 ≤ n && n ≤ 0x11F then .ok (c.setO (n - 0x100) (v &&& 0xC00FFFFFFFFFFFF8)) else .error .csrRo

/-- `CSRR` (R104). -/
def execCsrr (d : BitVec 5) (csr : BitVec 12) (s : State) : Out :=
  cOp s (fun c =>
    match readCsr s s.cur.core csr.toNat with
    | some v => .done (s.setCore s.cur.core (s.result c d.toNat v 2)) 1 2 none []
    | none => .cause .illop)

/-- `CSRW` (R104). -/
def execCsrw (csr : BitVec 12) (a : BitVec 5) (s : State) : Out :=
  cOp s (fun c =>
    match writeCsr c csr.toNat (c.S a.toNat) with
    | .ok c =>
      let s := s.setCore s.cur.core c
      let pj := s.jobOf s.cur.core
      -- a key is an input of the job (R381)
      .done (if csr.toNat = 0x012 then s.captureKey pj.1 pj.2 0 s.cur.core c.csr.srkey else s) 1 1 none []
    | .error e => .cause e)

/-! ## Dictionaries (R105) -/

/-- `DICTLD` (R105): the entries are read at issue; the load completes 128 ac later. DESIGN CHOICE: a frozen stream counts as running for DICTBUSY (log 86). -/
def execDictld (e : BitVec 2) (a : BitVec 5) (s : State) : Out :=
  cOp s (fun c =>
    let core := s.cur.core
    let eng := engineOf e.toNat
    if eng != .c && (c.stream eng).run != .ended then .cause .dictbusy
    else
      match rawAccess s core (c.S a.toNat).toInt 8192 64 with
      | .error f => .cause f
      | .ok k =>
        if s.poisoned k 8192 then .cause .poison
        else if c.ctl.loads.any (fun l => l.1 == eng) then .hold .dict
        else if c.behindAtom k 8192 then .hold .scoreboard
        else
          let ws := (upto 0 1024).map (fun i => BitVec.ofNat 64 (s.cNat c (k + 8 * i) 8))
          let s := s.setCore core { c with ctl := { c.ctl with loads := c.ctl.loads ++ [(eng, ws, s.cur.frame.signal)] } }
          .done (s.after core 128 (.dictldComplete core eng)) 1 128 none [])

/-- DICTLD_COMPLETE (R105). -/
def execDictldComplete (core : Nat) (eng : Engine) (s : State) : Out :=
  match (s.core core).ctl.loads.find? (fun l => l.1 == eng) with
  | none => .next s
  | some (_, ws, _) =>
    let lo := eng.num * 1024
    let new := (ws.zipIdx.map (fun p => (lo + p.2, p.1))).filter (fun p => p.2 != 0)
    .next ((s.modCore core (fun c =>
      { c with
        dict := c.dict.filter (fun p => p.1 < lo) ++ new ++ c.dict.filter (fun p => lo + 1024 ≤ p.1)
        hot := c.hot.filter (fun g => g / 128 != eng.num)
        ctl := { c.ctl with loads := c.ctl.loads.filter (fun l => l.1 != eng) } })).stir core)

/-! ## Retirement (R44) -/

/-- INSTRUCTION_RETIRE (R44): the instruction's effects are written and its tokens pushed; number 0 stands for a word that C or X holds. -/
def execInstructionRetire (core : Nat) (eng : Engine) (n : Nat) (s : State) : Out :=
  let s := if n ≠ 0 then s.retireFlight core eng n else if eng = .c then s.retireWait core else if eng = .x then s.drained core else s
  .next (s.settle core)

end Sys2Proof.Machine
end

