-- ==== Sys2Proof/Machine/VArith.lean ====
section
/-! DEFINITION. V's arithmetic, compares, masks, moves, conversions and generator (R129 to R137, R153, R159 to R163). -/

namespace Sys2Proof.Machine

/-! ## Lanes (R129 to R131) -/

/-- Lanes that a mask names, in increasing order. -/
def lanesOf (m : BitVec 1024) : List Nat := (List.range 1024).filter (fun n => m.getLsbD n)

/-- The mask that holds just these lanes. -/
def maskOf (l : List Nat) : BitVec 1024 := l.foldl (fun m n => m ||| BitVec.ofNat 1024 (2 ^ n)) 0

/-- `Dec(x, ty)` (R129). -/
def dec (ty : Nat) (x : W32) : Num :=
  match ty with
  | 0 => decodeF fmtFP32 x.toNat
  | 1 => numOfInt x.toInt
  | 2 => decodeF fmtBF16 (x.toNat / 65536)
  | _ => decodeF fmtFP16 (x.toNat % 65536)

/-- `Enc(v, ty)` of a code (R129). -/
def enc (ty code : Nat) : W32 := BitVec.ofNat 32 (if ty = 2 then code * 65536 else code)

/-- `RoundTy` and `Enc` (R131): the lane bits and the flags, with the draws of place `n`. -/
def roundTy (ty : Nat) (mode : Mode) (key : W64) (n : Nat) (v : Num) : W32 × Fl :=
  let (c, f) := encodeF fmtFP32 mode false (drawFor mode key n v) v
  if ty = 2 || ty = 3 then
    let w := decodeF fmtFP32 c
    let (c2, g) := encodeF (if ty = 2 then fmtBF16 else fmtFP16) mode false (drawFor mode key n w) w
    (enc ty c2, f ||| g)
  else (enc ty c, f)

/-- The tile of the nonzero values among lanes with their values, in increasing lane order. -/
def tileFrom (l : List (Nat × W32)) : Tile := l.filter (fun p => p.2 != 0)

/-- Flags of a list of lane results. -/
def joinFlags (l : List (W32 × Fl)) : Fl := l.foldl (fun f r => f ||| r.2) 0

/-- An instruction that computes each active lane of `Vd` from lane `n` of the tiles in force (R130). -/
def vLanes (s : State) (occ lat pops : Nat) (d : BitVec 4) (k : BitVec 3) (f : VCtx → Nat → W32 × Fl) : Out :=
  vTile s occ lat pops (fun x =>
    let m := x.vec.K k.toNat
    let ls := lanesOf m
    let rs := ls.map (fun n => f x n)
    .ok [.tile d.toNat m (tileFrom (ls.zip (rs.map (·.1)))), .flags .v (joinFlags rs)])

/-- Lane `n` of tile register `a`, decoded. -/
def VCtx.num (x : VCtx) (ty : BitVec 3) (a : BitVec 4) (n : Nat) : Num := dec ty.toNat (lane (x.vec.V a.toNat) n)

/-- Lane `n` of tile register `a`. -/
def VCtx.lane (x : VCtx) (a : BitVec 4) (n : Nat) : W32 := Machine.lane (x.vec.V a.toNat) n

/-! ## Floating point (R132, R133) -/

/-- An exact value and its flags, rounded into a lane. -/
def vRound (ty : BitVec 3) (mode : Mode) (x : VCtx) (n : Nat) (r : Num × Fl) : W32 × Fl :=
  let (w, f) := roundTy ty.toNat mode x.key (x.place + n) r.1
  (w, r.2 ||| f)

/-- The exact sum of R132 in a mode. -/
def fAdd (m : Mode) (a b : Num) : Num × Fl := nAdd (m == .rdn) a b

/-- `VADD` (R132). -/
def execVadd (ty : BitVec 3) (d a b : BitVec 4) (k mode : BitVec 3) (s : State) : Out :=
  let m := modeOf mode.toNat
  vLanes s 4 6 0 d k (fun x n => vRound ty m x n (fAdd m (x.num ty a n) (x.num ty b n)))

/-- `VSUB` (R132). -/
def execVsub (ty : BitVec 3) (d a b : BitVec 4) (k mode : BitVec 3) (s : State) : Out :=
  let m := modeOf mode.toNat
  vLanes s 4 6 0 d k (fun x n => vRound ty m x n (fAdd m (x.num ty a n) (x.num ty b n).neg))

/-- `VMUL` (R132). -/
def execVmul (ty : BitVec 3) (d a b : BitVec 4) (k mode : BitVec 3) (s : State) : Out :=
  vLanes s 4 6 0 d k (fun x n => vRound ty (modeOf mode.toNat) x n (nMul (x.num ty a n) (x.num ty b n)))

/-- `VFMA` (R132). -/
def execVfma (ty : BitVec 3) (d a b c : BitVec 4) (k mode : BitVec 3) (s : State) : Out :=
  let m := modeOf mode.toNat
  vLanes s 4 8 0 d k (fun x n => vRound ty m x n (nFma (m == .rdn) (x.num ty a n) (x.num ty b n) (x.num ty c n)))

/-- `VFMS` (R132). -/
def execVfms (ty : BitVec 3) (d a b c : BitVec 4) (k mode : BitVec 3) (s : State) : Out :=
  let m := modeOf mode.toNat
  vLanes s 4 8 0 d k (fun x n => vRound ty m x n (nFma (m == .rdn) (x.num ty a n) (x.num ty b n) (x.num ty c n).neg))

/-- `VMIN` (R132). -/
def execVmin (ty : BitVec 3) (d a b : BitVec 4) (k : BitVec 3) (s : State) : Out :=
  vLanes s 4 6 0 d k (fun x n => vRound ty .rne x n (nMinMax false (x.num ty a n) (x.num ty b n)))

/-- `VMAX` (R132). -/
def execVmax (ty : BitVec 3) (d a b : BitVec 4) (k : BitVec 3) (s : State) : Out :=
  vLanes s 4 6 0 d k (fun x n => vRound ty .rne x n (nMinMax true (x.num ty a n) (x.num ty b n)))

/-- The bits of a type's encoding in a lane, and its sign bit (R129). -/
def tyBits (ty : Nat) : W32 × W32 :=
  match ty with
  | 2 => (0xFFFF0000, 0x80000000)
  | 3 => (0x0000FFFF, 0x00008000)
  | _ => (0xFFFFFFFF, 0x80000000)

/-- `VABS` (R132): the sign bit alone changes. -/
def execVabs (ty : BitVec 3) (d a : BitVec 4) (k : BitVec 3) (s : State) : Out :=
  vLanes s 4 6 0 d k (fun x n => (x.lane a n &&& (tyBits ty.toNat).1 &&& ~~~(tyBits ty.toNat).2, 0))

/-- `VNEG` (R132). -/
def execVneg (ty : BitVec 3) (d a : BitVec 4) (k : BitVec 3) (s : State) : Out :=
  vLanes s 4 6 0 d k (fun x n => ((x.lane a n &&& (tyBits ty.toNat).1) ^^^ (tyBits ty.toNat).2, 0))

/-- An approximate function of one operand (R133, R231): rounded once to FP32 with RNE, then to the type. -/
def vApprox (s : State) (lat : Nat) (ty : BitVec 3) (d a : BitVec 4) (k : BitVec 3) (f : Num → Num × Fl) : Out :=
  vLanes s 4 lat 0 d k (fun x n => vRound ty .rne x n (f (x.num ty a n)))

/-- `VRCP` (R231). -/
def execVrcp (ty : BitVec 3) (d a : BitVec 4) (k : BitVec 3) (s : State) : Out := vApprox s 12 ty d a k nRcp
/-- `VRSQ` (R231). -/
def execVrsq (ty : BitVec 3) (d a : BitVec 4) (k : BitVec 3) (s : State) : Out := vApprox s 12 ty d a k nRsq
/-- `VEXP2` (R231). -/
def execVexp2 (ty : BitVec 3) (d a : BitVec 4) (k : BitVec 3) (s : State) : Out := vApprox s 12 ty d a k nExp2
/-- `VLOG2` (R231). -/
def execVlog2 (ty : BitVec 3) (d a : BitVec 4) (k : BitVec 3) (s : State) : Out := vApprox s 12 ty d a k nLog2
/-- `VTANH` (R231). -/
def execVtanh (ty : BitVec 3) (d a : BitVec 4) (k : BitVec 3) (s : State) : Out := vApprox s 14 ty d a k nTanh

/-- `VSQRT` (R132, R133). -/
def execVsqrt (ty : BitVec 3) (d a : BitVec 4) (k mode : BitVec 3) (s : State) : Out :=
  vLanes s 16 24 0 d k (fun x n => vRound ty (modeOf mode.toNat) x n (nSqrt (x.num ty a n)))

/-- `VDIV` (R132, R133). -/
def execVdiv (ty : BitVec 3) (d a b : BitVec 4) (k mode : BitVec 3) (s : State) : Out :=
  vLanes s 16 24 0 d k (fun x n => vRound ty (modeOf mode.toNat) x n (nDiv (x.num ty a n) (x.num ty b n)))

/-- `VNOP` (R132): it retires at its issue ac. -/
def execVnop (s : State) : Out := vTile s 1 0 0 (fun _ => .ok [])

/-! ## Integers (R134) -/

/-- An integer instruction of two lanes. -/
def vInt (s : State) (lat : Nat) (d a b : BitVec 4) (k : BitVec 3) (f : W32 → W32 → W32) : Out :=
  vLanes s 4 lat 0 d k (fun x n => (f (x.lane a n) (x.lane b n), 0))

/-- `VIADD` (R134). -/
def execViadd (d a b : BitVec 4) (k : BitVec 3) (s : State) : Out := vInt s 5 d a b k (fun x y => x + y)
/-- `VISUB` (R134). -/
def execVisub (d a b : BitVec 4) (k : BitVec 3) (s : State) : Out := vInt s 5 d a b k (fun x y => x - y)
/-- `VIMUL` (R134). -/
def execVimul (d a b : BitVec 4) (k : BitVec 3) (s : State) : Out := vInt s 7 d a b k (fun x y => x * y)
/-- `VAND` (R134). -/
def execVand (d a b : BitVec 4) (k : BitVec 3) (s : State) : Out := vInt s 5 d a b k (fun x y => x &&& y)
/-- `VOR` (R134). -/
def execVor (d a b : BitVec 4) (k : BitVec 3) (s : State) : Out := vInt s 5 d a b k (fun x y => x ||| y)
/-- `VXOR` (R134). -/
def execVxor (d a b : BitVec 4) (k : BitVec 3) (s : State) : Out := vInt s 5 d a b k (fun x y => x ^^^ y)

/-- A shift by a lane of `Vb` or by an immediate (R134). -/
def vShift (s : State) (d a b : BitVec 4) (k : BitVec 3) (im : BitVec 1) (n : BitVec 5) (f : W32 → Nat → W32) : Out :=
  vLanes s 4 5 0 d k (fun x i => (f (x.lane a i) (if im = 1 then n.toNat else (x.lane b i).toNat % 32), 0))

/-- `VSHL` (R134). -/
def execVshl (d a b : BitVec 4) (k : BitVec 3) (im : BitVec 1) (n : BitVec 5) (s : State) : Out :=
  vShift s d a b k im n (fun x j => x <<< j)
/-- `VSHR` (R134). -/
def execVshr (d a b : BitVec 4) (k : BitVec 3) (im : BitVec 1) (n : BitVec 5) (s : State) : Out :=
  vShift s d a b k im n (fun x j => x >>> j)
/-- `VSAR` (R134). -/
def execVsar (d a b : BitVec 4) (k : BitVec 3) (im : BitVec 1) (n : BitVec 5) (s : State) : Out :=
  vShift s d a b k im n (fun x j => x.sshiftRight j)

/-- `VIMIN` (R134). -/
def execVimin (d a b : BitVec 4) (k : BitVec 3) (s : State) : Out := vInt s 5 d a b k (fun x y => if y.slt x then y else x)
/-- `VIMAX` (R134). -/
def execVimax (d a b : BitVec 4) (k : BitVec 3) (s : State) : Out := vInt s 5 d a b k (fun x y => if x.slt y then y else x)

/-! ## Compares, selects and masks (R135 to R137) -/

/-- One lane of `VCMP` (R135): the outcome and the flags. -/
def cmpLane (ty cc : Nat) (x y : W32) : Bool × Fl :=
  if ty = 1 then
    (match cc with
     | 0 => x == y
     | 1 => x != y
     | 2 => x.slt y
     | 3 => !y.slt x
     | 4 => y.slt x
     | _ => !x.slt y, 0)
  else
    let a := dec ty x
    let b := dec ty y
    if a.isNan || b.isNan then (cc == 1, flIf (2 ≤ cc || a.isSnan || b.isSnan) flInvalid)
    else
      (match cc with
       | 0 => nEq a b
       | 1 => !nEq a b
       | 2 => nLt a b
       | 3 => !nLt b a
       | 4 => nLt b a
       | _ => !nLt a b, 0)

/-- `VCMP` (R135): an inactive lane takes 0. -/
def execVcmp (ty : BitVec 3) (d a b : BitVec 4) (k cc : BitVec 3) (s : State) : Out :=
  vTile s 4 6 0 (fun x =>
    let rs := (lanesOf (x.vec.K k.toNat)).map (fun n => (n, cmpLane ty.toNat cc.toNat (x.lane a n) (x.lane b n)))
    .ok [.mask d.toNat (maskOf ((rs.filter (fun r => r.2.1)).map (·.1))), .flags .v (rs.foldl (fun f r => f ||| r.2.2) 0)])

/-- `VSEL` (R136): every lane is written. -/
def execVsel (_ty : BitVec 3) (d a b : BitVec 4) (k : BitVec 3) (s : State) : Out :=
  vTile s 4 5 0 (fun x =>
    let m := x.vec.K k.toNat
    let p := x.vec.V a.toNat
    let q := x.vec.V b.toNat
    .ok [.tile d.toNat (BitVec.allOnes 1024) (if p.isEmpty && q.isEmpty then [] else tileOf 1024 (fun n => if m.getLsbD n then lane p n else lane q n))])

/-- `VMSK` (R137). -/
def execVmsk (d a b : BitVec 4) (op : BitVec 3) (m : BitVec 7) (s : State) : Out :=
  vTile s 1 2 0 (fun x =>
    let ka := x.vec.K a.toNat
    let kb := x.vec.K b.toNat
    let row : Nat := 2 ^ (min m.toNat 64) - 1
    let v : BitVec 1024 := match op.toNat with
      | 0 => ka &&& kb
      | 1 => ka ||| kb
      | 2 => ka ^^^ kb
      | 3 => ka &&& ~~~kb
      | 4 => ~~~ka
      | 5 => BitVec.ofNat 1024 ((List.range 16).foldl (fun acc i => acc + row * 2 ^ (64 * i)) 0)
      | _ => BitVec.ofNat 1024 (2 ^ (64 * min m.toNat 16) - 1)
    .ok [.mask d.toNat v])

/-! ## Values from C, and moves (R153) -/

/-- `VMPOP` (R153): 16 entries make one mask. -/
def execVmpop (k : BitVec 3) (s : State) : Out :=
  vTile s 1 2 16 (fun x =>
    .ok [.mask k.toNat (BitVec.ofNat 1024 ((x.pops.zipIdx).foldl (fun acc p => acc + p.1.toNat * 2 ^ (64 * p.2)) 0))])

/-- `VMOVS` (R153). -/
def execVmovs (k : BitVec 3) (d : BitVec 4) (s : State) : Out :=
  vLanes s 2 4 1 d k (fun x _ => ((x.pops.headD 0).setWidth 32, 0))

/-- `VMOV` (R153). -/
def execVmov (_ty : BitVec 3) (d a : BitVec 4) (k : BitVec 3) (s : State) : Out :=
  vLanes s 4 4 0 d k (fun x n => (x.lane a n, 0))

/-! ## Conversions (R159 to R162) -/

/-- One lane of `VCVT` (R159). -/
def cvtLane (sty dty : Nat) (mode : Mode) (x : VCtx) (n : Nat) (v : W32) : W32 × Fl :=
  if sty = 1 && dty = 1 then (v, 0)
  else if dty = 1 then
    let a := dec sty v
    let (i, f) := toInt a mode (drawFor mode x.key (x.place + n) a) (-(2 ^ 31)) (2 ^ 31 - 1)
    (BitVec.ofInt 32 i, f)
  else roundTy dty mode x.key (x.place + n) (dec sty v)

/-- The AMAX effect of a list of values (R161). -/
def amaxEffect (vals : List Num) : Effect :=
  let r := vals.foldl amaxStep (none, false)
  .amax .v r.1 r.2

/-- `VCVT` (R159, R161). -/
def execVcvt (ty : BitVec 3) (d a : BitVec 4) (k dty mode : BitVec 3) (s : State) : Out :=
  vTile s 4 6 0 (fun x =>
    let m := x.vec.K k.toNat
    let ls := lanesOf m
    let rs := ls.map (fun n => cvtLane ty.toNat dty.toNat (modeOf mode.toNat) x n (x.lane a n))
    let am := if ty = 1 then [] else [amaxEffect (ls.map (fun n => x.num ty a n))]
    .ok ([.tile d.toNat m (tileFrom (ls.zip (rs.map (·.1)))), .flags .v (joinFlags rs)] ++ am))

/-- `VREQ` (R160, R161). -/
def execVreq (d a b : BitVec 4) (k : BitVec 3) (fmt : BitVec 5) (mode : BitVec 3) (nonsat code : BitVec 1) (s : State) : Out :=
  vTile s 4 8 0 (fun x =>
    let m := x.vec.K k.toNat
    let ls := lanesOf m
    let xs := ls.map (fun n =>
      let (p, f) := nMul (dec 0 (x.lane a n)) (dec 0 (x.lane b n))
      let (c, g) := roundRne p
      (decodeF fmtFP32 c, f ||| g))
    let md := modeOf mode.toNat
    let rs := (ls.zip xs).map (fun q =>
      let (c, f) := encodeFmt fmt.toNat md (nonsat == 1) (drawFor md x.key (x.place + q.1) q.2.1) q.2.1
      let w := if code = 1 then c else (roundRne (decodeFmt fmt.toNat c)).1
      (BitVec.ofNat 32 w, q.2.2 ||| f))
    .ok [.tile d.toNat m (tileFrom (ls.zip (rs.map (·.1)))), .flags .v (joinFlags rs), amaxEffect (xs.map (·.1))])

/-- `VAMAX` (R162). -/
def execVamax (ty : BitVec 3) (a : BitVec 4) (k : BitVec 3) (s : State) : Out :=
  vTile s 4 6 0 (fun x => .ok [amaxEffect ((lanesOf (x.vec.K k.toNat)).map (fun n => x.num ty a n))])

/-! ## The generator (R163) -/

/-- `VRNG` (R163): three entries give the key and the counter. -/
def execVrng (ty : BitVec 3) (d : BitVec 4) (k : BitVec 3) (unif : BitVec 2) (s : State) : Out :=
  vLanes s 8 20 3 d k (fun x n =>
    let key := x.pops.getD 0 0
    let base := (x.pops.getD 1 0).toNat + (x.pops.getD 2 0).toNat * 2 ^ 64
    let draw := mixDraw key ((base + n) % 2 ^ 128)
    if unif = 0 && ty = 1 then (draw, 0)
    else (BitVec.ofNat 32 (roundRne (.fin false (draw.toNat / 256) (-24))).1, 0))

end Sys2Proof.Machine
end

