-- ==== Sys2Proof/Machine/VAxis.lean ====
section
/-! DEFINITION. V's instructions across lanes: rotations, broadcasts, reductions, scans and permutes (R138 to R141). -/

namespace Sys2Proof.Machine

/-- The lanes of row `r`, by column (R31). -/
def rowLine (r : Nat) : List Nat := upto (64 * r) 64

/-- The lanes of column `c`, by row (R31). -/
def colLine (c : Nat) : List Nat := (List.range 16).map (fun r => 64 * r + c)

/-- `FallRead(line, j)` (R138): the active lane of highest position at or below `j`, else zero. -/
def fallRead (t : Tile) (m : BitVec 1024) (line : List Nat) (j : Nat) : W32 :=
  match ((line.take (j + 1)).reverse).find? (fun n => m.getLsbD n) with
  | some n => lane t n
  | none => 0

/-- An instruction that writes every lane of `Vd` by a point read: `pick row col` gives the line and the position, or nothing for zero. -/
def vPoint (s : State) (lat : Nat) (d a : BitVec 4) (k : BitVec 3) (pick : VCtx → Nat → Nat → Option (List Nat × Nat)) : Out :=
  vTile s 4 lat 0 (fun x =>
    let t := x.vec.V a.toNat
    let m := x.vec.K k.toNat
    .ok [.tile d.toNat (BitVec.allOnes 1024) (if t.isEmpty then [] else tileOf 1024 (fun n =>
      match pick x (n / 64) (n % 64) with
      | some (line, j) => fallRead t m line j
      | none => 0))])

/-- `VROTR` (R139). -/
def execVrotr (_ty : BitVec 3) (d a : BitVec 4) (k : BitVec 3) (n : BitVec 6) (s : State) : Out :=
  vPoint s 6 d a k (fun _ row col => some (rowLine row, (col + 64 - n.toNat) % 64))

/-- `VROTC` (R139). -/
def execVrotc (_ty : BitVec 3) (d a : BitVec 4) (k : BitVec 3) (n : BitVec 4) (s : State) : Out :=
  vPoint s 10 d a k (fun _ row col => some (colLine col, (row + 16 - n.toNat) % 16))

/-- `VBCR` (R139). -/
def execVbcr (_ty : BitVec 3) (d a : BitVec 4) (k : BitVec 3) (n : BitVec 6) (s : State) : Out :=
  vPoint s 6 d a k (fun _ row _ => some (rowLine row, n.toNat))

/-- `VBCC` (R139). -/
def execVbcc (_ty : BitVec 3) (d a : BitVec 4) (k : BitVec 3) (n : BitVec 4) (s : State) : Out :=
  vPoint s 10 d a k (fun _ _ col => some (colLine col, n.toNat))

/-- `VPERM` (R141): the index lanes are read whatever the mask holds. -/
def execVperm (_ty : BitVec 3) (d a b : BitVec 4) (k : BitVec 3) (col : BitVec 1) (s : State) : Out :=
  vPoint s (if col = 1 then 12 else 8) d a k (fun x r c =>
    let i := (x.lane b (64 * r + c)).toInt
    if i < 0 then none
    else if col = 1 then (if i < 16 then some (colLine c, i.toNat) else none)
    else if i < 64 then some (rowLine r, i.toNat) else none)

/-! ## Reductions and scans (R140) -/

/-- The steps of R140 with distance `sh`, then twice it: every position from `sh` on combines with the one `sh` before it, all at once. -/
def scanSteps {α : Type} (f : α → α → α × Fl) : Nat → Nat → List α → Fl → List α × Fl
  | 0, _, w, fl => (w, fl)
  | n + 1, sh, w, fl =>
    let rs := (w.zip (w.drop sh)).map (fun p => f p.1 p.2)
    scanSteps f n (2 * sh) (w.take sh ++ rs.map (·.1)) (rs.foldl (fun g r => g ||| r.2) fl)

/-- Steps of a line: `Log2(N)`. -/
def lineSteps (line : List Nat) : Nat := line.length.log2

/-- The identity of a floating reduction (R138). -/
def idNum (op : Nat) : Num :=
  match op with
  | 0 => .fin true 0 0
  | 1 => .inf true
  | _ => .inf false

/-- One combination of a floating reduction (R140). -/
def combNum (op : Nat) (a b : Num) : Num × Fl :=
  match op with
  | 0 =>
    let (v, f) := nAdd false a b
    let (c, g) := roundRne v
    (decodeF fmtFP32 c, f ||| g)
  | 1 => nMinMax true a b
  | _ => nMinMax false a b

/-- One combination of an integer reduction (R140). -/
def combInt (op : Nat) (a b : W32) : W32 × Fl :=
  (match op with
   | 0 => a + b
   | 1 => if a.slt b then b else a
   | _ => if b.slt a then b else a, 0)

/-- The identity of an integer reduction (R138). -/
def idInt (op : Nat) : W32 :=
  match op with
  | 0 => 0
  | 1 => 0x80000000
  | _ => 0x7FFFFFFF

/-- The scan of one line (R140): its lanes' results, in order, and the flags. `reduce`: every lane takes the last value. -/
def scanLine (ty op : Nat) (reduce : Bool) (t : Tile) (m : BitVec 1024) (line : List Nat) : List W32 × Fl :=
  let act (n : Nat) : Bool := m.getLsbD n
  let spread (w : List W32) : List W32 := if reduce then line.map (fun _ => w.getLastD 0) else w
  if op = 3 then
    let w := line.map (fun n => if act n then some (lane t n) else none)
    let (w, fl) := scanSteps (fun (a b : Option W32) => (b.orElse (fun _ => a), (0 : Fl))) (lineSteps line) 1 w 0
    (spread (w.map (fun v => match v with
      | some v => if ty = 1 then v else (roundTy ty .rne 0 0 (dec ty v)).1
      | none => 0)), fl)
  else if ty = 1 then
    let (w, fl) := scanSteps (combInt op) (lineSteps line) 1 (line.map (fun n => if act n then lane t n else idInt op)) 0
    (spread w, fl)
  else
    let (w, fl) := scanSteps (combNum op) (lineSteps line) 1 (line.map (fun n => if act n then dec ty (lane t n) else idNum op)) 0
    let rs := (if reduce then w.drop (w.length - 1) else w).map (fun v => roundTy ty .rne 0 0 v)
    (spread (rs.map (·.1)), fl ||| joinFlags rs)

/-- A reduction or scan along every line (R140). -/
def vScan (s : State) (lat : Nat) (ty : BitVec 3) (d a : BitVec 4) (k : BitVec 3) (op : BitVec 2) (rows reduce : Bool) : Out :=
  vTile s 4 lat 0 (fun x =>
    let t := x.vec.V a.toNat
    let m := x.vec.K k.toNat
    let lines := if rows then (List.range 16).map rowLine else (List.range 64).map colLine
    let rs := lines.map (fun line =>
      let (w, f) := scanLine ty.toNat op.toNat reduce t m line
      (line.zip w, f))
    let all : Tile := (rs.flatMap (·.1)).foldl (fun t p => spPut 0 t p.1 p.2) []
    .ok [.tile d.toNat (BitVec.allOnes 1024) (if rows then tileFrom (rs.flatMap (·.1)) else all),
         .flags .v (rs.foldl (fun f r => f ||| r.2) 0)])

/-- `VREDR` (R140). -/
def execVredr (ty : BitVec 3) (d a : BitVec 4) (k : BitVec 3) (ax : BitVec 2) (s : State) : Out := vScan s 14 ty d a k ax true true
/-- `VREDC` (R140). -/
def execVredc (ty : BitVec 3) (d a : BitVec 4) (k : BitVec 3) (ax : BitVec 2) (s : State) : Out := vScan s 16 ty d a k ax false true
/-- `VSCANR` (R140). -/
def execVscanr (ty : BitVec 3) (d a : BitVec 4) (k : BitVec 3) (ax : BitVec 2) (s : State) : Out := vScan s 16 ty d a k ax true false
/-- `VSCANC` (R140). -/
def execVscanc (ty : BitVec 3) (d a : BitVec 4) (k : BitVec 3) (ax : BitVec 2) (s : State) : Out := vScan s 18 ty d a k ax false false

end Sys2Proof.Machine
end

