-- ==== Sys2Proof/Machine/VFlow.lean ====
section
/-! DEFINITION. V's loops and taken targets (R151, R152). -/

namespace Sys2Proof.Machine

/-- A loop of V opens (R151); in an update program on its application, which has no CQV (R164). -/
def vOpen (s : State) (l : BitVec 2) (len : BitVec 16) (pops : Nat) (count : List W64 → W64) : Out :=
  let cur := s.cur
  match cur.unit with
  | some u =>
    if pops > 0 then .next (s.faultHere (.of .illop))
    else
    match s.keeper.apps.find? (fun a => a.unit == u) with
    | none => .next s
    | some a =>
      match openLoop a.loops l.toNat a.pc len.toNat a.prog.length (count []) with
      | .error c => .next (s.faultHere (.of c))
      | .ok (loops, target) =>
        let a' := match target with
          | some t => { a with pc := t }
          | none => { a with loops := loops }.next
        .next { s with keeper := { s.keeper with apps := s.keeper.apps.map (fun b => if b.unit = u then a' else b) } }
  | none =>
    vOp s pops (fun c es =>
      match openLoop c.v.loops l.toNat cur.pc len.toNat (s.imgLen cur.core) (count es) with
      | .error e => .cause e
      | .ok (loops, target) =>
        .done (s.setCore cur.core (c.modStream .v (fun st => { st with loops := loops }))) 1 0 target [])

/-- `VLOOP` with an immediate count (R151). -/
def execVloop (l : BitVec 2) (cnt : BitVec 21) (len : BitVec 16) (s : State) : Out :=
  vOpen s l len 0 (fun _ => cnt.setWidth 64)

/-- `VLOOP.Q` (R151). -/
def execVloopQ (l : BitVec 2) (len : BitVec 16) (s : State) : Out :=
  vOpen s l len 1 (fun es => es.headD 0)

/-- `VTAKE` (R152): V goes on at a target that C computed, 6 ac later. -/
def execVtake (s : State) : Out :=
  vOp s 1 (fun c es =>
    let e := es.headD 0
    let target := bits e 0 17
    if bits e 17 47 != 0 then .cause .vtarget
    else if target < 8 || target ≥ 8 * s.imgLen s.cur.core then .cause .fetchBounds
    else
      .done (s.setCore s.cur.core (c.modStream .v (fun st => { st with loops := clearLoopsLeft st.loops target }))) 6 0 (some target) [])

end Sys2Proof.Machine
end

