-- ==== Sys2Proof/Machine/VMem.lean ====
section
/-! DEFINITION. V's memory instructions, `VMAP` sweeps and the offcut queue (R128, R142 to R149, R155 to R158). -/

namespace Sys2Proof.Machine

/-! ## Elements in memory (R142) -/

/-- The lane bits of an element read from memory. -/
def laneOfMem (ty v : Nat) : W32 := BitVec.ofNat 32 (if ty = 2 then v * 65536 else v)

/-- The element that lane bits store. -/
def memOfLane (ty : Nat) (x : W32) : Nat :=
  match ty with
  | 2 => x.toNat / 65536
  | 3 => x.toNat % 65536
  | _ => x.toNat

/-- Adjacent writes joined, in order. -/
def joinWrites : List (Nat × List Byte) → List (Nat × List Byte)
  | [] => []
  | w :: ws =>
    match joinWrites ws with
    | q :: qs => if w.1 + w.2.length = q.1 then (w.1, w.2 ++ q.2) :: qs else w :: q :: qs
    | [] => [w]

/-- Writes of V or M into the core's storage, in order (R146). -/
def State.writeAll (s : State) (core : Nat) (ws : List (Nat × List Byte)) : State :=
  (joinWrites ws).foldl (fun s w => s.writeOwn core w.1 w.2) s

/-- A fault of a memory instruction through record `t`. -/
def vFault (c : Cause) (t i : Nat) (r : BitVec 256) : Body :=
  .fault { Report.of c with trec := t, irec := i, lease := if c = .record then 0 else tLease r }

/-- The ports of V that an instruction uses (R128). -/
inductive Port where
  | read | write | both
  deriving DecidableEq, Repr, Inhabited

/-- A port that an instruction needs is still held at `now` (R128). -/
def portBusy (c : Core) (p : Port) (now : Nat) : Bool :=
  (p != .write && now < c.portR) || (p != .read && now < c.portW)

/-- The core with ports held until an ac. -/
def Core.holdPort (c : Core) (p : Port) (till : Nat) : Core :=
  { c with portR := if p = .write then c.portR else till, portW := if p = .read then c.portW else till }

/-- The accesses of active lanes through a record (R143). -/
def laneAccess (s : State) (t : BitVec 256) (size : Nat) (ls : List (Nat × Int)) : Except Cause (List (Nat × Access)) :=
  (recAccesses s s.cur.core t size (ls.map (·.2))).map (fun as => (ls.map (·.1)).zip as)

/-- Lanes of the first `rows` tile rows that a mask names, with their offsets under an iterator (R142). -/
def rowLanes (m : BitVec 1024) (rows size : Nat) (t : BitVec 256) (it : BitVec 128) : List (Nat × Int) :=
  ((lanesOf m).filter (fun n => n < 64 * rows)).map (fun n =>
    (n, iterOff t it (iDim it 2) (iIdx it 0 + n % 64) (iIdx it 1 + n / 64) (iIdx it 2) (iIdx it 3) size))

/-- A V load (R142, R143): lanes read, or the fault. -/
def vLoad (s : State) (c : Core) (t : BitVec 6) (i ty d : Nat) (ls : List (Nat × Int)) : Except Body (List Effect) :=
  let r := c.T t.toNat
  let size := tySize ty
  if tBkind r > 1 then .error (vFault .record t.toNat i r)
  else
    match laneAccess s r size ls with
    | .error e => .error (vFault e t.toNat i r)
    | .ok acc =>
      if acc.any (fun p => match p.2 with
          | .at_ k => s.poisoned k size
          | .zero => false) then .error (vFault .poison t.toNat i r)
      else
        let vals := acc.map (fun p => match p.2 with
          | .at_ k => (p.1, laneOfMem ty (s.readNat k size))
          | .zero => (p.1, 0))
        .ok [.tile d (maskOf (ls.map (·.1))) (tileFrom vals)]

/-- A V store (R142, R143): the state after it, or the fault. The bytes are written at issue (log 5). -/
def vStore (s : State) (c : Core) (t : BitVec 6) (i ty d : Nat) (ls : List (Nat × Int)) : Except Body State :=
  let r := c.T t.toNat
  let size := tySize ty
  let src := c.vec.V d
  if tBkind r > 1 then .error (vFault .record t.toNat i r)
  else
    match laneAccess s r size ls with
    | .error e => .error (vFault e t.toNat i r)
    | .ok acc =>
      .ok (s.writeAll s.cur.core (acc.filterMap (fun p => match p.2 with
        | .at_ k => some (k, toBytes size (memOfLane ty (lane src p.1)))
        | .zero => none)))

/-- Slots of `VLD` and `VST` (R145). -/
def vSlots (ty rows : Nat) : Nat := if ty < 2 then rows else ceilDiv rows 2

/-- The write-back of ADV at issue + 2 (R144). -/
def State.advance2 (s : State) (core : Nat) (i : BitVec 4) (rows : Nat) : State :=
  let c := s.core core
  let it := c.I i.toNat
  let (idx, _) := advance it (iIdx it 0) (iIdx it 1 + rows) (iIdx it 2) (iIdx it 3)
  (s.setCore core { c with
    flights := c.flights ++ [⟨c.nextId, .v, 0, [.iter i.toNat idx], false, false⟩]
    nextId := c.nextId + 1 }).after core 2 (.instructionRetire core .v c.nextId)

/-- `VLD` (R142 to R145). -/
def execVld (ty : BitVec 3) (d : BitVec 4) (t : BitVec 6) (i : BitVec 4) (k : BitVec 3) (adv : BitVec 1) (rows : BitVec 4) (s : State) : Out :=
  vOp s 0 (fun c _ =>
    let core := s.cur.core
    let now := s.acOf core
    let n := rows.toNat + 1
    let p := 2 * vSlots ty.toNat n
    if portBusy c .read now then .cause .portBusy
    else
      match vLoad s c t i.toNat ty.toNat d.toNat (rowLanes (c.vec.K k.toNat) n (tySize ty.toNat) (c.T t.toNat) (c.I i.toNat)) with
      | .error b => b
      | .ok effs =>
        let s := s.setCore core (c.holdPort .read (now + p))
        .done (if adv = 1 then s.advance2 core i n else s) 2 (p + 6) none effs)

/-- `VST` (R142 to R145). -/
def execVst (ty : BitVec 3) (d : BitVec 4) (t : BitVec 6) (i : BitVec 4) (k : BitVec 3) (adv : BitVec 1) (rows : BitVec 4) (s : State) : Out :=
  vOp s 0 (fun c _ =>
    let core := s.cur.core
    let now := s.acOf core
    let n := rows.toNat + 1
    let p := 2 * vSlots ty.toNat n
    if portBusy c .write now then .cause .portBusy
    else
      match vStore (s.setCore core (c.holdPort .write (now + p))) c t i.toNat ty.toNat d.toNat
          (rowLanes (c.vec.K k.toNat) n (tySize ty.toNat) (c.T t.toNat) (c.I i.toNat)) with
      | .error b => b
      | .ok s => .done (if adv = 1 then s.advance2 core i n else s) 2 (p + 4) none [])

/-- Lanes of a mask with the offsets that an index tile gives (R142). -/
def indexLanes (c : Core) (m : BitVec 1024) (i : BitVec 4) (size : Nat) : List (Nat × Int) :=
  (lanesOf m).map (fun n => (n, ((lane (c.vec.V i.toNat) n).toNat * size : Nat)))

/-- `VGATH` (R142, R145). -/
def execVgath (ty : BitVec 3) (d : BitVec 4) (t : BitVec 6) (i : BitVec 4) (k : BitVec 3) (s : State) : Out :=
  vOp s 0 (fun c _ =>
    let core := s.cur.core
    let now := s.acOf core
    if portBusy c .read now then .cause .portBusy
    else
      match vLoad s c t 0 ty.toNat d.toNat (indexLanes c (c.vec.K k.toNat) i (tySize ty.toNat)) with
      | .error b => b
      | .ok effs => .done (s.setCore core (c.holdPort .read (now + 128))) 2 134 none effs)

/-- `VSCAT` (R142, R145). -/
def execVscat (ty : BitVec 3) (d : BitVec 4) (t : BitVec 6) (i : BitVec 4) (k : BitVec 3) (s : State) : Out :=
  vOp s 0 (fun c _ =>
    let core := s.cur.core
    let now := s.acOf core
    if portBusy c .write now then .cause .portBusy
    else
      match vStore (s.setCore core (c.holdPort .write (now + 128))) c t 0 ty.toNat d.toNat
          (indexLanes c (c.vec.K k.toNat) i (tySize ty.toNat)) with
      | .error b => b
      | .ok s => .done s 2 132 none [])

/-! ## VMAP (R147 to R149) -/

/-- An operation of `VMAP`: operands it reads from records, whether it reads the destination too, whether it is an integer operation. -/
structure MapOp where
  two : Bool
  third : Bool
  int : Bool
  deriving DecidableEq, Repr, Inhabited

/-- The shape of an operation code of R67. -/
def mapShape (op : Nat) : MapOp :=
  ⟨(1 ≤ op && op ≤ 7) || op = 0x0D || 0x18 ≤ op, op = 4 || op = 5, 0x18 ≤ op⟩

/-- A floating operation of `VMAP` (R132, R147), RNE. -/
def mapFloat (op : Nat) (a b d : Num) : Num × Fl :=
  match op with
  | 0x01 => nAdd false a b
  | 0x02 => nAdd false a b.neg
  | 0x03 => nMul a b
  | 0x04 => nFma false a b d
  | 0x05 => nFma false a b d.neg
  | 0x06 => nMinMax false a b
  | 0x07 => nMinMax true a b
  | 0x0A => nRcp a
  | 0x0B => nRsq a
  | 0x0C => nSqrt a
  | 0x0D => nDiv a b
  | 0x0E => nExp2 a
  | 0x0F => nLog2 a
  | _ => nTanh a

/-- An integer operation of `VMAP` (R134, R147). -/
def mapInt (op : Nat) (a b : W32) : W32 :=
  match op with
  | 0x18 => a + b
  | 0x19 => a - b
  | 0x1A => a * b
  | 0x1B => a &&& b
  | 0x1C => a ||| b
  | 0x1D => a ^^^ b
  | 0x1E => a <<< (b.toNat % 32)
  | 0x1F => a >>> (b.toNat % 32)
  | 0x20 => a.sshiftRight (b.toNat % 32)
  | 0x21 => if b.slt a then b else a
  | _ => if a.slt b then b else a

/-- The V type of a record of `VMAP` (R147). -/
def mapTy (int : Bool) (t : BitVec 256) : Nat :=
  if int then 1
  else match tFmt t with
    | 1 => 2
    | 2 => 3
    | _ => 0

/-- One element of a sweep, from lane bits of the sources and of the destination: the new lane bits of the destination. `VABS` and `VNEG` act on the source's sign bit. -/
def mapElem (op ta tb td : Nat) (x y z : W32) : W32 × Fl :=
  if op = 0x08 || op = 0x09 then
    let (m, sg) := tyBits ta
    let v := if op = 0x08 then x &&& m &&& ~~~sg else (x &&& m) ^^^ sg
    if ta = td then (v, 0)
    else
      -- another result type: the value with its sign changed is rounded to it
      roundTy td .rne 0 0 (dec ta v)
  else if 0x18 ≤ op then (mapInt op x y, 0)
  else
    let (v, f) := mapFloat op (dec ta x) (dec tb y) (dec td z)
    let (w, g) := roundTy td .rne 0 0 v
    (w, f ||| g)

/-- The records of a `VMAP` are fit for it (R147). -/
def mapRecordBad (op : Nat) (ra rb rd : BitVec 256) (id : BitVec 128) (ib : BitVec 4) (tb : BitVec 6) : Bool :=
  let sh := mapShape op
  let rs := if sh.two then [ra, rb, rd] else [ra, rd]
  (!sh.two && (ib != 0 || tb != 0)) || rs.any (fun r => tBkind r > 1) ||
  rs.any (fun r => if sh.int then tFmt r != 0 else tFmt r > 2) || bits id 96 4 != 0

/-- Length of a row step in ac (R149). -/
def mapCost (op : Nat) : Nat :=
  let sh := mapShape op
  if sh.third then 6 else if sh.two then 4 else 2

/-- One element of a row step: the sources and, for `VFMA` and `VFMS`, the destination are read, and the result is written, before the next element (R147). -/
def mapOne (core op ya yb yd : Nat) (third : Bool) (acc : State × Fl) (p : Access × Access × Access) : State × Fl :=
  let get (ty : Nat) (a : Access) : W32 := match a with
    | .at_ k => laneOfMem ty (acc.1.readNat k (tySize ty))
    | .zero => 0
  let r := mapElem op ya yb yd (get ya p.1) (get yb p.2.1) (if third then get yd p.2.2 else 0)
  (match p.2.2 with
    | .at_ k => acc.1.writeOwn core k (toBytes (tySize yd) (memOfLane yd r.1))
    | .zero => acc.1, acc.2 ||| r.2)

/-- One row step of a sweep (R147): every check, then element by element; the state after it with its flags. -/
def mapStep (s : State) (core op : Nat) (w : Sweep) (ta tb td : Nat) : Except Report State :=
  let sh := mapShape op
  let n := min 64 (iDim w.id 0 + 1 - iIdx w.id 0)
  let yd := mapTy sh.int w.rd
  let ya := mapTy sh.int w.ra
  let yb := mapTy sh.int w.rb
  let off (r : BitVec 256) (it : BitVec 128) (ty e : Nat) : Int :=
    iterOff r it (iDim w.id 2) (iIdx w.id 0 + e) (iIdx w.id 1) (iIdx w.id 2) (iIdx w.id 3) (tySize ty)
  let side (r : BitVec 256) (it : BitVec 128) (ty : Nat) : Except Cause (List Access) :=
    recAccesses s core r (tySize ty) ((upto 0 n).map (off r it ty))
  let rep (e : Cause) (t : Nat) (r : BitVec 256) : Report :=
    { Report.of e with trec := t, lease := tLease r, idx := sub w.id 48 48 }
  let hot (ty : Nat) (l : List Access) : Bool := l.any (fun a => match a with
    | .at_ k => s.poisoned k (tySize ty)
    | .zero => false)
  match side w.ra w.ia ya, (if sh.two then side w.rb w.ib yb else .ok []), side w.rd w.id yd with
  | .error e, _, _ => .error (rep e ta w.ra)
  | _, .error e, _ => .error (rep e tb w.rb)
  | _, _, .error e => .error (rep e td w.rd)
  | .ok la, .ok lb, .ok ld =>
    if hot ya la || hot yb lb || (sh.third && hot yd ld) then .error (rep .poison ta w.ra)
    else
      let es := (upto 0 n).map (fun e => (la.getD e .zero, lb.getD e .zero, ld.getD e .zero))
      let (s, fl) := es.foldl (mapOne core op ya yb yd sh.third) (s, 0)
      .ok (s.modCore core (fun c => { c with csr := { c.csr with fflags := orFlags c.csr.fflags .v fl } }))

/-- A fault at a row step (R148): nothing of the step is written, and IDX names it. A restart that `QFLUSH` asked for stands at its target. -/
def State.mapFault (s : State) (core id : Nat) (r : Report) : State :=
  let target := (s.core core).vtarget
  let s := (s.modCore core Core.stopSweep).faultHere { r with irec := id }
  match target with
  | some t => s.modCore core (fun c => c.modStream .v (fun st =>
      { st with pc := BitVec.ofNat 17 t, packed := false, codePos := 0, loops := st.loops.map (fun l => { l with act := false }) }))
  | none => s

/-- A sweep makes its next row step (R147, R149); its word has issued, and the last step retires it 8 ac after. -/
def State.mapRow (s : State) (w : Sweep) (op : Nat) (id : BitVec 4) (ta tb td : BitVec 6) : State :=
  let core := s.cur.core
  let now := s.acOf core
  match mapStep s core op w ta.toNat tb.toNat td.toNat with
  | .error r => s.mapFault core id.toNat r
  | .ok s =>
    let i0 := iIdx w.id 0 + 64
    let (idx, over_) :=
      if i0 > iDim w.id 0 then advance w.id 0 (iIdx w.id 1 + 1) (iIdx w.id 2) (iIdx w.id 3)
      else (idxOf i0 (iIdx w.id 1) (iIdx w.id 2) (iIdx w.id 3), false)
    let till := now + mapCost op
    let s := s.modCore core (fun c => c.setI id.toNat (putBits (c.I id.toNat) 48 48 idx.toNat))
    if over_ then
      let target := (s.core core).vtarget
      let s := s.modCore core (fun c =>
        let c := { (c.holdPort .both (till + 8)) with sweep := none, vtarget := none }
        if target.isSome then c.modStream .v (fun st => { st with loops := st.loops.map (fun l => { l with act := false }) }) else c)
      -- its tokens were popped at issue
      let s := { s with cur := { s.cur with frame := { s.cur.frame with wait := none } } }
      s.finish (mapCost op + 8) (mapCost op + 8) target []
    else
      s.modCore core (fun c =>
        { (c.holdPort .both till) with sweep := some { w with id := putBits w.id 48 48 idx.toNat } }.modStream .v
          (fun st => { st with nextAc := till, wait := .idle, heldFrom := none, broken := none }))

/-- `VMAP` (R147 to R149): at issue its tokens are popped and its records read; then it makes one row step at a time, and holds V and both ports until it retires. A first step that faults pops no token (R127). -/
def execVmap (op : BitVec 8) (id ia ib : BitVec 4) (ta tb td : BitVec 6) (s : State) : Out :=
  let o := op.toNat
  match (if s.cur.unit.isNone then (s.core s.cur.core).sweep else none) with
  | some w => .next (s.mapRow w o id ta tb td)
  | none =>
    vOp s 0 (fun c _ =>
      let core := s.cur.core
      let w : Sweep := ⟨s.cur, .vmap op id ia ib ta tb td, c.T ta.toNat, c.T tb.toNat, c.T td.toNat, c.I ia.toNat, c.I ib.toNat, c.I id.toNat⟩
      if portBusy c .both (s.acOf core) then .cause .portBusy
      else if mapRecordBad o w.ra w.rb w.rd w.id ib tb then
        .fault { Report.of .record with trec := td.toNat, irec := id.toNat, idx := sub w.id 48 48 }
      else
        .wait ((s.setCore core { c.pop .v s.cur.frame.wait with sweep := some w }).mapRow w o id ta tb td))

/-! ## The offcut queue (R155 to R158) -/

/-- The check of the queue's region (R156): EXPIRY or NOLEASE. DESIGN CHOICE: a lease that is not SYNC, which R28 asks for, passes, since R156 tests the lease alone (log 96). -/
def offcutCheck (s : State) (c : Core) : Option Cause :=
  let b := c.csr.offcutb.toNat
  let pj := s.jobOf s.cur.core
  if b + 32768 > 0x100000 then some .nolease else checkCovering s pj.1 pj.2 (keySpm s.cur.core b) 32768

/-- Home of entry `q` of the queue (R155). -/
def offcutKey (c : Core) (core q : Nat) : Nat := keySpm core (c.csr.offcutb.toNat + 64 * ((c.head + q) % 512))

/-- `VDEFER` (R156): entries for the active lanes of some rows; OFFCUTN follows at retirement. -/
def execVdefer (a : BitVec 4) (k n : BitVec 3) (first rows : BitVec 4) (s : State) : Out :=
  vOp s 0 (fun c _ =>
    let core := s.cur.core
    let now := s.acOf core
    let nr := rows.toNat + 1
    let ls := (lanesOf (c.vec.K k.toNat)).filter (fun x => 64 * first.toNat ≤ x && x < 64 * (first.toNat + nr))
    if portBusy c .write now then .cause .portBusy
    else
      match offcutCheck s c with
      | some e => .cause e
      | none =>
        if c.pendn + ls.length > 512 then .cause .offcutFull
        else
          let entry (x : Nat) : Nat :=
            x * 2 ^ 288 + (upto 0 (n.toNat + 1)).foldl (fun v j => v + (lane (c.vec.V (a.toNat + j)) x).toNat * 2 ^ (32 * j)) 0
          let ws := (ls.zipIdx).map (fun p => (offcutKey c core (c.pendn + p.2), toBytes 64 (entry p.1)))
          let s := s.setCore core { (c.holdPort .write (now + 32 * nr)) with
            pendn := c.pendn + ls.length, snap := { c.snap with replayable := false } }
          .done (s.writeAll core ws) 2 (32 * nr + 4) none [.offcut ls.length])

/-- `VDRAIN` (R157): the oldest entries fill rows; everything is written at issue + L. -/
def execVdrain (d c : BitVec 4) (k n : BitVec 3) (first rows : BitVec 4) (s : State) : Out :=
  vOp s 0 (fun r _ =>
    let core := s.cur.core
    let now := s.acOf core
    let nr := rows.toNat + 1
    if portBusy r .read now then .cause .portBusy
    else
      match offcutCheck s r with
      | some e => .cause e
      | none =>
        let m := min r.pendn (64 * nr)
        if (upto 0 m).any (fun q => s.poisoned (offcutKey r core q) 64) then .cause .poison
        else
          let es := (upto 0 m).map (fun q => s.readNat (offcutKey r core q) 64)
          let lo := 64 * first.toNat
          let got := maskOf (upto lo m)
          let vals (j : Nat) : Tile := tileFrom (es.zipIdx.map (fun p => (lo + p.2, BitVec.ofNat 32 (p.1 / 2 ^ (32 * j)))))
          let nums : Tile := tileFrom ((upto 0 (64 * nr)).map (fun q =>
            (lo + q, if q < m then BitVec.ofNat 32 (fldN (es.getD q 0) 288 16) else 0xFFFFFFFF)))
          let effs := (upto 0 (n.toNat + 1)).map (fun j => Effect.tile (d.toNat + j) got (vals j)) ++
            [.tile c.toNat (maskOf (upto lo (64 * nr))) nums, .mask k.toNat got, .offcut (-(m : Int))]
          .done (s.setCore core { (r.holdPort .read (now + 32 * nr)) with pendn := r.pendn - m, head := (r.head + m) % 512 })
            2 (32 * nr + 6) none effs)

end Sys2Proof.Machine
end

