-- ==== Sys2Proof/Machine/Dispatch.lean ====
section
/-! DEFINITION. One arm per instruction: which meaning it has. -/

namespace Sys2Proof.Machine

def exec (i : Instr) (s : State) : Host.Outcome State Fault Refusal :=
  match i with
  | .nop => Sys2Proof.Machine.execNop s
  | .add d a b => Sys2Proof.Machine.execAdd d a b s
  | .sub d a b => Sys2Proof.Machine.execSub d a b s
  | .mul d a b => Sys2Proof.Machine.execMul d a b s
  | .mulh d a b => Sys2Proof.Machine.execMulh d a b s
  | .mulhu d a b => Sys2Proof.Machine.execMulhu d a b s
  | .divu d a b => Sys2Proof.Machine.execDivu d a b s
  | .remu d a b => Sys2Proof.Machine.execRemu d a b s
  | .and d a b => Sys2Proof.Machine.execAnd d a b s
  | .or d a b => Sys2Proof.Machine.execOr d a b s
  | .xor d a b => Sys2Proof.Machine.execXor d a b s
  | .andn d a b => Sys2Proof.Machine.execAndn d a b s
  | .shl d a b => Sys2Proof.Machine.execShl d a b s
  | .shr d a b => Sys2Proof.Machine.execShr d a b s
  | .sar d a b => Sys2Proof.Machine.execSar d a b s
  | .rotl d a b => Sys2Proof.Machine.execRotl d a b s
  | .min d a b => Sys2Proof.Machine.execMin d a b s
  | .max d a b => Sys2Proof.Machine.execMax d a b s
  | .minu d a b => Sys2Proof.Machine.execMinu d a b s
  | .maxu d a b => Sys2Proof.Machine.execMaxu d a b s
  | .clz d a => Sys2Proof.Machine.execClz d a s
  | .popc d a => Sys2Proof.Machine.execPopc d a s
  | .addp d a b => Sys2Proof.Machine.execAddp d a b s
  | .addi d a imm => Sys2Proof.Machine.execAddi d a imm s
  | .andi d a imm => Sys2Proof.Machine.execAndi d a imm s
  | .ori d a imm => Sys2Proof.Machine.execOri d a imm s
  | .xori d a imm => Sys2Proof.Machine.execXori d a imm s
  | .shli d a imm => Sys2Proof.Machine.execShli d a imm s
  | .shri d a imm => Sys2Proof.Machine.execShri d a imm s
  | .sari d a imm => Sys2Proof.Machine.execSari d a imm s
  | .movi d imm => Sys2Proof.Machine.execMovi d imm s
  | .immx imm => Sys2Proof.Machine.execImmx imm s
  | .packed cnt c0 c1 c2 => Sys2Proof.Machine.execPacked cnt c0 c1 c2 s
  | .cmp g cc a b => Sys2Proof.Machine.execCmp g cc a b s
  | .cmpi g cc a imm => Sys2Proof.Machine.execCmpi g cc a imm s
  | .gset g a => Sys2Proof.Machine.execGset g a s
  | .gcomb g cc h j => Sys2Proof.Machine.execGcomb g cc h j s
  | .prepImm g target => Sys2Proof.Machine.execPrepImm g target s
  | .prepReg g a => Sys2Proof.Machine.execPrepReg g a s
  | .go g cc => Sys2Proof.Machine.execGo g cc s
  | .gol g cc d => Sys2Proof.Machine.execGol g cc d s
  | .loop l a len => Sys2Proof.Machine.execLoop l a len s
  | .ld d a sz t imm => Sys2Proof.Machine.execLd d a sz t imm s
  | .st d a sz t imm => Sys2Proof.Machine.execSt d a sz t imm s
  | .ldt d a sz t imm => Sys2Proof.Machine.execLdt d a sz t imm s
  | .stt d a sz t imm => Sys2Proof.Machine.execStt d a sz t imm s
  | .amo d a b op sz => Sys2Proof.Machine.execAmo d a b op sz s
  | .cas d a b c sz => Sys2Proof.Machine.execCas d a b c sz s
  | .tdset n a => Sys2Proof.Machine.execTdset n a s
  | .tdsetBase n b => Sys2Proof.Machine.execTdsetBase n b s
  | .tdsetExt n b => Sys2Proof.Machine.execTdsetExt n b s
  | .tdget n a => Sys2Proof.Machine.execTdget n a s
  | .tdgetBase n a => Sys2Proof.Machine.execTdgetBase n a s
  | .itset n a => Sys2Proof.Machine.execItset n a s
  | .itsetIdx n b => Sys2Proof.Machine.execItsetIdx n b s
  | .itget n a => Sys2Proof.Machine.execItget n a s
  | .itgetIdx n a => Sys2Proof.Machine.execItgetIdx n a s
  | .qpush q a => Sys2Proof.Machine.execQpush q a s
  | .qmask a => Sys2Proof.Machine.execQmask a s
  | .qflush q target => Sys2Proof.Machine.execQflush q target s
  | .enqr a b => Sys2Proof.Machine.execEnqr a b s
  | .enqrT a b g n => Sys2Proof.Machine.execEnqrT a b g n s
  | .enqrQueued core => Sys2Proof.Machine.execEnqrQueued core s
  | .enqrTimeout core => Sys2Proof.Machine.execEnqrTimeout core s
  | .fork a => Sys2Proof.Machine.execFork a s
  | .streamEnd core eng => Sys2Proof.Machine.execStreamEnd core eng s
  | .rend => Sys2Proof.Machine.execRend s
  | .rendJoin core => Sys2Proof.Machine.execRendJoin core s
  | .bar id => Sys2Proof.Machine.execBar id s
  | .waito n a b => Sys2Proof.Machine.execWaito n a b s
  | .waitoT n a b lim => Sys2Proof.Machine.execWaitoT n a b lim s
  | .waitoEnd core => Sys2Proof.Machine.execWaitoEnd core s
  | .waitoTimeout core => Sys2Proof.Machine.execWaitoTimeout core s
  | .sigo n a => Sys2Proof.Machine.execSigo n a s
  | .bphase a => Sys2Proof.Machine.execBphase a s
  | .bphaseSnapshot core => Sys2Proof.Machine.execBphaseSnapshot core s
  | .halt => Sys2Proof.Machine.execHalt s
  | .haltRetire core => Sys2Proof.Machine.execHaltRetire core s
  | .cancelUnit a => Sys2Proof.Machine.execCancelUnit a s
  | .cancelLaunch a => Sys2Proof.Machine.execCancelLaunch a s
  | .cancelGraph a => Sys2Proof.Machine.execCancelGraph a s
  | .cancelJob a => Sys2Proof.Machine.execCancelJob a s
  | .rent d a b c tier sync => Sys2Proof.Machine.execRent d a b c tier sync s
  | .renew d a b => Sys2Proof.Machine.execRenew d a b s
  | .prepay d a b c => Sys2Proof.Machine.execPrepay d a b c s
  | .sublet d a b c => Sys2Proof.Machine.execSublet d a b c s
  | .vacate d a => Sys2Proof.Machine.execVacate d a s
  | .leaseq d a f => Sys2Proof.Machine.execLeaseq d a f s
  | .purseq d tier f => Sys2Proof.Machine.execPurseq d tier f s
  | .leaseAck core => Sys2Proof.Machine.execLeaseAck core s
  | .xlat h a p => Sys2Proof.Machine.execXlat h a p s
  | .hdrop h => Sys2Proof.Machine.execHdrop h s
  | .hqry d h lo => Sys2Proof.Machine.execHqry d h lo s
  | .trap v => Sys2Proof.Machine.execTrap v s
  | .eret a => Sys2Proof.Machine.execEret a s
  | .trapEntry core => Sys2Proof.Machine.execTrapEntry core s
  | .csrr d csr => Sys2Proof.Machine.execCsrr d csr s
  | .csrw csr a => Sys2Proof.Machine.execCsrw csr a s
  | .dictld e a => Sys2Proof.Machine.execDictld e a s
  | .dictldComplete core eng => Sys2Proof.Machine.execDictldComplete core eng s
  | .instructionRetire core eng n => Sys2Proof.Machine.execInstructionRetire core eng n s
  | .vnop => Sys2Proof.Machine.execVnop s
  | .vadd ty d a b k mode => Sys2Proof.Machine.execVadd ty d a b k mode s
  | .vsub ty d a b k mode => Sys2Proof.Machine.execVsub ty d a b k mode s
  | .vmul ty d a b k mode => Sys2Proof.Machine.execVmul ty d a b k mode s
  | .vfma ty d a b c k mode => Sys2Proof.Machine.execVfma ty d a b c k mode s
  | .vfms ty d a b c k mode => Sys2Proof.Machine.execVfms ty d a b c k mode s
  | .vmin ty d a b k => Sys2Proof.Machine.execVmin ty d a b k s
  | .vmax ty d a b k => Sys2Proof.Machine.execVmax ty d a b k s
  | .vabs ty d a k => Sys2Proof.Machine.execVabs ty d a k s
  | .vneg ty d a k => Sys2Proof.Machine.execVneg ty d a k s
  | .vrcp ty d a k => Sys2Proof.Machine.execVrcp ty d a k s
  | .vrsq ty d a k => Sys2Proof.Machine.execVrsq ty d a k s
  | .vsqrt ty d a k mode => Sys2Proof.Machine.execVsqrt ty d a k mode s
  | .vdiv ty d a b k mode => Sys2Proof.Machine.execVdiv ty d a b k mode s
  | .vexp2 ty d a k => Sys2Proof.Machine.execVexp2 ty d a k s
  | .vlog2 ty d a k => Sys2Proof.Machine.execVlog2 ty d a k s
  | .vtanh ty d a k => Sys2Proof.Machine.execVtanh ty d a k s
  | .viadd d a b k => Sys2Proof.Machine.execViadd d a b k s
  | .visub d a b k => Sys2Proof.Machine.execVisub d a b k s
  | .vimul d a b k => Sys2Proof.Machine.execVimul d a b k s
  | .vand d a b k => Sys2Proof.Machine.execVand d a b k s
  | .vor d a b k => Sys2Proof.Machine.execVor d a b k s
  | .vxor d a b k => Sys2Proof.Machine.execVxor d a b k s
  | .vshl d a b k im n => Sys2Proof.Machine.execVshl d a b k im n s
  | .vshr d a b k im n => Sys2Proof.Machine.execVshr d a b k im n s
  | .vsar d a b k im n => Sys2Proof.Machine.execVsar d a b k im n s
  | .vimin d a b k => Sys2Proof.Machine.execVimin d a b k s
  | .vimax d a b k => Sys2Proof.Machine.execVimax d a b k s
  | .vcmp ty d a b k cc => Sys2Proof.Machine.execVcmp ty d a b k cc s
  | .vsel ty d a b k => Sys2Proof.Machine.execVsel ty d a b k s
  | .vmsk d a b op m => Sys2Proof.Machine.execVmsk d a b op m s
  | .vmpop k => Sys2Proof.Machine.execVmpop k s
  | .vrotr ty d a k n => Sys2Proof.Machine.execVrotr ty d a k n s
  | .vrotc ty d a k n => Sys2Proof.Machine.execVrotc ty d a k n s
  | .vbcr ty d a k n => Sys2Proof.Machine.execVbcr ty d a k n s
  | .vbcc ty d a k n => Sys2Proof.Machine.execVbcc ty d a k n s
  | .vredr ty d a k ax => Sys2Proof.Machine.execVredr ty d a k ax s
  | .vredc ty d a k ax => Sys2Proof.Machine.execVredc ty d a k ax s
  | .vscanr ty d a k ax => Sys2Proof.Machine.execVscanr ty d a k ax s
  | .vscanc ty d a k ax => Sys2Proof.Machine.execVscanc ty d a k ax s
  | .vperm ty d a b k col => Sys2Proof.Machine.execVperm ty d a b k col s
  | .vld ty d t ir k adv rows => Sys2Proof.Machine.execVld ty d t ir k adv rows s
  | .vst ty d t ir k adv rows => Sys2Proof.Machine.execVst ty d t ir k adv rows s
  | .vgath ty d t ir k => Sys2Proof.Machine.execVgath ty d t ir k s
  | .vscat ty d t ir k => Sys2Proof.Machine.execVscat ty d t ir k s
  | .vmap op id ia ib ta tb td => Sys2Proof.Machine.execVmap op id ia ib ta tb td s
  | .vcvt ty d a k dty mode => Sys2Proof.Machine.execVcvt ty d a k dty mode s
  | .vreq d a b k fmt mode nonsat code => Sys2Proof.Machine.execVreq d a b k fmt mode nonsat code s
  | .vamax ty a k => Sys2Proof.Machine.execVamax ty a k s
  | .vrng ty d k unif => Sys2Proof.Machine.execVrng ty d k unif s
  | .vloop l cnt len => Sys2Proof.Machine.execVloop l cnt len s
  | .vloopQ l len => Sys2Proof.Machine.execVloopQ l len s
  | .vtake => Sys2Proof.Machine.execVtake s
  | .vdefer a k n first rows => Sys2Proof.Machine.execVdefer a k n first rows s
  | .vdrain d c k n first rows => Sys2Proof.Machine.execVdrain d c k n first rows s
  | .vmov ty d a k => Sys2Proof.Machine.execVmov ty d a k s
  | .vmovs k d => Sys2Proof.Machine.execVmovs k d s
  | .klds d src => Sys2Proof.Machine.execKlds d src s
  | .ksts d src => Sys2Proof.Machine.execKsts d src s
  | .kemit d fmt mode => Sys2Proof.Machine.execKemit d fmt mode s
  | .kstep => Sys2Proof.Machine.execKstep s
  | .mnop => Sys2Proof.Machine.execMnop s
  | .mnest l q f v => Sys2Proof.Machine.execMnest l q f v s
  | .msrcaRec t cin => Sys2Proof.Machine.execMsrcaRec t cin s
  | .msrcaDim ih iw => Sys2Proof.Machine.execMsrcaDim ih iw s
  | .msrcaRow0 q v => Sys2Proof.Machine.execMsrcaRow0 q v s
  | .msrcbRec t ncol => Sys2Proof.Machine.execMsrcbRec t ncol s
  | .msrcbCol0 q v => Sys2Proof.Machine.execMsrcbCol0 q v s
  | .mdest x => Sys2Proof.Machine.execMdest x s
  | .mfmt first i32 => Sys2Proof.Machine.execMfmt first i32 s
  | .mgo strm => Sys2Proof.Machine.execMgo strm s
  | .mloadb t strm y n => Sys2Proof.Machine.execMloadb t strm y n s
  | .mdrain x t strm i32 chk nonsat mode => Sys2Proof.Machine.execMdrain x t strm i32 chk nonsat mode s
  | .mzero strm mask => Sys2Proof.Machine.execMzero strm mask s
  | .mchkOn strm mask => Sys2Proof.Machine.execMchkOn strm mask s
  | .mchkOff strm mask => Sys2Proof.Machine.execMchkOff strm mask s
  | .mdry c seed strm check => Sys2Proof.Machine.execMdry c seed strm check s
  | .msync => Sys2Proof.Machine.execMsync s
  | .mOperationStart core strm => Sys2Proof.Machine.execMOperationStart core strm s
  | .mStep core => Sys2Proof.Machine.execMStep core s
  | .nestComplete core op => Sys2Proof.Machine.execNestComplete core op s
  | .xnop => Sys2Proof.Machine.execXnop s
  | .xcopy ta tb o nonsat mode ob => Sys2Proof.Machine.execXcopy ta tb o nonsat mode ob s
  | .xred ta tb o r ob => Sys2Proof.Machine.execXred ta tb o r ob s
  | .xgath ta tb o tx ob => Sys2Proof.Machine.execXgath ta tb o tx ob s
  | .xscat ta tb o tx ob => Sys2Proof.Machine.execXscat ta tb o tx ob s
  | .xmcast ta tb o tx ob => Sys2Proof.Machine.execXmcast ta tb o tx ob s
  | .xrload ta tb o tx ob r => Sys2Proof.Machine.execXrload ta tb o tx ob r s
  | .xatom ta tb op sz => Sys2Proof.Machine.execXatom ta tb op sz s
  | .xsig o n => Sys2Proof.Machine.execXsig o n s
  | .xsigF o n => Sys2Proof.Machine.execXsigF o n s
  | .xdecl ta tb => Sys2Proof.Machine.execXdecl ta tb s
  | .xpref ta => Sys2Proof.Machine.execXpref ta s
  | .xcoll ta o ob => Sys2Proof.Machine.execXcoll ta o ob s
  | .xksend ta tb n => Sys2Proof.Machine.execXksend ta tb n s
  | .xkfetch ta tb o ob n => Sys2Proof.Machine.execXkfetch ta tb o ob n s
  | .xkparam tb p => Sys2Proof.Machine.execXkparam tb p s
  | .xinv ta asid => Sys2Proof.Machine.execXinv ta asid s
  | .xdrain => Sys2Proof.Machine.execXdrain s
  | .xwait o v => Sys2Proof.Machine.execXwait o v s
  | .xwaitEnd core => Sys2Proof.Machine.execXwaitEnd core s
  | .xAccept core => Sys2Proof.Machine.execXAccept core s
  | .chunkLand core cmd chunk => Sys2Proof.Machine.execChunkLand core cmd chunk s
  | .xRetire core cmd => Sys2Proof.Machine.execXRetire core cmd s
  | .pktStore p => Sys2Proof.Machine.execPktStore p s
  | .pktLoad p => Sys2Proof.Machine.execPktLoad p s
  | .pktAtom p => Sys2Proof.Machine.execPktAtom p s
  | .pktSignal p => Sys2Proof.Machine.execPktSignal p s
  | .reduceLoad p => Sys2Proof.Machine.execReduceLoad p s
  | .linkDown port => Sys2Proof.Machine.execLinkDown port s
  | .kGrad b => Sys2Proof.Machine.execKGrad b s
  | .kSetup b => Sys2Proof.Machine.execKSetup b s
  | .kPromote b => Sys2Proof.Machine.execKPromote b s
  | .kResume b => Sys2Proof.Machine.execKResume b s
  | .kRetire b => Sys2Proof.Machine.execKRetire b s
  | .kProgram b => Sys2Proof.Machine.execKProgram b s
  | .blockApplication part job group block => Sys2Proof.Machine.execBlockApplication part job group block s
  | .kweights b => Sys2Proof.Machine.execKweights b s
  | .missing part job group step => Sys2Proof.Machine.execMissing part job group step s
  | .keeperRegen part job group block => Sys2Proof.Machine.execKeeperRegen part job group block s
  | .launchComplete launch => Sys2Proof.Machine.execLaunchComplete launch s
  | .sliceEnd core => Sys2Proof.Machine.execSliceEnd core s
  | .idleSliceEnd core => Sys2Proof.Machine.execIdleSliceEnd core s
  | .stall core eng => Sys2Proof.Machine.execStall core eng s
  | .preempt core => Sys2Proof.Machine.execPreempt core s
  | .escrowRenewal lease => Sys2Proof.Machine.execEscrowRenewal lease s
  | .arrears lease => Sys2Proof.Machine.execArrears lease s
  | .lapse lease => Sys2Proof.Machine.execLapse lease s
  | .reclaim lease => Sys2Proof.Machine.execReclaim lease s
  | .overdraft lease => Sys2Proof.Machine.execOverdraft lease s
  | .seatBilling tick => Sys2Proof.Machine.execSeatBilling tick s
  | .scrubComplete lease => Sys2Proof.Machine.execScrubComplete lease s
  | .partShrink fn part quads => Sys2Proof.Machine.execPartShrink fn part quads s
  | .partDestroy fn part => Sys2Proof.Machine.execPartDestroy fn part s
  | .jobRetire fn part job => Sys2Proof.Machine.execJobRetire fn part job s
  | .freezeEnd core => Sys2Proof.Machine.execFreezeEnd core s
  | .droopStepDown die => Sys2Proof.Machine.execDroopStepDown die s
  | .graphPost part line bytes => Sys2Proof.Machine.execGraphPost part line bytes s
  | .partCreate fn part entry => Sys2Proof.Machine.execPartCreate fn part entry s
  | .partGrow fn part quads => Sys2Proof.Machine.execPartGrow fn part quads s
  | .jobCreate fn part job entry => Sys2Proof.Machine.execJobCreate fn part job entry s
  | .rateSet fn part rates => Sys2Proof.Machine.execRateSet fn part rates s
  | .purseCredit fn part job n => Sys2Proof.Machine.execPurseCredit fn part job n s
  | .coreClear fn core => Sys2Proof.Machine.execCoreClear fn core s
  | .captureSet fn part job va len => Sys2Proof.Machine.execCaptureSet fn part job va len s
  | .replaySet fn part job va len => Sys2Proof.Machine.execReplaySet fn part job va len s
  | .telemRead fn die => Sys2Proof.Machine.execTelemRead fn die s
  | .getMeasurements fn idxs => Sys2Proof.Machine.execGetMeasurements fn idxs s
  | .getFwInfo fn => Sys2Proof.Machine.execGetFwInfo fn s
  | .transferFw fn slot image last => Sys2Proof.Machine.execTransferFw fn slot image last s
  | .activateFw fn slot => Sys2Proof.Machine.execActivateFw fn slot s
  | .powerLimit watts => Sys2Proof.Machine.execPowerLimit watts s
  | .packageReset mgmt sigOk hbmOk cxlOk downPorts => Sys2Proof.Machine.execPackageReset mgmt sigOk hbmOk cxlOk downPorts s
  | .registerWrite part off val => Sys2Proof.Machine.execRegisterWrite part off val s
  | .correctable core n => Sys2Proof.Machine.execCorrectable core n s
  | .uncorrectableError key => Sys2Proof.Machine.execUncorrectableError key s
  | .thermalThrottle tj watts => Sys2Proof.Machine.execThermalThrottle tj watts s
  | .throttleExit ticksCool => Sys2Proof.Machine.execThrottleExit ticksCool s
  | .droopDetect die => Sys2Proof.Machine.execDroopDetect die s
  | .hostCxlMemWrite addr bytes => Sys2Proof.Machine.execHostCxlMemWrite addr bytes s
  | .flitCrcError port => Sys2Proof.Machine.execFlitCrcError port s
  | .mcastStore p => Sys2Proof.Machine.execMcastStore p s
  | .peerLost chip => Sys2Proof.Machine.execPeerLost chip s
  | .collectiveEmit rec => Sys2Proof.Machine.execCollectiveEmit rec s
  | .collectiveApply rec => Sys2Proof.Machine.execCollectiveApply rec s
  | .collectiveComplete rec => Sys2Proof.Machine.execCollectiveComplete rec s
  | .fetchServe fetch block => Sys2Proof.Machine.execFetchServe fetch block s
  | .xlatWalkEnd core h => Sys2Proof.Machine.execXlatWalkEnd core h s
  | .xinvAck core cmd => Sys2Proof.Machine.execXinvAck core cmd s
  | .vacateComplete lease => Sys2Proof.Machine.execVacateComplete lease s
  | .barGenerationComplete launch id => Sys2Proof.Machine.execBarGenerationComplete launch id s
  | .contextSave core => Sys2Proof.Machine.execContextSave core s
  | .unitPlace core => Sys2Proof.Machine.execUnitPlace core s
  | .restore core => Sys2Proof.Machine.execRestore core s
  | .chunkStart core cmd => Sys2Proof.Machine.execChunkStart core cmd s

end Sys2Proof.Machine
end

