-- ==== Sys2Proof/Machine/Replay.lean ====
section
/-! DEFINITION. Replay of a job from its log (R382). -/

namespace Sys2Proof.Machine

/-- The entry of a log at an offset: its header, its payload and the payload's poisoned granules; none where the log ends, or lies under no open lease (log 57, log 103). -/
def logEntry (s : State) (c : Capture) (pos : Nat) : Option (BitVec 512 × List Byte × List Nat) :=
  if c.len < pos + 64 then none
  else
    match openPieces s c.part c.job (c.va + pos) 64 true false with
    | none => none
    | some hp =>
      let h := BitVec.ofNat 512 (ofBytes (s.pieceBytes hp))
      let n := 64 * bits h 358 8
      if h = 0 || c.len < pos + 64 + n then none
      else (openPieces s c.part c.job (c.va + pos + 64) n true false).map (fun ps => (h, s.pieceBytes ps, pieceHot s ps))

/-- TICK of a log header. -/
def logTick (h : BitVec 512) : Nat := bits h 418 48

/-- A logged packet as the I/O die delivers it: to this package and to the job that runs from the log. -/
def logPacket (p j : Nat) (body : List Byte) : BitVec 512 :=
  let h := BitVec.ofNat 512 (ofBytes (body.take 64))
  let h := putBits h 436 16 (jobIx p j)
  if pkType h = 4 || pkType h = 5 then h else putBits h 484 12 Config.chip

/-- What a logged packet does. -/
def logAct (h : BitVec 512) (rest : List Byte) (poison : List Nat) (s : State) : Out :=
  let k : KBlock := ⟨h, BitVec.ofNat 256 (ofBytes (rest.take 64)), rest.drop 64, (poison.filter (1 ≤ ·)).map (· - 1)⟩
  match pkType h with
  | 0 => execPktStore ⟨h, rest, poison⟩ s
  | 1 => execPktLoad ⟨h, rest, poison⟩ s
  | 2 => execPktAtom ⟨h, rest, poison⟩ s
  | 3 => execPktSignal ⟨h, rest, poison⟩ s
  -- a log holds a copy of an `MCAST_STORE` as it was delivered, without its list
  | 4 => execPktStore ⟨putBits h 484 12 Config.chip, rest, poison⟩ s
  | 5 => execReduceLoad ⟨h, rest, poison⟩ s
  | 7 => execKweights k s
  | _ =>
    if pkConsts h then execPktStore ⟨h, rest, poison⟩ s
    else match bits k.kh 252 4 with
      | 0 => execKGrad k s
      | 1 => execKSetup k s
      | 2 => execKPromote k s
      | 3 => execKResume k s
      | 4 => execKRetire k s
      | _ => execKProgram k s

/-- What is left of the delivery of a logged packet `h` from `s`: its effects, but for captures, numbers and what it sends. -/
def State.replayed (s : State) (h : BitVec 512) : Out → Option State
  | .next t =>
    if pkType h = 6 && !pkConsts h && (t.peer (pkSrc h)).expect == pkSeq h then none
    else some { t with captures := s.captures, peers := s.peers, outbox := s.outbox }
  | _ => some s

/-- A logged packet is delivered with its number; nothing that it makes the job send leaves the port. `none`: the keeper does not take it yet. -/
def State.replayPacket (s : State) (p j : Nat) (body : List Byte) (poison : List Nat) : Option State :=
  let h := logPacket p j body
  let here (c : Capture) : Bool := c.part == p && c.job == j && c.replay
  let q := s.peer (pkSrc h)
  let open_ : State := State.setPeer { s with captures := s.captures.filter (fun c => !here c) } { q with expect := pkSeq h, held := [] }
  s.replayed h (logAct h (body.drop 64) ((poison.filter (1 ≤ ·)).map (· - 1)) open_)

/-- A logged host input (R381): a post, a write, or a line that X read from a host target. -/
def State.replayHost (s : State) (p typ addr : Nat) (body : List Byte) : State :=
  match typ with
  | 0 => s.postGraph p body
  | 1 => s.writeHome addr body
  | _ => s.writeMem (keyAt 2 0 addr) body

/-- A logged key (R381): of a core, or of a keeper group. -/
def State.replayKey (s : State) (p j typ n : Nat) (key : W64) : State :=
  if typ = 0 then
    if n < 2048 && (s.core n).seat.unit.isSome && s.jobOf n = (p, j) then s.modCore n (fun c => { c with csr := { c.csr with srkey := key } }) else s
  else s.modGroup p j n (fun g => { g with setup := putBits g.setup 282 64 key.toNat })

/-- The next entry of a job's log is delivered if it is due: as long after the replay's start as it was after the log's first entry (log 57). -/
def State.replayOne (s : State) (p j : Nat) : State :=
  match s.captures.find? (fun c => c.part == p && c.job == j && c.replay) with
  | none => s
  | some c =>
    match logEntry s c c.pos, logEntry s c 0 with
    | some (h, body, hot), some (h0, _, _) =>
      if s.tick < c.since + (logTick h - logTick h0) then s
      else
        let addr := bits h 366 52
        let typ := bits h 354 4
        let done : Option State := match bits h 510 2 with
          | 0 => some (s.replayHost p typ addr body)
          | 1 => s.replayPacket p j body hot
          | _ => some (s.replayKey p j typ addr (sub h 290 64))
        match done with
        | none => s
        | some t =>
          let n := 64 + 64 * bits h 358 8
          { t with
            captures := t.captures.map (fun d => if d.part = p && d.job = j && d.replay then { d with pos := c.pos + n } else d)
            agenda := t.agenda ++ [.replay p j] }
    | _, _ => s

end Sys2Proof.Machine
end

