-- ==== Sys2Proof/Machine/Step.lean ====
section
/-! DEFINITION. One step of the package: what must happen now, else the next turn of the script, else a turn that nothing fixes (log 1). -/

namespace Sys2Proof

/-- Who acts next where nothing fixes it: a free value for each value of the counter (log 1). -/
opaque Config.turn : Nat → Machine.Turn

namespace Machine

/-- An issue turn. -/
def runReady (r : Ready) (s : State) : Out :=
  match r with
  | .idle => .next s
  | .stop s' => .next s'
  | .run s' i => exec i s'

/-- One turn. `must`: it comes from the agenda, so any event may stand in it. -/
def turn (must : Bool) (t : Turn) (s : State) : Out :=
  match t with
  | .issue core e => runReady (ready s core e) s
  | .issueKeeper u => runReady (readyKeeper s u) s
  | .occur i => if !i.isWord && (must || (spontaneous i && !s.eventFrozen i)) then exec i s else .next s
  | .acTick d => .next (s.acTurn d)
  | .acCount d => .next (if must then s.acStep d else s)
  | .tick => .next (if s.tickMay then s.tickEnd else s)
  | .tickStart => .next (if must then s.tickBegin else s)
  | .ack chip n => .next (s.acknowledged chip n).reducesDone
  | .nack chip seq c => .next (s.nacked chip seq c)
  | .hdmWindow base len => .next (s.setHdm base len)
  | .replay p j => .next (if must then s.replayOne p j else s)
  | .tlbFill agent p j va => .next (s.fillTlb agent p j va)
  | .tlbDrop n => .next { s with tlbs := s.tlbs.eraseIdx n }
  | .hyperInv asid base len => .next (s.hyperInvalidate asid base len)
  | .hyperAck n => .next (s.hyperAck n)
  | .hyperCancel p j w => .next (s.hyperCancel p j w)
  | .outside k bs => .next (s.outsideWrite k bs)

/-- One step. -/
def step (s : State) : Host.Outcome State Fault Refusal :=
  match s.agenda with
  | t :: rest => turn true t { s with agenda := rest }
  | [] =>
    match s.script with
    | t :: rest => turn false t { s with script := rest }
    | [] => turn false (Config.turn s.fresh) { s with fresh := s.fresh + 1 }

/-- The launch, graph and unit under which a word is placed. -/
def State.withUnit (s : State) : State :=
  let g : Graph := ⟨0, 1, BitVec.ofNat 512 (2 ^ 464), 0, false, false⟩
  let l : Launch := ⟨1, 0, 0, 0, 0, false, false, 0, 0, [], [], []⟩
  let u : Unit_ := ⟨1, 0, .resident, 0, none, none, 0, 0, 4⟩
  { s with graphs := [g], launches := [l], units := [u] }

/-- The state in which the next step issues the word `w` as the first of a unit on core 0: the unit is placed there with an image region of 4 granules at SPM 0 under an open lease, the word stands at word offset 8 with words of zeros after it, the stream of the engine that bits [71:64] select runs at it, and its turn is next. An update program's word stands in a program of one word on update unit 0. Log 2 says how a program comes to run from reset. -/
def State.withFetchWord (s : State) (nbits w : Nat) : State :=
  let sel := if nbits ≤ 64 then 0 else w / 2 ^ 64 % 256
  let wd := BitVec.ofNat 64 (ofBytes (toBytes 8 w))
  let s := s.withUnit
  let ls : Lease := { (default : Lease) with
    state := .open_, tier := 1, part := 1, job := 1, base := 0, len := 256, paid := s.tick + 1000, ranges := [(keySpm 0 0, 256)] }
  let s := (s.setLease 1 ls).writeMem (keySpm 0 64) (toBytes 8 wd.toNat)
  if sel = 4 then
    let a : App := { (default : App) with unit := 0, part := 1, job := 1, prog := [wd], loops := [.zero, .zero, .zero, .zero] }
    { s with keeper := { s.keeper with apps := [a] }, agenda := [], script := [.issueKeeper 0] }
  else
    let e := engineOf sel
    let c := s.core 0
    let st : Stream := { Stream.zero with pc := 8, stop := 16, run := .running }
    let c := { c.setStream e st with seat := { c.seat with unit := some (1, 0) } }
    { s.setCore 0 c with agenda := [], script := [.issue 0 e] }

end Machine

end Sys2Proof
end

