-- ==== Sys2Proof/Safety.lean ====
section
/-! DEFINITION. What counts as a safe run, and the terms that the claims use. -/

namespace Sys2Proof.Machine

/-- The outcome is a next state. -/
def ends (o : Out) : Prop := ∃ t, o = .next t

/-- Memory is in its canonical form. -/
def State.memOk (s : State) : Prop := s.mem.wf = true

/-- Every byte of storage reads as before. -/
def sameMem (s t : State) : Prop := ∀ k, memByte t.mem k = memByte s.mem k

/-- Every byte outside `n` bytes from `k` on reads as before. -/
def sameMemBut (s t : State) (k n : Nat) : Prop := ∀ a, a < k ∨ k + n ≤ a → memByte t.mem a = memByte s.mem a

end Sys2Proof.Machine

namespace Sys2Proof.Claim

open Machine

/-! ## A word that issues -/

/-- The core whose word issues. -/
def here (s : State) : Core := s.core s.cur.core

/-- The time on the clock of its die. -/
def now (s : State) : Nat := s.acOf s.cur.core

/-- Tokens that a WAIT clause asks of a producer (R58). -/
def asked (f : Frame) (p : Engine) : Nat :=
  match f.wait with
  | some (q, n) => if p = q then n else 0
  | none => 0

/-- Nothing holds the word of C under the cursor: its tokens are there (R60), and the dowels that it signals have room for 16 (R307). -/
structure ReadyC (s : State) : Prop where
  eng : s.cur.eng = .c
  core : s.cur.unit = none
  tokens : ∀ p, asked s.cur.frame p ≤ (here s).dowelN p .c
  room : ∀ q, s.cur.frame.signal.toNat.testBit q.num = true → (here s).dowelN .c q + (here s).pending .c q < 16

/-- Nothing holds the word of V under the cursor: it stands on a core, its tokens are there, the dowels that it signals have room for 64 (R17), and `pops` entries of CQV may be popped (R95). -/
structure ReadyV (s : State) (pops : Nat) : Prop where
  eng : s.cur.eng = .v
  core : s.cur.unit = none
  tokens : ∀ p, asked s.cur.frame p ≤ (here s).dowelN p .v
  room : ∀ q, s.cur.frame.signal.toNat.testBit q.num = true → (here s).dowelN .v q + (here s).pending .v q < 64
  queue : pops ≤ (here s).cqv.length ∧ ∀ q ∈ (here s).cqv.take pops, q.1 ≤ now s

/-- Nothing holds the word of M under the cursor (R168, R171): its tokens are there, the dowels that it signals have room for 16, and `pops` entries of CQM may be popped. -/
structure ReadyM (s : State) (pops : Nat) : Prop where
  eng : s.cur.eng = .m
  core : s.cur.unit = none
  tokens : ∀ p, asked s.cur.frame p ≤ (here s).dowelN p .m
  room : ∀ q, s.cur.frame.signal.toNat.testBit q.num = true → (here s).dowelN .m q + (here s).pending .m q < 16
  queue : pops ≤ (here s).cqm.length ∧ ∀ q ∈ (here s).cqm.take pops, q.1 ≤ now s

/-- Nothing holds the command word of X under the cursor (R190): its tokens are there, fewer than 16 commands are outstanding, and no abandoned attempt is left to match (R372). -/
structure ReadyX (s : State) : Prop where
  eng : s.cur.eng = .x
  core : s.cur.unit = none
  tokens : ∀ p, asked s.cur.frame p ≤ (here s).dowelN p .x
  room : (here s).xcmds.length < 16
  fresh : (here s).copy.replay = []

/-- The loop test of R89 applies: not to C while its handler runs (R99). -/
def tests (s : State) : Bool := s.cur.eng != .c || !(here s).inh

/-- The second ac of an `IMMX` pair (R81). -/
def late (s : State) : Nat := if s.cur.ext.isSome then 1 else 0

/-- What every word does beside its own effect, once it issues (R44, R60, R64, R81, R89, R243). `u` is the state before it with the word's own writes at issue; `t` is the state after it. The next word may issue `occ` ac later; the word retires `lat` ac later, and writes `effs` then; `target` is a redirect. Nothing else differs. -/
structure Issued (u t : State) (occ lat : Nat) (target : Option Nat) (effs : List Effect) : Prop where
  rest : t = { u with cores := t.cores, timers := t.timers, agenda := t.agenda }
  cores : ∀ n, n ≠ u.cur.core → t.core n = u.core n
  core : here t = { here u with
    c := (here t).c, v := (here t).v, m := (here t).m, x := (here t).x
    dowel := (here t).dowel
    flights := (here u).flights ++ [⟨(here u).nextId, u.cur.eng, u.cur.frame.signal, effs, false, true⟩]
    nextId := (here u).nextId + 1 }
  streams : ∀ e, e ≠ u.cur.eng → (here t).stream e = (here u).stream e
  flow : (here t).stream u.cur.eng =
    { ((here u).stream u.cur.eng).next u.cur (tests u) target with nextAc := now u + late u + occ, wait := .idle, heldFrom := none, broken := none }
  tokens : ∀ p q, (here t).dowelN p q = (here u).dowelN p q - (if q = u.cur.eng then asked u.cur.frame p else 0)
  retire : if lat + late u = 0
    then t.agenda = u.agenda ++ [.occur (.instructionRetire u.cur.core u.cur.eng (here u).nextId)] ∧ t.timers = u.timers
    else t.agenda = u.agenda ∧ t.timers = u.timers ++
      [⟨.ac (dieOf u.cur.core), now u + (lat + late u), some u.cur.core, .instructionRetire u.cur.core u.cur.eng (here u).nextId⟩]

/-- The word's own writes at issue are those of its core alone: it becomes `c`. -/
def with_ (s : State) (c : Core) : State := s.setCore s.cur.core c

/-- `Sd` takes `v`, for readers `lat` ac after `a` (R81, R82); a write of `S0` is discarded. Nothing else of the core differs. -/
structure WritesS (c c' : Core) (d : Nat) (v : W64) (a lat : Nat) : Prop where
  rest : c' = { c with regs := { c.regs with s := c'.regs.s, due := c'.regs.due } }
  reads : ∀ m, c'.S m = if m = d ∧ m ≠ 0 then v else c.S m
  board : ∀ m t, c'.readable [m] t = if m = d ∧ m ≠ 0 then decide (lat ≤ 1 ∨ a + lat ≤ t) else c.readable [m] t

/-- Tensor record `Tn` takes `v`, for readers of C `lat` ac after `a` (R80, R81), and nothing else of the core differs. -/
structure WritesT (c c' : Core) (n : Nat) (v : BitVec 256) (a lat : Nat) : Prop where
  rest : c' = { c with regs := { c.regs with t := c'.regs.t, due := c'.regs.due } }
  reads : ∀ m, c'.T m = if m = n then v else c.T m
  board : ∀ m t, c'.readable [m] t = (c.readable [m] t && (m != keyT n || decide (lat ≤ 1 ∨ a + lat ≤ t)))

/-- Iterator record `In` takes `v`, for readers of C `lat` ac after `a` (R80, R81), and nothing else of the core differs. -/
structure WritesI (c c' : Core) (n : Nat) (v : BitVec 128) (a lat : Nat) : Prop where
  rest : c' = { c with regs := { c.regs with i := c'.regs.i, due := c'.regs.due } }
  reads : ∀ m, c'.I m = if m = n then v else c.I m
  board : ∀ m t, c'.readable [m] t = (c.readable [m] t && (m != keyI n || decide (lat ≤ 1 ∨ a + lat ≤ t)))

/-- COND and CREC of steer register `Gg` are written together (R19): bit 3 and bits [2:0]; nothing else of the core differs. -/
structure WritesCond (c c' : Core) (g : Nat) (cond : Bool) (crec : Nat) : Prop where
  rest : c' = { c with regs := { c.regs with g := c'.regs.g } }
  others : ∀ m, m ≠ g → c'.G m = c.G m
  value : (c'.G g).toNat = (c.G g).toNat / 16 * 16 + cond.toNat * 8 + crec

/-- TARGET of `Gg` is written, with TV 1 (R19): bits [21:5] and bit 4; the time of the `PREP` is noted (R88). Nothing else of the core differs. -/
structure WritesTarget (c c' : Core) (g target a : Nat) : Prop where
  rest : c' = { c with regs := { c.regs with g := c'.regs.g, prepAc := c'.regs.prepAc } }
  others : ∀ m, m ≠ g → c'.G m = c.G m
  value : (c'.G g).toNat = (c.G g).toNat / 2 ^ 22 * 2 ^ 22 + target * 32 + 16 + (c.G g).toNat % 16
  time : ∀ m, spGet 0 c'.regs.prepAc m = if m = g then a else spGet 0 c.regs.prepAc m

/-- C's loop register `Ll` becomes `x`, and nothing else of the core differs. -/
structure WritesL (c c' : Core) (l : Nat) (x : Loop) : Prop where
  rest : c' = { c with c := { c.c with loops := c'.c.loops } }
  reads : ∀ m, m < 4 → c'.c.loops.getD m .zero = if m = l then x else c.c.loops.getD m .zero

/-- The event ring of partition `p` has one more record, with this code, PC and engine (R378), or has dropped one (R380); the other rings are as before. -/
def Recorded (s t : State) (p code pc eng : Nat) : Prop :=
  (∀ q, q ≠ p → t.ring q = s.ring q) ∧
  if (s.ring p).written - (s.ring p).read = 4096 then (t.ring p).dropped = (s.ring p).dropped + 1 ∧ (t.ring p).written = (s.ring p).written
  else (t.ring p).written = (s.ring p).written + 1 ∧
    (let r := spGet 0 (t.ring p).recs ((s.ring p).written % 4096)
     bits r 496 16 = code ∧ bits r 475 17 = pc ∧ bits r 494 2 = eng)

/-- What a record written for a reader may touch beside a ring: storage where the reader's inbox lies, and the waits that it ends. -/
def sameButInbox (s t : State) : Prop :=
  t = { s with mem := t.mem, poison := t.poison, stores := t.stores, rings := t.rings, timers := t.timers }

/-- A fault of C (R83, R61): its stream freezes where it is, the core is otherwise as before, and the partition's event ring has one more record, or has dropped one. The record names the cause and the word (R378). No other core, lease, purse or record register differs; memory differs only where the supervisor unit's inbox lies. -/
structure StoppedC (s t : State) (cause : Cause) : Prop where
  rest : t = { s with cores := t.cores, mem := t.mem, poison := t.poison, stores := t.stores, rings := t.rings, timers := t.timers }
  cores : ∀ n, n ≠ s.cur.core → t.core n = s.core n
  core : here t = { here s with c := { (here s).c with run := .frozen } }
  ring : Recorded s t (s.jobOf s.cur.core).1 cause.code (s.cur.pc % 2 ^ 17) 0
  inbox : s.superOf s.cur.core = none → t.mem = s.mem ∧ t.poison = s.poison ∧ t.stores = s.stores ∧ t.timers = s.timers

end Sys2Proof.Claim
end

