-- ==== Sys2Proof/Certificates/Slice0/Obligations.lean ====
section
/-! DEFINITION. The statements for the provers, family by family; each docstring names the rules that its statement says. -/

open Sys2Proof Sys2Proof.Machine

namespace Sys2Proof

namespace Claim

/-! ## C: arithmetic (R84, R85, R65) -/

/-- Signed minimum and maximum of R84. -/
def least (x y : W64) : W64 := if x.toInt ≤ y.toInt then x else y
/-- See `least`. -/
def greatest (x y : W64) : W64 := if x.toInt ≤ y.toInt then y else x

/-- R84's instructions of one result: destination, latency, value. -/
def scalar (i : Instr) (c : Core) : Option (Nat × Nat × W64) :=
  match i with
  | .add d a b => some (d.toNat, 1, c.S a.toNat + c.S b.toNat)
  | .sub d a b => some (d.toNat, 1, c.S a.toNat - c.S b.toNat)
  | .mul d a b => some (d.toNat, 4, c.S a.toNat * c.S b.toNat)
  | .mulh d a b => some (d.toNat, 4, BitVec.ofInt 64 ((c.S a.toNat).toInt * (c.S b.toNat).toInt / 2 ^ 64))
  | .mulhu d a b => some (d.toNat, 4, BitVec.ofNat 64 ((c.S a.toNat).toNat * (c.S b.toNat).toNat / 2 ^ 64))
  | .divu d a b => some (d.toNat, 34, if (c.S b.toNat).toNat = 0 then BitVec.ofNat 64 (2 ^ 64 - 1) else BitVec.ofNat 64 ((c.S a.toNat).toNat / (c.S b.toNat).toNat))
  | .remu d a b => some (d.toNat, 34, BitVec.ofNat 64 ((c.S a.toNat).toNat % (c.S b.toNat).toNat))
  | .and d a b => some (d.toNat, 1, c.S a.toNat &&& c.S b.toNat)
  | .or d a b => some (d.toNat, 1, c.S a.toNat ||| c.S b.toNat)
  | .xor d a b => some (d.toNat, 1, c.S a.toNat ^^^ c.S b.toNat)
  | .andn d a b => some (d.toNat, 1, c.S a.toNat &&& ~~~c.S b.toNat)
  | .shl d a b => some (d.toNat, 1, c.S a.toNat <<< ((c.S b.toNat).toNat % 64))
  | .shr d a b => some (d.toNat, 1, c.S a.toNat >>> ((c.S b.toNat).toNat % 64))
  | .sar d a b => some (d.toNat, 1, (c.S a.toNat).sshiftRight ((c.S b.toNat).toNat % 64))
  | .rotl d a b => some (d.toNat, 1, (c.S a.toNat).rotateLeft ((c.S b.toNat).toNat % 64))
  | .min d a b => some (d.toNat, 1, least (c.S a.toNat) (c.S b.toNat))
  | .max d a b => some (d.toNat, 1, greatest (c.S a.toNat) (c.S b.toNat))
  | .minu d a b => some (d.toNat, 1, BitVec.ofNat 64 (Nat.min (c.S a.toNat).toNat (c.S b.toNat).toNat))
  | .maxu d a b => some (d.toNat, 1, BitVec.ofNat 64 (Nat.max (c.S a.toNat).toNat (c.S b.toNat).toNat))
  | .clz d a => some (d.toNat, 1, BitVec.ofNat 64 (if (c.S a.toNat).toNat = 0 then 64 else 63 - (c.S a.toNat).toNat.log2))
  | .popc d a => some (d.toNat, 1, BitVec.ofNat 64 ((List.range 64).filter (fun n => (c.S a.toNat).getLsbD n)).length)
  | _ => none

/-- The 128-bit value of a register pair (R84). -/
def pairOf (c : Core) (n : Nat) : Nat := (c.S (n + 1)).toNat * 2 ^ 64 + (c.S n).toNat

/-- The immediate of R85: 64 bits under `IMMX`, else 30 bits, extended. -/
def immediate (ext : Option (BitVec 40)) (signed : Bool) (imm : BitVec 30) : W64 :=
  match ext with
  | some hi => BitVec.ofNat 64 (hi.toNat * 2 ^ 24 + imm.toNat % 2 ^ 24)
  | none => if signed then imm.signExtend 64 else imm.setWidth 64

/-- R85's instructions: destination and value; none for a shift amount above 63. -/
def immediateOp (i : Instr) (ext : Option (BitVec 40)) (c : Core) : Option (Nat × W64) :=
  match i with
  | .addi d a imm => some (d.toNat, c.S a.toNat + immediate ext true imm)
  | .andi d a imm => some (d.toNat, c.S a.toNat &&& immediate ext false imm)
  | .ori d a imm => some (d.toNat, c.S a.toNat ||| immediate ext false imm)
  | .xori d a imm => some (d.toNat, c.S a.toNat ^^^ immediate ext false imm)
  | .shli d a imm => let n := (immediate ext false imm).toNat; if n ≤ 63 then some (d.toNat, c.S a.toNat <<< n) else none
  | .shri d a imm => let n := (immediate ext false imm).toNat; if n ≤ 63 then some (d.toNat, c.S a.toNat >>> n) else none
  | .sari d a imm => let n := (immediate ext false imm).toNat; if n ≤ 63 then some (d.toNat, (c.S a.toNat).sshiftRight n) else none
  | .movi d imm => some (d.toNat, immediate ext true imm)
  | _ => none

/-- The cursor on the CI word of an `IMMX` pair: the pair's offset, the CI word's clauses (R65). -/
def pairCursor (q : Cursor) (f : Frame) (w : W64) (hi : BitVec 40) : Cursor := { q with frame := f, word := w, ext := some hi }

end Claim

/-- R84, R82: register arithmetic of C, for every S register that is read or written. -/
def Claim.sayScalarArithmetic : Prop :=
  (∀ (i : Instr) (s : State) (d lat : Nat) (v : W64), Claim.scalar i (Claim.here s) = some (d, lat, v) → Claim.ReadyC s →
    ∃ c t, exec i s = .next t ∧ Claim.WritesS (Claim.here s) c d v (Claim.now s) lat ∧ Claim.Issued (Claim.with_ s c) t 1 lat none []) ∧
  (∀ s : State, Claim.ReadyC s → ∃ t, exec .nop s = .next t ∧ Claim.Issued s t 1 1 none [])

/-- R84: `ADDP` adds two register pairs modulo 2^128. -/
def Claim.sayPairAddition : Prop :=
  ∀ (d a b : BitVec 5) (s : State), Claim.ReadyC s →
    ∃ c c' t, exec (.addp d a b) s = .next t ∧
      (let z := (Claim.pairOf (Claim.here s) a.toNat + Claim.pairOf (Claim.here s) b.toNat) % 2 ^ 128
      Claim.WritesS (Claim.here s) c d.toNat (BitVec.ofNat 64 (z % 2 ^ 64)) (Claim.now s) 2 ∧
      Claim.WritesS c c' (d.toNat + 1) (BitVec.ofNat 64 (z / 2 ^ 64)) (Claim.now s) 2) ∧
      Claim.Issued (Claim.with_ s c') t 1 2 none []

/-- R85: the immediate instructions, alone or as the second word of a pair. -/
def Claim.sayImmediates : Prop :=
  ∀ (i : Instr) (s : State) (d : Nat) (v : W64), Claim.immediateOp i s.cur.ext (Claim.here s) = some (d, v) → Claim.ReadyC s →
    ∃ c t, exec i s = .next t ∧ Claim.WritesS (Claim.here s) c d v (Claim.now s) 1 ∧ Claim.Issued (Claim.with_ s c) t 1 1 none []

/-- R65: an `IMMX` word and the CI word after it act as one instruction, with the 64-bit immediate, under the CI word's clauses. -/
def Claim.sayImmxPair : Prop :=
  ∀ (hi : BitVec 40) (s : State) (w : W64) (f : Frame) (i : Instr) (d : Nat) (v : W64),
    (∀ l ∈ (Claim.here s).c.loops, l.act = true → l.stop.toNat ≠ s.cur.pc) → s.cur.pc + 1 ≠ (Claim.here s).c.stop.toNat →
    fetchWord s s.cur.core (s.cur.pc + 1) = .ok w →
    w.toNat / 2 ^ 56 ≠ 0x7E → 0x20 ≤ w.toNat / 2 ^ 40 % 256 → w.toNat / 2 ^ 40 % 256 ≤ 0x27 → w.toNat / 2 ^ 24 % 64 = 0 →
    decodeWord false .c w = .ok f i → (Claim.here s).readable (sReads i) (Claim.now s) = true →
    Claim.immediateOp i (some hi) (Claim.here s) = some (d, v) →
    Claim.ReadyC { s with cur := Claim.pairCursor s.cur f w hi } →
    ∃ c t, exec (.immx hi) s = .next t ∧ Claim.WritesS (Claim.here s) c d v (Claim.now s) 1 ∧
      Claim.Issued (Claim.with_ { s with cur := Claim.pairCursor s.cur f w hi } c) t 1 1 none []

end Sys2Proof

/-- R84, R85, R65: the register and immediate instructions of C. -/
def Obligations.ScalarArithmetic : Prop :=
  Claim.sayScalarArithmetic ∧
  Claim.sayPairAddition ∧
  Claim.sayImmediates ∧
  Claim.sayImmxPair

namespace Sys2Proof

namespace Claim

/-! ## C: steering, loops and flow (R87 to R89) -/

/-- The comparisons of R87. -/
def holds (cc : Nat) (x y : W64) : Bool :=
  match cc with
  | 0 => decide (x = y)
  | 1 => decide (x ≠ y)
  | 2 => decide (x.toInt < y.toInt)
  | 3 => decide (x.toNat < y.toNat)
  | 4 => decide (y.toInt ≤ x.toInt)
  | _ => decide (y.toNat ≤ x.toNat)

/-- The conditions of R87: steer register, COND, CREC; none for a cc that R86 does not list. -/
def steer (i : Instr) (c : Core) : Option (Nat × Bool × Nat) :=
  match i with
  | .cmp g cc a b => if cc.toNat ≤ 5 then some (g.toNat, holds cc.toNat (c.S a.toNat) (c.S b.toNat), cc.toNat) else none
  | .cmpi g cc a imm => if cc.toNat ≤ 5 then some (g.toNat, holds cc.toNat (c.S a.toNat) (imm.signExtend 64), cc.toNat) else none
  | .gset g a => some (g.toNat, decide (c.S a.toNat ≠ 0), 7)
  | .gcomb g cc h j =>
    let x := (c.G h.toNat).getLsbD 3
    let y := (c.G j.toNat).getLsbD 3
    match cc.toNat with
    | 0 => some (g.toNat, x && y, 7)
    | 1 => some (g.toNat, x || y, 7)
    | 2 => some (g.toNat, x ^^ y, 7)
    | 3 => some (g.toNat, x && !y, 7)
    | _ => none
  | _ => none

/-- TARGET of a steer register (R19). -/
def target (c : Core) (g : Nat) : Nat := (c.G g).toNat / 32 % 2 ^ 17

/-- A branch under cc is taken (R87). -/
def takes (c : Core) (g : Nat) (cc : BitVec 4) : Bool := cc.toNat == 2 || (c.G g).getLsbD 3 == (cc.toNat == 0)

/-- A branch may issue (R87, R88, R74): its TARGET has been set; a taken one goes into the image, 4 ac or more after the `PREP`. -/
structure MayBranch (s : State) (g : Nat) (cc : BitVec 4) : Prop where
  set : ((here s).G g).getLsbD 4 = true
  inside : takes (here s) g cc = true → 8 ≤ target (here s) g ∧ target (here s) g < 8 * s.imgLen s.cur.core
  time : takes (here s) g cc = true → spGet 0 (here s).regs.prepAc g + 4 ≤ now s

/-- Loop `l` of C ends at word offset `p` (R89). -/
def endsAt (st : Stream) (l p : Nat) : Prop := (st.loops.getD l .zero).act = true ∧ (st.loops.getD l .zero).stop.toNat = p

end Claim

/-- R87: a comparison writes COND and CREC of one steer register. -/
def Claim.saySteerConditions : Prop :=
  ∀ (i : Instr) (s : State) (g : Nat) (cond : Bool) (crec : Nat), Claim.steer i (Claim.here s) = some (g, cond, crec) → Claim.ReadyC s →
    ∃ c t, exec i s = .next t ∧ Claim.WritesCond (Claim.here s) c g cond crec ∧ Claim.Issued (Claim.with_ s c) t 1 1 none []

/-- R87, R88: `PREP` writes TARGET and TV, from the word or from a register. -/
def Claim.saySteerTargets : Prop :=
  ∀ (g : BitVec 4) (s : State), Claim.ReadyC s →
    (∀ p : BitVec 17, ∃ c t, exec (.prepImm g p) s = .next t ∧
      Claim.WritesTarget (Claim.here s) c g.toNat p.toNat (Claim.now s) ∧ Claim.Issued (Claim.with_ s c) t 1 1 none []) ∧
    (∀ a : BitVec 5, ∃ c t, exec (.prepReg g a) s = .next t ∧
      Claim.WritesTarget (Claim.here s) c g.toNat (((Claim.here s).S a.toNat).toNat % 2 ^ 17) (Claim.now s) ∧
      Claim.Issued (Claim.with_ s c) t 1 1 none [])

end Sys2Proof

/-- R86, R88, R19: compares, `GSET`, `GCOMB` and `PREP`. -/
def Obligations.SteerRegisters : Prop :=
  Claim.saySteerConditions ∧
  Claim.saySteerTargets

namespace Sys2Proof

/-- R87, R88: a `GO` that is taken goes to TARGET and clears the loops that it leaves; a `GOL` writes its link and leaves every loop active; the steer register is unchanged. One whose TARGET was never set faults. -/
def Claim.sayBranches : Prop :=
  ∀ (g cc : BitVec 4) (s : State), Claim.ReadyC s →
    (Claim.MayBranch s g.toNat cc →
      (∃ t, exec (.go g cc) s = .next t ∧
        (let dest := Claim.target (Claim.here s) g.toNat
         if Claim.takes (Claim.here s) g.toNat cc then
           Claim.Issued (Claim.with_ s { Claim.here s with c := { (Claim.here s).c with
             loops := (Claim.here s).c.loops.map (fun l => if l.start.toNat ≤ dest ∧ dest ≤ l.stop.toNat then l else { l with act := false }) } }) t 1 1 (some dest) []
         else Claim.Issued s t 1 1 none [])) ∧
      ∀ d : BitVec 5, ∃ c t, exec (.gol g cc d) s = .next t ∧
        Claim.WritesS (Claim.here s) c d.toNat (BitVec.ofNat 64 (s.cur.pc + 1)) (Claim.now s) 1 ∧
        Claim.Issued (Claim.with_ s c) t 1 1 (if Claim.takes (Claim.here s) g.toNat cc then some (Claim.target (Claim.here s) g.toNat) else none) []) ∧
    (((Claim.here s).G g.toNat).getLsbD 4 = false → ∃ t, exec (.go g cc) s = .next t ∧ Claim.StoppedC s t .steerUnset)

/-- R89: `LOOP` opens a loop, skips the body of one with a count of zero, or faults. -/
def Claim.sayOpenLoop : Prop :=
  ∀ (l : BitVec 2) (a : BitVec 5) (len : BitVec 16) (s : State), Claim.ReadyC s →
    (let n := ((Claim.here s).S a.toNat).toNat
     let open_ := ((Claim.here s).c.loops.getD l.toNat .zero).act
     (2 ^ 24 ≤ n → ∃ t, exec (.loop l a len) s = .next t ∧ Claim.StoppedC s t .loopcnt) ∧
     (n < 2 ^ 24 → open_ = true → ∃ t, exec (.loop l a len) s = .next t ∧ Claim.StoppedC s t .loopbusy) ∧
     (n < 2 ^ 24 → open_ = false → 8 * s.imgLen s.cur.core ≤ s.cur.pc + len.toNat →
       ∃ t, exec (.loop l a len) s = .next t ∧ Claim.StoppedC s t .fetchBounds) ∧
     (n < 2 ^ 24 → open_ = false → s.cur.pc + len.toNat < 8 * s.imgLen s.cur.core →
       if n = 0 then ∃ t, exec (.loop l a len) s = .next t ∧ Claim.Issued s t 1 1 (some (s.cur.pc + len.toNat + 1)) []
       else ∃ c t, exec (.loop l a len) s = .next t ∧
         Claim.WritesL (Claim.here s) c l.toNat ⟨true, BitVec.ofNat 24 n, BitVec.ofNat 17 (s.cur.pc + 1), BitVec.ofNat 17 (s.cur.pc + len.toNat)⟩ ∧
         Claim.Issued (Claim.with_ s c) t 1 1 none []))

end Sys2Proof

/-- R87 to R89: `GO`, `GOL` and `LOOP`. -/
def Obligations.BranchesAndLoops : Prop :=
  Claim.sayBranches ∧
  Claim.sayOpenLoop

namespace Sys2Proof

/-- R89, R64: where C goes after a word at its offset: the loop with the highest number that ends there and has a count above one goes back to its START; every loop above it that ends there is closed; with none, the next word follows. While the handler runs no loop is tested; inside a packed word the next code follows. -/
def Claim.sayWordFlow : Prop :=
  ∀ s : State, Claim.ReadyC s → s.cur.ext = none → ∃ t, exec .nop s = .next t ∧
    (let st := (Claim.here s).c
     let st' := (Claim.here t).c
     (s.cur.packed = true → s.cur.lastCode = false → st'.pc = st.pc ∧ st'.codePos = s.cur.codePos + 1 ∧ st'.loops = st.loops) ∧
     (s.cur.packed = false ∨ s.cur.lastCode = true → st'.packed = false ∧ st'.codePos = 0 ∧
       ((Claim.here s).inh = true → st'.pc = BitVec.ofNat 17 (s.cur.pc + 1) ∧ st'.loops = st.loops) ∧
       ((Claim.here s).inh = false →
         (∀ l, l < 4 → Claim.endsAt st l s.cur.pc → 1 < (st.loops.getD l .zero).count.toNat →
           (∀ m, l < m → m < 4 → Claim.endsAt st m s.cur.pc → (st.loops.getD m .zero).count.toNat ≤ 1) →
           st'.pc = BitVec.ofNat 17 (st.loops.getD l .zero).start.toNat ∧
           ∀ m, m < 4 → st'.loops.getD m .zero =
             if m = l then { st.loops.getD l .zero with count := (st.loops.getD l .zero).count - 1 }
             else if l < m ∧ (st.loops.getD m .zero).act = true ∧ (st.loops.getD m .zero).stop.toNat = s.cur.pc then
               { st.loops.getD m .zero with act := false, count := 0 }
             else st.loops.getD m .zero) ∧
         ((∀ l, l < 4 → Claim.endsAt st l s.cur.pc → (st.loops.getD l .zero).count.toNat ≤ 1) →
           st'.pc = BitVec.ofNat 17 (s.cur.pc + 1) ∧
           ∀ m, m < 4 → st'.loops.getD m .zero =
             if (st.loops.getD m .zero).act = true ∧ (st.loops.getD m .zero).stop.toNat = s.cur.pc then
               { st.loops.getD m .zero with act := false, count := 0 }
             else st.loops.getD m .zero))))

/-- R62, R64: a packed word that issues changes nothing but that its stream stands before its first code. -/
def Claim.sayPackedWord : Prop :=
  ∀ (cnt : BitVec 2) (c0 c1 c2 : BitVec 16) (s : State), ∃ t, exec (.packed cnt c0 c1 c2) s = .next t ∧
    t = { s with cores := t.cores } ∧ (∀ n, n ≠ s.cur.core → t.core n = s.core n) ∧
    Claim.here t = (Claim.here s).setStream s.cur.eng { (Claim.here s).stream s.cur.eng with packed := true, codePos := 0 }

end Sys2Proof

/-- R62, R64, R89: where a stream goes after a word. -/
def Obligations.WordFlow : Prop :=
  Claim.sayWordFlow ∧
  Claim.sayPackedWord

namespace Sys2Proof

namespace Claim

/-! ## C: memory, records, queues (R90 to R95) -/

/-- A 32-bit half of a register as a signed index (R90). -/
def half (x : W64) (hi : Bool) : Int := (BitVec.ofNat 32 (if hi then x.toNat / 2 ^ 32 else x.toNat)).toInt

/-- R90's loads: destination, record, offset, size, latency from SPM. -/
def loadOf (i : Instr) (c : Core) : Option (Nat × BitVec 6 × Int × Nat × Nat) :=
  match i with
  | .ld d a sz t imm => some (d.toNat, t, (c.S a.toNat).toInt + imm.toInt, 2 ^ sz.toNat, 6)
  | .ldt d a sz t imm => some (d.toNat, t,
      half (c.S a.toNat) true * tStride1 (c.T t.toNat) + half (c.S a.toNat) false * 2 ^ sz.toNat + imm.toInt, 2 ^ sz.toNat, 7)
  | _ => none

/-- R90's stores: record, offset, size, value. -/
def storeOf (i : Instr) (c : Core) : Option (BitVec 6 × Int × Nat × W64) :=
  match i with
  | .st d a sz t imm => some (t, (c.S a.toNat).toInt + imm.toInt, 2 ^ sz.toNat, c.S d.toNat)
  | .stt d a sz t imm => some (t,
      half (c.S a.toNat) true * tStride1 (c.T t.toNat) + half (c.S a.toNat) false * 2 ^ sz.toNat + imm.toInt, 2 ^ sz.toNat, c.S d.toNat)
  | _ => none

/-- R92's atomics: destination, address, size, operation (9 compares), operand, comparand. -/
def atomicOf (i : Instr) (c : Core) : Option (Nat × Int × Nat × Nat × W64 × W64) :=
  match i with
  | .amo d a b op sz => some (d.toNat, (c.S a.toNat).toInt, if sz = 0 then 4 else 8, op.toNat, c.S b.toNat, 0)
  | .cas d a b k sz => some (d.toNat, (c.S a.toNat).toInt, if sz = 0 then 4 else 8, 9, c.S b.toNat, c.S k.toNat)
  | _ => none

/-- Nothing of the state differs but that the stream of `e` notes that it waits at issue, and since when it does (R305, R311). -/
structure Held (s t : State) (e : Engine) (k : WaitKind) : Prop where
  rest : t = { s with cores := t.cores }
  cores : ∀ n, n ≠ s.cur.core → t.core n = s.core n
  core : ∃ w h b, here t = (here s).setStream e { (here s).stream e with wait := w, heldFrom := h, broken := b } ∧ w.kind = k ∧
    (((here s).stream e).wait.kind = k → w = ((here s).stream e).wait) ∧
    (((here s).stream e).wait.kind ≠ k → w.from_ = s.tick ∧ h = some (((here s).stream e).heldFrom.getD s.tick))

end Claim

/-- R90: a load writes the bytes at its address, zero-extended; a zero-filled one writes 0; MSM costs 3 ac more; a check that fails is the fault. -/
def Claim.sayLoads : Prop :=
  ∀ (i : Instr) (s : State) (d : Nat) (r : BitVec 6) (off : Int) (size lat : Nat),
    Claim.loadOf i (Claim.here s) = some (d, r, off, size, lat) → Claim.ReadyC s →
    (∀ k, cAccess s (Claim.here s) r off size = .ok (.at_ k) → s.poisoned k size = false → (Claim.here s).behindAtom k size = false →
      ∃ c t, exec i s = .next t ∧
        (let l := lat + (if 2 ^ 52 ≤ k then 3 else 0)
         Claim.WritesS (Claim.here s) c d (BitVec.ofNat 64 (s.cNat (Claim.here s) k size)) (Claim.now s) l ∧ Claim.Issued (Claim.with_ s c) t 1 l none [])) ∧
    (cAccess s (Claim.here s) r off size = .ok .zero →
      ∃ c t, exec i s = .next t ∧ Claim.WritesS (Claim.here s) c d 0 (Claim.now s) lat ∧ Claim.Issued (Claim.with_ s c) t 1 lat none []) ∧
    (∀ e, cAccess s (Claim.here s) r off size = .error e → e ≠ .poison → ∃ t, exec i s = .next t ∧ Claim.StoppedC s t e)

/-- R90: a store leaves its core as it is at issue; its bytes are written when it retires, 4 ac later; a zero-filled one writes nothing. -/
def Claim.sayStores : Prop :=
  ∀ (i : Instr) (s : State) (r : BitVec 6) (off : Int) (size : Nat) (v : W64),
    Claim.storeOf i (Claim.here s) = some (r, off, size, v) → Claim.ReadyC s →
    (∀ k, cAccess s (Claim.here s) r off size = .ok (.at_ k) →
      ∃ t, exec i s = .next t ∧ Claim.Issued s t 1 4 none [.store k (toBytes size v.toNat)]) ∧
    (cAccess s (Claim.here s) r off size = .ok .zero → ∃ t, exec i s = .next t ∧ Claim.Issued s t 1 4 none []) ∧
    (∀ e, cAccess s (Claim.here s) r off size = .error e → e ≠ .poison → ∃ t, exec i s = .next t ∧ Claim.StoppedC s t e)

/-- R90, R143: where an access of C, or an element of V, goes. A raw one lies in SPM, at a multiple of its size; one through a record lies in the record's window, or is clamped into it, or is zero-filled, as BOUNDS says; and its lease passes its check. -/
def Claim.sayAccessRules : Prop :=
  ∀ (s : State) (c : Core) (r : BitVec 6) (off : Int) (size : Nat), size = 1 ∨ size = 2 ∨ size = 4 ∨ size = 8 →
    (let core := s.cur.core
     let pj := s.jobOf core
     let q := c.T r.toNat
     let limit := Min.min (tExtent q : Int) ((if tBkind q = 0 then 2 ^ 20 else 2 ^ 18 : Int) - tBase q)
     (r = 63 →
       (off < 0 ∨ 2 ^ 20 < off + size → cAccess s c r off size = .error .bounds) ∧
       (0 ≤ off → off + size ≤ 2 ^ 20 →
         (off % size ≠ 0 → cAccess s c r off size = .error .align) ∧
         (off % size = 0 → checkCovering s pj.1 pj.2 (keySpm core off.toNat) size = none →
           cAccess s c r off size = .ok (.at_ (keySpm core off.toNat))))) ∧
     (r ≠ 63 → cAccess s c r off size = recAccess s core q off size) ∧
     (r ≠ 63 → 1 < tBkind q → cAccess s c r off size = .error .record) ∧
     (r ≠ 63 → tBkind q ≤ 1 →
       (0 ≤ off → off + size ≤ limit →
         ((tBase q + off) % size ≠ 0 → cAccess s c r off size = .error .align) ∧
         ((tBase q + off) % size = 0 → ∀ a : Nat, a = tBase q + off → checkRange s pj.1 pj.2 (tLease q) (keyTier core (tBkind q) a) size = none →
           cAccess s c r off size = .ok (.at_ (keyTier core (tBkind q) a)))) ∧
       (off < 0 ∨ limit < off + size →
         (tBounds q = 0 → cAccess s c r off size = .error .bounds) ∧
         (tBounds q = 1 → limit < size → cAccess s c r off size = .error .bounds) ∧
         (tBounds q = 1 → size ≤ limit →
           let o := Max.max 0 (Min.min off (limit - size)) / size * size
           (tBase q + o) % size = 0 → ∀ a : Nat, a = tBase q + o → checkRange s pj.1 pj.2 (tLease q) (keyTier core (tBkind q) a) size = none →
             cAccess s c r off size = .ok (.at_ (keyTier core (tBkind q) a))) ∧
         (tBounds q = 2 → (tBase q + off) % size = 0 → cAccess s c r off size = .ok .zero))))

/-- R91: what C reads. With no store of its own pending there, it reads storage; its latest pending store to exactly these bytes is what it reads. -/
def Claim.sayReadsOwnStores : Prop :=
  ∀ (s : State) (c : Core) (k n : Nat),
    ((∀ w ∈ c.cStores, w.1 + w.2.length ≤ k ∨ k + n ≤ w.1) → s.cNat c k n = s.readNat k n) ∧
    (∀ l v, c.cStores = l ++ [(k, toBytes n v)] → s.cNat c k n = v % 2 ^ (8 * n))

end Sys2Proof

/-- R90, R91: loads and stores of C. -/
def Obligations.MemoryAccesses : Prop :=
  Claim.sayLoads ∧
  Claim.sayStores ∧
  Claim.sayAccessRules ∧
  Claim.sayReadsOwnStores

namespace Sys2Proof

/-- R92: an atomic is checked at issue, performed 4 ac later, and gives the old value 10 ac after issue. -/
def Claim.sayAtomics : Prop :=
  ∀ (i : Instr) (s : State) (d : Nat) (a : Int) (n op : Nat) (x y : W64), Claim.atomicOf i (Claim.here s) = some (d, a, n, op, x, y) → Claim.ReadyC s →
    (∀ k, rawAccess s s.cur.core a n n = .ok k → s.poisoned k n = false →
      ∃ t, exec i s = .next t ∧
        (let id := (Claim.here s).nextId
         let c := { (Claim.here s).awaitS d (Claim.now s + 10) id with
           flights := (Claim.here s).flights ++ [⟨id, .c, 0, [.atom k n op x y d id], false, false⟩], nextId := id + 1 }
         Claim.Issued { Claim.with_ s c with timers := s.timers ++ [⟨.ac (dieOf s.cur.core), Claim.now s + 4, some s.cur.core, .instructionRetire s.cur.core .c id⟩] }
           t 1 10 none [])) ∧
    (∀ e, rawAccess s s.cur.core a n n = .error e → e ≠ .poison → ∃ t, exec i s = .next t ∧ Claim.StoppedC s t e)

/-- R93: tensor and iterator records are written whole or by one field, and read. An image that a record may not hold is RECORD and leaves the record. -/
def Claim.sayRecordWords : Prop :=
  ∀ s : State, Claim.ReadyC s →
    (∀ (n : BitVec 6) (a : BitVec 5) (k : Nat), rawAccess s s.cur.core ((Claim.here s).S a.toNat).toInt 32 32 = .ok k →
      (s.poisoned k 32 = false → (Claim.here s).behindAtom k 32 = false →
        let v : BitVec 256 := BitVec.ofNat 256 (s.cNat (Claim.here s) k 32)
        if tBounds v ≠ 3 ∧ bits v 36 7 = 0 ∧ tFmt v < 0x14 then
          ∃ c t, exec (.tdset n a) s = .next t ∧ Claim.WritesT (Claim.here s) c n.toNat v (Claim.now s) 8 ∧ Claim.Issued (Claim.with_ s c) t 1 8 none []
        else ∃ t, exec (.tdset n a) s = .next t ∧ Claim.StoppedC s t .record) ∧
      ∃ t, exec (.tdget n a) s = .next t ∧ Claim.Issued s t 1 4 none [.store k (toBytes 32 ((Claim.here s).T n.toNat).toNat)]) ∧
    (∀ (n : BitVec 4) (a : BitVec 5) (k : Nat), rawAccess s s.cur.core ((Claim.here s).S a.toNat).toInt 16 16 = .ok k →
      (s.poisoned k 16 = false → (Claim.here s).behindAtom k 16 = false →
        let v : BitVec 128 := BitVec.ofNat 128 (s.cNat (Claim.here s) k 16)
        if bits v 100 28 = 0 ∧ (iIdx v 0 ≤ iDim v 0 ∧ iIdx v 1 ≤ iDim v 1 ∧ iIdx v 2 ≤ iDim v 2 ∧ iIdx v 3 ≤ iDim v 3) then
          ∃ c t, exec (.itset n a) s = .next t ∧ Claim.WritesI (Claim.here s) c n.toNat v (Claim.now s) 6 ∧ Claim.Issued (Claim.with_ s c) t 1 6 none []
        else ∃ t, exec (.itset n a) s = .next t ∧ Claim.StoppedC s t .record) ∧
      ∃ t, exec (.itget n a) s = .next t ∧ Claim.Issued s t 1 4 none [.store k (toBytes 16 ((Claim.here s).I n.toNat).toNat)]) ∧
    (∀ (n : BitVec 6) (a : BitVec 5),
      (∃ c t, exec (.tdsetBase n a) s = .next t ∧ Claim.WritesT (Claim.here s) c n.toNat (putBits ((Claim.here s).T n.toNat) 202 52 ((Claim.here s).S a.toNat).toNat) (Claim.now s) 1 ∧
        Claim.Issued (Claim.with_ s c) t 1 1 none []) ∧
      (∃ c t, exec (.tdsetExt n a) s = .next t ∧ Claim.WritesT (Claim.here s) c n.toNat (putBits ((Claim.here s).T n.toNat) 162 40 ((Claim.here s).S a.toNat).toNat) (Claim.now s) 1 ∧
        Claim.Issued (Claim.with_ s c) t 1 1 none []) ∧
      (∃ c t, exec (.tdgetBase n a) s = .next t ∧
        Claim.WritesS (Claim.here s) c a.toNat (BitVec.ofNat 64 (((Claim.here s).T n.toNat).toNat / 2 ^ 202 % 2 ^ 52)) (Claim.now s) 2 ∧
        Claim.Issued (Claim.with_ s c) t 1 2 none [])) ∧
    (∀ (n : BitVec 4) (a : BitVec 5),
      (let v := putBits ((Claim.here s).I n.toNat) 48 48 ((Claim.here s).S a.toNat).toNat
       if ((Claim.here s).S a.toNat).toNat < 2 ^ 48 ∧ bits v 100 28 = 0 ∧ (iIdx v 0 ≤ iDim v 0 ∧ iIdx v 1 ≤ iDim v 1 ∧ iIdx v 2 ≤ iDim v 2 ∧ iIdx v 3 ≤ iDim v 3) then
         ∃ c t, exec (.itsetIdx n a) s = .next t ∧ Claim.WritesI (Claim.here s) c n.toNat v (Claim.now s) 1 ∧ Claim.Issued (Claim.with_ s c) t 1 1 none []
       else ∃ t, exec (.itsetIdx n a) s = .next t ∧ Claim.StoppedC s t .record) ∧
      (∃ c t, exec (.itgetIdx n a) s = .next t ∧
        Claim.WritesS (Claim.here s) c a.toNat (BitVec.ofNat 64 (((Claim.here s).I n.toNat).toNat / 2 ^ 48 % 2 ^ 48)) (Claim.now s) 2 ∧
        Claim.Issued (Claim.with_ s c) t 1 2 none []))

end Sys2Proof

/-- R95, R53: the control queues. An entry may be popped 2 ac after its push; a full queue holds the push; `QMASK` pushes 16 doublewords; `QFLUSH` empties a queue and restarts the running stream, which issues 6 ac later at the earliest; a sweep of V that has issued completes first. -/
def Obligations.ControlQueues : Prop :=
  ∀ (a : BitVec 5) (s : State), Claim.ReadyC s →
    (let c := Claim.here s
     (c.cqv.length < 64 → ∃ t, exec (.qpush 0 a) s = .next t ∧
       Claim.Issued (Claim.with_ s { c with cqv := c.cqv ++ [(Claim.now s + 2, c.S a.toNat)] }) t 1 1 none []) ∧
     (c.cqm.length < 64 → ∃ t, exec (.qpush 1 a) s = .next t ∧
       Claim.Issued (Claim.with_ s { c with cqm := c.cqm ++ [(Claim.now s + 2, c.S a.toNat)] }) t 1 1 none []) ∧
     (64 ≤ c.cqv.length → ∃ t, exec (.qpush 0 a) s = .next t ∧ Claim.Held s t .c .queue) ∧
     (64 ≤ c.cqm.length → ∃ t, exec (.qpush 1 a) s = .next t ∧ Claim.Held s t .c .queue) ∧
     (∀ k, rawAccess s s.cur.core (c.S a.toNat).toInt 128 8 = .ok k → c.cqv.length ≤ 48 → s.poisoned k 128 = false → c.behindAtom k 128 = false →
       ∃ t, exec (.qmask a) s = .next t ∧
         Claim.Issued (Claim.with_ s { c with cqv := c.cqv ++ (List.range 16).map (fun j => (Claim.now s + 2, BitVec.ofNat 64 (s.cNat c (k + 8 * j) 8))) })
           t 1 1 none []) ∧
     (∀ dest : BitVec 17, c.sweep.isSome = true → ∃ t, exec (.qflush 0 dest) s = .next t ∧
       Claim.Issued (Claim.with_ s { c with cqv := [], vtarget := some dest.toNat }) t 1 4 none []) ∧
     (∀ dest : BitVec 17, c.sweep = none → c.v.run = .running → ∃ t, exec (.qflush 0 dest) s = .next t ∧
       Claim.Issued (Claim.with_ s { c with
         cqv := []
         v := { c.v with pc := dest, packed := false, codePos := 0, loops := c.v.loops.map (fun l => { l with act := false })
                         nextAc := Max.max c.v.nextAc (Claim.now s + 6), wait := .idle, heldFrom := none, broken := none } }) t 1 4 none []) ∧
     (∀ dest : BitVec 17, c.m.run = .running → ∃ t, exec (.qflush 1 dest) s = .next t ∧
       Claim.Issued (Claim.with_ s { c with
         cqm := []
         m := { c.m with pc := dest, packed := false, codePos := 0, loops := c.m.loops.map (fun l => { l with act := false })
                         nextAc := Max.max c.m.nextAc (Claim.now s + 6), wait := .idle, heldFrom := none, broken := none } }) t 1 4 none []))

namespace Sys2Proof

namespace Claim

/-! ## C: control registers, traps, dictionaries, retirement (R25 to R28, R44, R99 to R105) -/

/-- The value of a CSR by its number (R25, R103); none where the number is not assigned. -/
def csrValue (s : State) (core n : Nat) : Option W64 :=
  let c := s.core core
  let pj := s.jobOf core
  let u := c.seat.unit.getD (0, 0)
  if n = 0x000 then some (BitVec.ofNat 64 (s.tick % 2 ^ 48))
  else if n = 0x001 then some (BitVec.ofInt 64 (s.purse pj.1 pj.2).bal)
  else if n = 0x010 then some (c.csr.fflags.setWidth 64)
  else if n = 0x011 then some (c.csr.amax.setWidth 64)
  else if n = 0x012 then some c.csr.srkey
  else if n = 0x020 then some (c.csr.offcutb.setWidth 64)
  else if n = 0x021 then some (c.csr.offcutn.setWidth 64)
  else if n = 0x030 then some (c.csr.trapv.setWidth 64)
  else if n = 0x031 then some (c.csr.trapc.setWidth 64)
  else if n = 0x032 then some (c.csr.trappc.setWidth 64)
  else if n = 0x033 then some c.csr.trapx
  else if n = 0x034 then some (c.csr.trapret.setWidth 64)
  else if n = 0x040 then some (BitVec.ofNat 64 u.2)
  else if n = 0x041 then some (BitVec.ofNat 64 core)
  else if n = 0x042 then some (BitVec.ofNat 64 u.1)
  else if n = 0x043 then some (BitVec.ofNat 64 ((spGet 0 s.owners (core / 4)).toNat % 64))
  else if n = 0x044 then some (BitVec.ofNat 64 (((s.launch u.1).map (fun l => lrUnits l.record)).getD 0))
  else if n = 0x050 then some (c.csr.tol.setWidth 64)
  else if n = 0x051 then some ((s.part pj.1).grace.setWidth 64)
  else if 0x100 ≤ n ∧ n ≤ 0x11F then some (c.O (n - 0x100))
  else none

/-- What a `CSRW` makes of the core (R25, R28, R99): reserved bits stay zero; none for a CSR that it may not write now. -/
def csrWritten (c : Core) (n : Nat) (v : W64) : Option Core :=
  let lo : W32 := v.setWidth 32
  if n = 0x010 then some { c with csr := { c.csr with fflags := lo &&& 0x1F1F1F1F } }
  else if n = 0x011 then some { c with csr := { c.csr with amax := lo } }
  else if n = 0x012 then some { c with csr := { c.csr with srkey := v } }
  else if n = 0x020 ∧ c.csr.offcutn = 0 then some { c with csr := { c.csr with offcutb := lo } }
  else if n = 0x030 then some { c with csr := { c.csr with trapv := v.setWidth 17 } }
  else if n = 0x034 then some { c with csr := { c.csr with trapret := lo &&& 0x3FFFF }, ctl := { c.ctl with rcode := 0 } }
  else if n = 0x050 then some { c with csr := { c.csr with tol := lo } }
  else if 0x100 ≤ n ∧ n ≤ 0x11F then some (c.setO (n - 0x100) (v &&& 0xC00FFFFFFFFFFFF8))
  else none

/-- CSRs that R25 marks RO. -/
def readOnlyCsr (n : Nat) : Bool := [0x000, 0x001, 0x021, 0x031, 0x032, 0x033, 0x040, 0x041, 0x042, 0x043, 0x044, 0x051].contains n

/-- C as it enters its handler (R100): INH and RPC, the cause, the PC that TRAPPC names, TRAPX; C runs on at TRAPV. -/
def entered (c : Core) (rpc cause trappc : Nat) (x : W64) : Core :=
  { c with
    csr := { c.csr with
      trapret := BitVec.ofNat 32 (2 ^ 17 + rpc % 2 ^ 17), trapc := BitVec.ofNat 16 cause, trappc := BitVec.ofNat 17 trappc, trapx := x }
    c := { c.c with pc := c.csr.trapv, packed := false, codePos := 0, wait := .idle, heldFrom := none, broken := none } }

/-- A frozen stream that a release lets run. -/
def released (st : Stream) (b : Bool) : Stream := if b && st.run == .frozen then { st with run := .running } else st

/-- A command without its park, and without what a lost keeper leaves undone (R295). -/
def bare (x : XCmd) : XCmd := { x with parked := none, raised := false, acted := false, bumped := false }

/-- A word's effects all land here: it is no `SIGO` to another chip whose SIGNAL is still to be sent or acknowledged (R96, R206). -/
def arrives (s : State) (f : Flight) : Prop :=
  (∀ k n, f.effects = [.object k n] → isPeerKey k = false ∨ s.chipLost (peerOf k) = true) ∧
  (∀ code k n, f.effects = [.acked code k n] → s.unacked code = false)

/-- A word of the stream of `e`. -/
def wordOf (e : Engine) (f : Flight) : Prop := f.eng = e ∧ f.word = true

end Claim

/-- R104, R103, R25: `CSRR` reads every assigned CSR, zero-extended. -/
def Claim.sayCsrReads : Prop :=
  ∀ (d : BitVec 5) (n : BitVec 12) (s : State) (v : W64), Claim.csrValue s s.cur.core n.toNat = some v → Claim.ReadyC s →
    ∃ c t, exec (.csrr d n) s = .next t ∧ Claim.WritesS (Claim.here s) c d.toNat v (Claim.now s) 2 ∧ Claim.Issued (Claim.with_ s c) t 1 2 none []

/-- R104, R25, R28: `CSRW` writes a CSR, truncated to its width; a read-only one faults, and so does `OFFCUTB` while the offcut queue holds entries. A key is an input of the job; with no capture running it is noted nowhere else. -/
def Claim.sayCsrWrites : Prop :=
  ∀ (a : BitVec 5) (n : BitVec 12) (s : State), Claim.ReadyC s →
    (∀ c, Claim.csrWritten (Claim.here s) n.toNat ((Claim.here s).S a.toNat) = some c → n.toNat = 0x012 → s.captures = [] →
      ∃ t, exec (.csrw n a) s = .next t ∧ Claim.Issued (Claim.with_ s c) t 1 1 none []) ∧
    (∀ c, Claim.csrWritten (Claim.here s) n.toNat ((Claim.here s).S a.toNat) = some c → n.toNat ≠ 0x012 →
      ∃ t, exec (.csrw n a) s = .next t ∧ Claim.Issued (Claim.with_ s c) t 1 1 none []) ∧
    (Claim.readOnlyCsr n.toNat = true → ∃ t, exec (.csrw n a) s = .next t ∧ Claim.StoppedC s t .csrRo) ∧
    (n.toNat = 0x020 → (Claim.here s).csr.offcutn ≠ 0 → ∃ t, exec (.csrw n a) s = .next t ∧ Claim.StoppedC s t .csrbusy)

end Sys2Proof

/-- R103: `CSRR` and `CSRW`. -/
def Obligations.Csrs : Prop :=
  Claim.sayCsrReads ∧
  Claim.sayCsrWrites

namespace Sys2Proof

/-- R101, R100: `TRAP` retires and enters the handler with RPC after it; while a handler runs it is TRAP_NEST; with no handler C freezes, and the record has the software code. -/
def Claim.sayTrapWord : Prop :=
  ∀ (v : BitVec 15) (s : State), Claim.ReadyC s →
    ((Claim.here s).inh = false → (Claim.here s).csr.trapv ≠ 0 →
      ∃ u t, exec (.trap v) s = .next t ∧ Claim.Issued s u 1 1 none [] ∧
        (let c := Claim.entered (Claim.here u) (s.cur.pc + 1) (0x8000 + v.toNat) s.cur.pc 0
         t = Claim.with_ u { c with ctl := { c.ctl with rcode := 0 } })) ∧
    ((Claim.here s).inh = true → ∃ t, exec (.trap v) s = .next t ∧ Claim.StoppedC s t .trapNest) ∧
    ((Claim.here s).inh = false → (Claim.here s).csr.trapv = 0 → ∃ t, exec (.trap v) s = .next t ∧ Claim.StoppedC s t (.software v))

/-- R100: the oldest held fault of V, M or X enters C's handler once C may take it, with RPC at the word that C has not completed; the record is posted; while INH is 1, or C does not run, nothing happens. While its core rolls back, C takes the park of a command that runs again (R373), and no other fault. -/
def Claim.sayTrapEntry : Prop :=
  ∀ (core : Nat) (s : State) (r : Report) (rest : List Report), (s.core core).ctl.faults = r :: rest →
    let again : Prop := (s.core core).health.refetching = true ∧ ∃ x ∈ (s.core core).copy.cmds, x.refetch = true ∧ r.cmd = some x.id
    ((s.core core).inh = false → (s.core core).c.run = .running → (s.core core).seat.stopping = false →
      ((s.core core).health.recovering = none ∨ again) →
      (s.core core).c.wait.kind ≠ .lease → (s.core core).c.wait.kind ≠ .cancel →
      ∃ t, exec (.trapEntry core) s = .next t ∧
        Claim.sameButInbox { s with cores := t.cores } t ∧ Claim.Recorded s t (s.jobOf core).1 r.cause.code r.pc.toNat r.eng.num ∧
        (∀ n, n ≠ core → t.core n = s.core n) ∧
        (let c := s.core core
         let e := Claim.entered c c.c.pc.toNat r.cause.code r.pc.toNat (BitVec.ofNat 64 (r.eng.num + r.trec % 64 * 4 + r.irec % 16 * 256))
         t.core core = { e with ctl := { c.ctl with faults := rest, serving := some (r.eng, r.cmd), rcode := if c.c.packed then c.c.codePos else 0 } })) ∧
    ((s.core core).health.recovering ≠ none → rest = [] → ¬ again → exec (.trapEntry core) s = .next s) ∧
    ((s.core core).inh = true ∨ (s.core core).c.run ≠ .running → exec (.trapEntry core) s = .next s)

/-- R102: `ERET` resumes C at RPC with INH 0 and releases the frozen streams that its mask names; outside a handler it is ERET_STATE. -/
def Claim.sayTrapReturn : Prop :=
  ∀ (a : BitVec 5) (s : State), Claim.ReadyC s →
    ((Claim.here s).inh = true → (Claim.here s).ctl.faults = [] →
      ∃ u t, exec (.eret a) s = .next t ∧ Claim.Issued s u 4 4 none [] ∧
        (let m := ((Claim.here s).S a.toNat).toNat
         let c := Claim.here u
         t = { u with cores := t.cores, agenda := t.agenda } ∧ (∀ n, n ≠ s.cur.core → t.core n = u.core n) ∧
         Claim.here t = { c with
           csr := { c.csr with trapret := putBits c.csr.trapret 17 1 0 }
           c := { c.c with pc := BitVec.ofNat 17 c.csr.trapret.toNat, packed := c.ctl.rcode != 0, codePos := c.ctl.rcode }
           v := Claim.released c.v (m.testBit 1), m := Claim.released c.m (m.testBit 2), x := Claim.released c.x (m.testBit 3)
           copy := { c.copy with cmds := (Claim.here t).copy.cmds }, ctl := { c.ctl with serving := none } } ∧
         (Claim.here t).copy.cmds.map Claim.bare = c.copy.cmds.map Claim.bare ∧
         (m.testBit 3 = false → (Claim.here t).copy = c.copy) ∧
         (m.testBit 3 = true → (∀ x ∈ (Claim.here t).copy.cmds, ∀ r, x.parked = some r → x.raised = true → r.cause = .walk) ∧
           ∀ x ∈ c.copy.cmds, (∀ r, x.parked = some r → r.cause ≠ .peerLost) →
             x ∈ (Claim.here t).copy.cmds ∨ { x with parked := none, raised := false } ∈ (Claim.here t).copy.cmds))) ∧
    ((Claim.here s).inh = false → ∃ t, exec (.eret a) s = .next t ∧ Claim.StoppedC s t .eretState)

end Sys2Proof

/-- R99 to R102: `TRAP`, the entry of the handler, and `ERET`. -/
def Obligations.Traps : Prop :=
  Claim.sayTrapWord ∧
  Claim.sayTrapEntry ∧
  Claim.sayTrapReturn

namespace Sys2Proof

/-- R105: `DICTLD` reads 8,192 bytes at issue and retires 128 ac later, when the 1,024 entries of one engine's dictionary are replaced; a running stream's dictionary is DICTBUSY. -/
def Claim.sayDictionaries : Prop :=
  (∀ (e : BitVec 2) (a : BitVec 5) (s : State) (k : Nat), Claim.ReadyC s →
    ((engineOf e.toNat = .c ∨ ((Claim.here s).stream (engineOf e.toNat)).run = .ended) →
      rawAccess s s.cur.core ((Claim.here s).S a.toNat).toInt 8192 64 = .ok k → s.poisoned k 8192 = false →
      (∀ l ∈ (Claim.here s).ctl.loads, l.1 ≠ engineOf e.toNat) → (Claim.here s).behindAtom k 8192 = false →
      ∃ t, exec (.dictld e a) s = .next t ∧
        (let ws := (List.range 1024).map (fun i => BitVec.ofNat 64 (s.cNat (Claim.here s) (k + 8 * i) 8))
         let c := Claim.here s
         Claim.Issued { Claim.with_ s { c with ctl := { c.ctl with loads := c.ctl.loads ++ [(engineOf e.toNat, ws, s.cur.frame.signal)] } } with
           timers := s.timers ++ [⟨.ac (dieOf s.cur.core), Claim.now s + 128, some s.cur.core, .dictldComplete s.cur.core (engineOf e.toNat)⟩] }
           t 1 128 none [])) ∧
    (engineOf e.toNat ≠ .c → ((Claim.here s).stream (engineOf e.toNat)).run ≠ .ended →
      ∃ t, exec (.dictld e a) s = .next t ∧ Claim.StoppedC s t .dictbusy)) ∧
  (∀ (core : Nat) (e : Engine) (s : State) (ws : List W64) (sg : BitVec 4) (l : List (Engine × List W64 × BitVec 4)),
    (s.core core).ctl.loads = (e, ws, sg) :: l → ws.length = 1024 → (s.core core).seat.cancelling = false → (s.core core).health.recovering = none →
    ∃ t, exec (.dictldComplete core e) s = .next t ∧ t = { s with cores := t.cores } ∧ (∀ n, n ≠ core → t.core n = s.core n) ∧
      t.core core = { s.core core with
        dict := (t.core core).dict, hot := (t.core core).hot, ctl := { (s.core core).ctl with loads := l.filter (fun q => q.1 != e) } } ∧
      (∀ g, g ∈ (t.core core).hot ↔ g ∈ (s.core core).hot ∧ g / 128 ≠ e.num) ∧
      (∀ i, i < 1024 → spGet 0 (t.core core).dict (e.num * 1024 + i) = ws.getD i 0) ∧
      (∀ i, i < e.num * 1024 ∨ e.num * 1024 + 1024 ≤ i → spGet 0 (t.core core).dict i = spGet 0 (s.core core).dict i))

end Sys2Proof

/-- R93, R103: the record words, `DICTLD` and its completion. -/
def Obligations.RecordsAndDictionaries : Prop :=
  Claim.sayRecordWords ∧
  Claim.sayDictionaries

namespace Sys2Proof

/-- R44, R243, R96: when a word of C or V reaches its retirement, its effects are written; its tokens are pushed, one for each engine that its SIGNAL names, if no earlier word of its stream is still to retire; else it keeps them and waits. A region of the offcut queue that has been reclaimed is looked at again (R158). A `SIGO` to another chip sends its SIGNAL first, and retires once that is acknowledged. Number 0 stands for a held word, whose end the waits' own statements say. -/
def Claim.sayRetirement : Prop :=
  ∀ (core : Nat) (e : Engine) (id : Nat) (s : State) (before after : List Flight) (f : Flight),
    (s.core core).flights = before ++ f :: after → f.id = id → id ≠ 0 → f.eng = e → f.retired = false →
    (∀ g ∈ before ++ after, g.id ≠ id) → (s.core core).seat.cancelling = false → (s.core core).health.recovering = none →
    (f.word = true → Claim.arrives s f →
      ∃ t, exec (.instructionRetire core e id) s = .next (if (s.core core).offcutGoing = true then t.emptyOffcut core else t) ∧
        (let u := f.effects.foldl (fun s x => s.perform core x) s
         t = { u with cores := t.cores } ∧ (∀ n, n ≠ core → t.core n = u.core n) ∧
         t.core core = { u.core core with flights := (t.core core).flights, dowel := (t.core core).dowel } ∧
         ((∀ g ∈ before, ¬ Claim.wordOf e g) → (∀ g ∈ after, Claim.wordOf e g → g.retired = false) →
           (t.core core).flights = before ++ after ∧
           ∀ p q, (t.core core).dowelN p q = (s.core core).dowelN p q + (if p = e ∧ f.signal.toNat.testBit q.num = true then 1 else 0)) ∧
         (∀ b g b', before = b ++ g :: b' → (∀ h ∈ b, ¬ Claim.wordOf e h) → Claim.wordOf e g → g.retired = false →
           (t.core core).flights = before ++ { f with retired := true, effects := [] } :: after ∧
           ∀ p q, (t.core core).dowelN p q = (s.core core).dowelN p q))) ∧
    (∀ k n, f.effects = [.object k n] → isPeerKey k = true → s.chipLost (peerOf k) = false → (s.peer (peerOf k)).nextSeq < 2 ^ 32 →
      (let fj := jobIx (s.jobOf core).1 (s.jobOf core).2
       s.portShut fj = false →
       exec (.instructionRetire core e id) s = .next ((s.sendPacket fj (peerOf k) (.signal (k % 2 ^ 52) n)).modCore core (fun c =>
         { c with flights := c.flights.map (fun g => if g.id = id then { g with effects := [.acked (s.nextCode (peerOf k)) k n] } else g) })))) ∧
    (∀ code k n, f.effects = [.acked code k n] → s.unacked code = true → exec (.instructionRetire core e id) s = .next s)

/-- What retirement writes: lanes of a tile and no other lane (R126), a mask (R17), sticky flags that are only ever set (R27), the running maximum with its NaN flag (R27), the count of the offcut queue, an iterator's IDX, the bytes of a store (R90), the increment of an object (R96), and an atomic's new value and `Sd` (R92). Nothing else of the core differs. -/
def Claim.sayEffectWrites : Prop :=
  ∀ (s : State) (core : Nat),
    (∀ (d : Nat) (lanes : BitVec 1024) (vals : Tile), vals.Pairwise (fun p q => p.1 < q.1) → (∀ p ∈ vals, lanes.getLsbD p.1 = true) →
      let t := s.perform core (.tile d lanes vals)
      t.core core = { s.core core with vec := (t.core core).vec } ∧ (t.core core).vec.k = (s.core core).vec.k ∧
      ∀ m i, i < 1024 → lane ((t.core core).vec.V m) i =
        if m = d ∧ lanes.getLsbD i = true then lane vals i else lane ((s.core core).vec.V m) i) ∧
    (∀ (k : Nat) (v : BitVec 1024),
      let t := s.perform core (.mask k v)
      t.core core = { s.core core with vec := (t.core core).vec } ∧ (t.core core).vec.v = (s.core core).vec.v ∧
      ∀ m, (t.core core).vec.K m = if m = k ∧ m ≠ 0 then v else (s.core core).vec.K m) ∧
    (∀ (e : Engine) (f : BitVec 5),
      let t := s.perform core (.flags e f)
      t.core core = { s.core core with csr := { (s.core core).csr with fflags := (t.core core).csr.fflags } } ∧
      ∀ i, i < 32 → (t.core core).csr.fflags.getLsbD i =
        ((s.core core).csr.fflags.getLsbD i || (decide (8 * e.num ≤ i) && f.getLsbD (i - 8 * e.num)))) ∧
    (∀ (e : Engine) (m : Option W32) (nan : Bool), (∀ x, m = some x → x.toNat < 2 ^ 31) →
      let t := s.perform core (.amax e m nan)
      let old := (s.core core).csr.amax
      t.core core = { s.core core with csr := { (s.core core).csr with amax := (t.core core).csr.amax, fflags := (t.core core).csr.fflags } } ∧
      (t.core core).csr.amax = (match m with
        | none => old
        | some x => if 0x7F800000 < old.toNat then x else BitVec.ofNat 32 (Nat.max old.toNat x.toNat)) ∧
      ∀ i, i < 32 → (t.core core).csr.fflags.getLsbD i = ((s.core core).csr.fflags.getLsbD i || (nan && decide (i = 8 * e.num + 4)))) ∧
    (∀ d : Int, (s.perform core (.offcut d)).core core =
      { s.core core with csr := { (s.core core).csr with offcutn := BitVec.ofInt 10 ((s.core core).csr.offcutn.toNat + d) } }) ∧
    (∀ (n : Nat) (idx : BitVec 48),
      Claim.WritesI (s.core core) ((s.perform core (.iter n idx)).core core) n (putBits ((s.core core).I n) 48 48 idx.toNat) 0 1) ∧
    (∀ (k : Nat) (bs : List Byte),
      let t := s.perform core (.store k bs)
      (∀ i, (h : i < bs.length) → memByte t.mem (k + i) = bs[i]) ∧ sameMemBut s t k bs.length) ∧
    (∀ (k n : Nat),
      let t := s.perform core (.object k n)
      t = { s with mem := t.mem, poison := t.poison, stores := t.stores, timers := t.timers } ∧
      t.readNat k 8 = (s.homeNat k 8 + n) % 2 ^ 64 ∧ sameMemBut s t k 8 ∧
      ∀ code, s.perform core (.acked code k n) = if s.chipLost (code / 2 ^ 32) = true then s else t) ∧
    (∀ (k n op : Nat) (x y : W64) (d id : Nat), n = 4 ∨ n = 8 →
      let t := s.perform core (.atom k n op x y d id)
      let old := s.readNat k n
      let new := if op < 9 then atomic op n old x.toNat else if old = y.toNat % 2 ^ (8 * n) then x.toNat else old
      t.readNat k n = new % 2 ^ (8 * n) ∧ sameMemBut s t k n ∧
      ∀ m, (t.core core).S m =
        if m = d ∧ m ≠ 0 ∧ (spGet (0, 0) (s.core core).regs.due d).2 = id then BitVec.ofNat 64 old else (s.core core).S m)

end Sys2Proof

/-- R44, R60, R125, R243: what a word leaves to its retirement, and what retirement does. -/
def Obligations.Retirement : Prop :=
  Claim.sayRetirement ∧
  Claim.sayEffectWrites

namespace Sys2Proof

/-- R92: the operations of an atomic, on values of `n` bytes; the signed ones compare as integers of that width. -/
def Claim.sayAtomicOperations : Prop :=
  ∀ (n old x : Nat), n = 4 ∨ n = 8 → old < 2 ^ (8 * n) → x < 2 ^ (8 * n) →
    atomic 0 n old x = (old + x) % 2 ^ (8 * n) ∧ atomic 1 n old x = old &&& x ∧ atomic 2 n old x = old ||| x ∧ atomic 3 n old x = old ^^^ x ∧
    atomic 4 n old x = (if (BitVec.ofNat (8 * n) x).toInt < (BitVec.ofNat (8 * n) old).toInt then x else old) ∧
    atomic 5 n old x = (if (BitVec.ofNat (8 * n) old).toInt < (BitVec.ofNat (8 * n) x).toInt then x else old) ∧
    atomic 6 n old x = Nat.min old x ∧ atomic 7 n old x = Nat.max old x ∧ atomic 8 n old x = x

end Sys2Proof

/-- R92, R200: `AMO` and `CAS`, and the operation at the home. -/
def Obligations.Atomics : Prop :=
  Claim.sayAtomics ∧
  Claim.sayAtomicOperations

namespace Sys2Proof

namespace Claim

/-! ## C: words that wait (R42 to R56, R96 to R98) -/

/-- A stream whose word under the cursor, `i`, waits until an event: since now, or with the ticks counted on that a pre-emption broke off (R311). -/
def waiting (s : State) (st : Stream) (k : WaitKind) (i : Instr) (obj goal : Nat) : Stream :=
  let b : Nat × Bool := match st.broken with
    | some (k', n, told) => if k' = k then (n, told) else (0, false)
    | none => (0, false)
  { st with
    wait := ⟨k, s.tick - b.1, b.2, obj, goal, false, some (s.cur, i), now s, s.tick, none⟩
    heldFrom := some (st.heldFrom.getD s.tick)
    broken := none }

/-- What the word that C of a core holds waits for has come: it retires `n` ac later (R98). -/
def dueIn (s : State) (core n : Nat) : State :=
  { s.setCore core { s.core core with c := { (s.core core).c with wait := { (s.core core).c.wait with due := some (s.acOf core + n) } } } with
    timers := s.timers ++ [⟨.ac (dieOf core), s.acOf core + n, some core, .instructionRetire core .c 0⟩] }

/-- The word under the cursor, `i`, waits, with these events to come; nothing else of its core differs, and no other core. -/
structure Parked (s t : State) (k : WaitKind) (i : Instr) (obj goal : Nat) (soon : List Instr) (later : List Timer) : Prop where
  rest : t = { s with cores := t.cores, agenda := s.agenda ++ soon.map .occur, timers := s.timers ++ later }
  cores : ∀ n, n ≠ s.cur.core → t.core n = s.core n
  core : here t = (here s).setStream s.cur.eng (waiting s ((here s).stream s.cur.eng) k i obj goal)

/-- The cursor is back on a word that waited, and its core is `c`. -/
def back (s : State) (cur : Cursor) (c : Core) : State := with_ { s with cur := cur } c

/-- The word `i` with cursor `cur` waits in C of `core`, in a wait of kind `k`. -/
structure Waits (s : State) (core : Nat) (k : WaitKind) (cur : Cursor) (i : Instr) : Prop where
  kind : (s.core core).c.wait.kind = k
  held : (s.core core).c.wait.held = some (cur, i)
  core : cur.core = core
  eng : cur.eng = .c
  unit : cur.unit = none

/-- A joining word waits for V, M and X, and they have ended. -/
def joinable (c : Core) : Bool :=
  (c.c.wait.kind == .rend || (c.c.wait.kind == .halt && c.ctl.forked)) && c.v.run == .ended && c.m.run == .ended && c.x.run == .ended

/-- The join of R45 acts 4 ac after the last stream ended (R98): at once, or then. -/
def joinSoon (c : Core) (core a : Nat) : List Instr := if joinable c ∧ c.ctl.lastEnd + 4 ≤ a then [.rendJoin core] else []
/-- See `joinSoon`. -/
def joinLater (c : Core) (core a : Nat) : List Timer :=
  if joinable c ∧ a < c.ctl.lastEnd + 4 then [⟨.ac (dieOf core), c.ctl.lastEnd + 4, some core, .rendJoin core⟩] else []

/-- A doubleword of a fork block that R42 allows. -/
def forkLegal (w : W64) : Prop :=
  w.toNat / 2 ^ 34 % 2 ^ 29 = 0 ∧ (2 ^ 63 ≤ w.toNat → 8 ≤ w.toNat % 2 ^ 17 ∧ w.toNat % 2 ^ 17 < w.toNat / 2 ^ 17 % 2 ^ 17)

/-- The stream that a doubleword of a fork block starts, 12 ac later, or does not. -/
def started (st : Stream) (w : W64) (a : Nat) : Stream :=
  if 2 ^ 63 ≤ w.toNat then
    { st with pc := BitVec.ofNat 17 w.toNat, stop := BitVec.ofNat 17 (w.toNat / 2 ^ 17), run := .running
              packed := false, codePos := 0, nextAc := a + 12, wait := .idle, heldFrom := none, broken := none }
  else { st with run := .ended, wait := .idle, heldFrom := none, broken := none }

/-- The word that C holds is due to retire, and its core goes on. -/
structure Due (s : State) (core : Nat) : Prop where
  time : ∃ a, (s.core core).c.wait.due = some a ∧ a ≤ s.acOf core
  seat : (s.core core).seat.cancelling = false
  well : (s.core core).health.recovering = none

/-- A core without tokens and queue entries (R45). -/
def drained (c : Core) : Core := { c with dowel := [], cqv := [], cqm := [] }

/-- Each of a list in turn. -/
def Chain (R : Nat → State → State → Prop) : List Nat → State → State → Prop
  | [], s, t => t = s
  | n :: ns, s, t => ∃ u, R n s u ∧ Chain R ns u t

end Claim

/-- R42, R98, R105: `FORK` starts or ends V, M and X as its block says and takes the snapshot; a stream that has not ended is FORKBUSY, a bad block is RECORD. -/
def Claim.sayFork : Prop :=
  ∀ (a : BitVec 5) (s : State), Claim.ReadyC s → (Claim.here s).ctl.loads = [] →
    ((Claim.here s).v.run = .ended → (Claim.here s).m.run = .ended → (Claim.here s).x.run = .ended →
      ∀ k, rawAccess s s.cur.core ((Claim.here s).S a.toNat).toInt 24 8 = .ok k → s.poisoned k 24 = false → (Claim.here s).behindAtom k 24 = false →
      let w (i : Nat) : W64 := BitVec.ofNat 64 (s.cNat (Claim.here s) (k + 8 * i) 8)
      ((∀ i, i < 3 → Claim.forkLegal (w i)) →
        ∃ u t, exec (.fork a) s = .next t ∧
          (let c := Claim.here s
           Claim.Issued (Claim.with_ s { c with
             v := Claim.started c.v (w 0) (Claim.now s), m := Claim.started c.m (w 1) (Claim.now s), x := Claim.started c.x (w 2) (Claim.now s)
             ctl := { c.ctl with forked := true, lastEnd := Claim.now s } }) u 1 1 none []) ∧
          t = Claim.with_ u ((Claim.here u).snapshot 0 true)) ∧
      ((∃ i, i < 3 ∧ ¬ Claim.forkLegal (w i)) → ∃ t, exec (.fork a) s = .next t ∧ Claim.StoppedC s t .record)) ∧
    (((Claim.here s).v.run ≠ .ended ∨ (Claim.here s).m.run ≠ .ended ∨ (Claim.here s).x.run ≠ .ended) →
      ∃ t, exec (.fork a) s = .next t ∧ Claim.StoppedC s t .forkbusy)

/-- R43: a running stream of V, M or X whose next PC is its END and whose instructions have all retired has ended; another goes on. -/
def Claim.sayStreamEnds : Prop :=
  ∀ (core : Nat) (e : Engine) (s : State), e ≠ .c → (s.core core).seat.stopping = false →
    (((s.core core).stream e).run = .running → ((s.core core).stream e).pc = ((s.core core).stream e).stop →
      ((s.core core).stream e).packed = false → (s.core core).retiredAll e = true →
      ∃ t, exec (.streamEnd core e) s = .next t ∧
        (let c := (s.core core).setStream e { (s.core core).stream e with run := .ended, wait := .idle, heldFrom := none, broken := none }
         let c' := { c with ctl := { c.ctl with lastEnd := s.acOf core } }
         t = { s.setCore core c' with
           agenda := s.agenda ++ (Claim.joinSoon c' core (s.acOf core)).map .occur, timers := s.timers ++ Claim.joinLater c' core (s.acOf core) })) ∧
    (((s.core core).stream e).run ≠ .running ∨ ((s.core core).stream e).pc ≠ ((s.core core).stream e).stop ∨ (s.core core).retiredAll e = false →
      exec (.streamEnd core e) s = .next s)

/-- R45, R46, R98: `REND` and `HALT` wait for V, M and X; the join discards the tokens and the queue entries, and then `REND` retires, or either word faults, with QUEUE_LEFT where entries were left and OFFCUT_LEFT where the offcut queue is not empty. -/
def Claim.sayJoins : Prop :=
  (∀ s : State, Claim.ReadyC s →
    let at_ (k : WaitKind) : Core := (Claim.here s).modStream .c (fun st => { st with wait := { st.wait with kind := k } })
    (∃ t, exec .rend s = .next t ∧
      Claim.Parked s t .rend .rend 0 0 (Claim.joinSoon (at_ .rend) s.cur.core (Claim.now s)) (Claim.joinLater (at_ .rend) s.cur.core (Claim.now s))) ∧
    (∃ t, exec .halt s = .next t ∧
      Claim.Parked s t .halt .halt 0 0 (Claim.joinSoon (at_ .halt) s.cur.core (Claim.now s)) (Claim.joinLater (at_ .halt) s.cur.core (Claim.now s)))) ∧
  (∀ (core : Nat) (s : State) (k : WaitKind) (cur : Cursor) (i : Instr), Claim.Waits s core k cur i → Claim.joinable (s.core core) = true →
    (s.core core).ctl.lastEnd + 4 ≤ s.acOf core → (s.core core).seat.stopping = false →
    let c := Claim.drained (s.core core)
    let idle := c.modStream .c (fun st => { st with wait := .idle })
    ((s.core core).cqv = [] → (s.core core).cqm = [] → (s.core core).csr.offcutn = 0 →
      let joined := { c with ctl := { c.ctl with forked := false } }
      (k = .rend → ∃ t, exec (.rendJoin core) s = .next t ∧ Claim.Issued (Claim.back s cur joined) t 1 0 none []) ∧
      (k = .halt → exec (.rendJoin core) s = .next (Claim.back s cur joined))) ∧
    ((s.core core).cqv ≠ [] ∨ (s.core core).cqm ≠ [] →
      ∃ t, exec (.rendJoin core) s = .next t ∧ Claim.StoppedC (Claim.back s cur idle) t .queueLeft) ∧
    ((s.core core).cqv = [] → (s.core core).cqm = [] → (s.core core).csr.offcutn ≠ 0 →
      ∃ t, exec (.rendJoin core) s = .next t ∧ Claim.StoppedC (Claim.back s cur idle) t .offcutLeft))

end Sys2Proof

/-- R44, R45, R98: `FORK`, the ends of streams, `REND` and the join. -/
def Obligations.ForkAndJoin : Prop :=
  Claim.sayFork ∧
  Claim.sayStreamEnds ∧
  Claim.sayJoins

namespace Sys2Proof

namespace Claim

/-- Arrivals of a unit at a barrier of its launch. -/
def arrivals (l : Launch) (id unit : Nat) : Nat := spGet 0 l.arrivals (id * 4096 + unit)

/-- The launch notes an arrival. -/
def arrived (s : State) (launch id unit g : Nat) : State :=
  { s with launches := s.launches.map (fun l => if l.id = launch then { l with arrivals := spSet l.arrivals (id * 4096 + unit) g } else l) }

/-- A waiting `BAR` of core `n` is due. -/
def barDue (n : Nat) (v w : State) : Prop := w = dueIn v n 2

/-- The arrival that the `BAR` under the cursor made when it issued before (R100). -/
def kept (s : State) (id : Nat) (a : BarWait) : Bool := a.pc == s.cur.pc && a.codePos == s.cur.codePos && a.id == id

/-- A core without that arrival. -/
def forgets (s : State) (c : Core) (id : Nat) : Core := { c with ctl := { c.ctl with bars := c.ctl.bars.filter (fun a => !kept s id a) } }

/-- The wait of a core's C is counted on the lease of the object at `k`, and on no other (R358). -/
def counting (s : State) (core k : Nat) : State :=
  let pj := s.jobOf core
  let u := match (s.core core).ctl.countedC with
    | some old => s.waiter pj.1 pj.2 old false
    | none => s
  { s.setCore core { s.core core with ctl := { (s.core core).ctl with countedC := some k } } with leases := (u.waiter pj.1 pj.2 k true).leases }

/-- The object at `k` takes an increment of `n`, in one access; the waits on it whose value is reached end, within 64 ac (R96). -/
structure Increments (s t : State) (k n : Nat) : Prop where
  rest : t = { s with mem := t.mem, poison := t.poison, stores := t.stores, timers := t.timers }
  value : t.homeNat k 8 = (s.homeNat k 8 + n) % 2 ^ 64
  frame : sameMemBut s t k 8
  wakes : t.timers = s.timers ++ s.cores.flatMap (fun e =>
    let due (w : Wait) : Bool := w.obj == k && (w.cancelled || decide (w.goal ≤ t.homeNat k 8))
    (if e.2.c.wait.kind = .object ∧ due e.2.c.wait = true then [⟨.ac (dieOf e.1), s.acOf e.1 + 64, some e.1, .waitoEnd e.1⟩] else []) ++
    (if e.2.x.wait.kind = .xwait ∧ due e.2.x.wait = true then [⟨.ac (dieOf e.1), s.acOf e.1 + 4, some e.1, .xwaitEnd e.1⟩] else []))

/-- The object at the home `k` that slot `n` of the issuing core names may be used (R96): it lies under an open SYNC lease of the job, or at another chip, whose lease is checked there. -/
structure ObjectAt (s : State) (n k : Nat) : Prop where
  kind : bits ((here s).O n) 62 2 = 1 ∨ bits ((here s).O n) 62 2 = 2
  home : objHome s s.cur.core ((here s).O n) = some k
  sync : isPeerKey k = true ∨ syncOpen s (s.jobOf s.cur.core).1 (s.jobOf s.cur.core).2 k 8 = true

/-- The wait of a `WAITO` ends with a status: `b` takes it, the wait is no longer counted; with status 0 the publications that the increments follow are joined. -/
def endsWait (s : State) (core : Nat) (cur : Cursor) (b status : Nat) (t : State) : Prop :=
  let pj := s.jobOf core
  let k := (s.core core).c.wait.obj
  let c := s.core core
  let c := { c with
    ctl := { c.ctl with countedC := none }
    seat := { c.seat with joined := if status = 0 then (c.seat.joined ++ spGet [] s.joins k).eraseDups else c.seat.joined } }
  ∃ c', WritesS c c' b (BitVec.ofNat 64 status) (s.acOf core) 1 ∧ Issued (with_ ({ s with cur := cur }.waiter pj.1 pj.2 k false) c') t 1 1 none []

end Claim

/-- R55, R56, R98, R100: `BAR` arrives at its next generation and waits, 2 ac beyond its end; one that a trap abandoned keeps the arrival that it made, and retires at once if that generation is complete; a unit that is not a placed unit has BAR_SCOPE. -/
def Claim.sayBarriers : Prop :=
  ∀ (id : BitVec 4) (s : State), Claim.ReadyC s →
    (∀ u l, s.unitOf s.cur.core = some u → u.block = none → s.launch u.launch = some l →
      let n := Claim.arrivals l id.toNat u.no
      let c := Claim.here s
      ((∀ a ∈ c.ctl.bars, Claim.kept s id.toNat a = false) →
        ∃ t, exec (.bar id) s = .next t ∧
          Claim.Parked (Claim.with_ (Claim.arrived s u.launch id.toNat u.no (n + 1))
            { c with ctl := { c.ctl with bars := c.ctl.bars ++ [⟨s.cur.pc, s.cur.codePos, s.cur.word, id.toNat, n + 1⟩] } }) t
             .bar (.bar id) id.toNat (n + 1) [] []) ∧
      (∀ a, c.ctl.bars.find? (Claim.kept s id.toNat) = some a →
        (spGet 0 l.gens id.toNat < a.gen → ∃ t, exec (.bar id) s = .next t ∧ Claim.Parked s t .bar (.bar id) id.toNat a.gen [] []) ∧
        (a.gen ≤ spGet 0 l.gens id.toNat → ∃ t, exec (.bar id) s = .next t ∧
          Claim.Issued (Claim.with_ s (Claim.forgets s c id.toNat)) t 1 0 none []))) ∧
    ((∀ u, s.unitOf s.cur.core = some u → u.block ≠ none) → ∃ t, exec (.bar id) s = .next t ∧ Claim.StoppedC s t .barScope)

/-- R55, R56: a generation completes once every placed unit has arrived, or halted, or been cancelled, and what the launch's X engines accepted has landed: it is published, a phase ends, and then each waiting `BAR` is due, and retires 2 ac later; until then nothing happens. -/
def Claim.sayGenerations : Prop :=
  (∀ (core : Nat) (s : State) (cur : Cursor) (id : BitVec 4), Claim.Waits s core .bar cur (.bar id) → Claim.Due s core →
    ∃ t, exec (.instructionRetire core .c 0) s = .next t ∧
      (let v := { s with cur := cur }
       Claim.Issued (Claim.with_ v (Claim.forgets v (s.core core) id.toNat)) t 0 0 none [])) ∧
  ∀ (launch id : Nat) (s : State) (l : Launch), s.launch launch = some l → l.done = false →
    let g := spGet 0 l.gens id + 1
    let mine (c : Core) : Bool := (c.seat.unit.map (·.1)) == some launch
    let staged (p : PlainStore) : Bool := p.pub == 0 && p.launch == launch
    let n := s.pubCount + 1
    (s.allArrived l id g = true → s.plainLanded launch = true →
      ∃ u t, exec (.barGenerationComplete launch id) s = .next t ∧
        u = { s with
          pubCount := n
          stores := s.stores.filter (fun p => !staged p) ++ (s.stores.filter staged).map (fun p => { p with pub := n })
          launches := s.launches.map (fun x => if x.id = launch then
            { x with pubs := x.pubs ++ [n], gens := spSet x.gens id g, phase := x.phase + 1 } else x)
          cores := s.cores.map (fun e => if mine e.2 then (e.1, { e.2 with seat := { e.2.seat with view := n } }) else e)
          saves := s.saves.map (fun v => if v.launch = launch then { v with ctx := { v.ctx with seat := { v.ctx.seat with view := n } } } else v) } ∧
        Claim.Chain Claim.barDue
          ((u.cores.filter (fun e => mine e.2 && !e.2.paused && e.2.c.wait.kind == .bar && e.2.c.wait.obj == id && decide (e.2.c.wait.goal ≤ g) &&
            e.2.c.wait.due.isNone)).map (·.1)) u t) ∧
    (s.allArrived l id g = false ∨ s.plainLanded launch = false → exec (.barGenerationComplete launch id) s = .next s)

end Sys2Proof

/-- R52 to R56: `BAR` and its generations. -/
def Obligations.Barriers : Prop :=
  Claim.sayBarriers ∧
  Claim.sayGenerations

namespace Sys2Proof

/-- R96, R358: `WAITO` is counted and waits, and looks at once; `.T` waits at most n ticks, and not at all with n 0; `SIGO` increments the object in one access when it retires, 4 ac later, or, for a virtual object, at an acknowledgement of no fixed latency (a free value); an empty slot is OBJ_EMPTY, an object under no open SYNC lease OBJ_LEASE. -/
def Claim.sayObjectWords : Prop :=
  ∀ (n a : BitVec 5) (s : State), Claim.ReadyC s →
    (∀ k, Claim.ObjectAt s n.toNat k → (Claim.here s).cPending k 8 = false →
      let goal := ((Claim.here s).S a.toNat).toNat
      let soon : List Instr := if goal ≤ s.homeNat k 8 then [.waitoEnd s.cur.core] else []
      (∀ b, ∃ t, exec (.waito n a b) s = .next t ∧ Claim.Parked (Claim.counting s s.cur.core k) t .object (.waito n a b) k goal soon []) ∧
      (∀ b (lim : BitVec 23), ∃ t, exec (.waitoT n a b lim) s = .next t ∧
        Claim.Parked (Claim.counting s s.cur.core k) t .object (.waitoT n a b lim) k goal
          (soon ++ if lim = 0 then [.waitoTimeout s.cur.core] else [])
          (if lim = 0 then [] else [⟨.tick, s.tick + lim.toNat, none, .waitoTimeout s.cur.core⟩])) ∧
      (∃ t, exec (.sigo n a) s = .next t ∧
        if bits ((Claim.here s).O n.toNat) 62 2 = 1 then Claim.Issued s t 1 4 none [.object k goal]
        else Claim.Issued { s with fresh := s.fresh + 1 } t 1
          ((if (Claim.here s).flights.any (fun f => f.eng == .c) = true then 4 else 1) + Config.freeNat s.fresh) none [.object k goal]) ∧
      ∀ core, Claim.Increments s (s.perform core (.object k goal)) k goal) ∧
    (∀ i, i = .sigo n a ∨ (∃ b, i = .waito n a b) ∨ (∃ b lim, i = .waitoT n a b lim) →
      (bits ((Claim.here s).O n.toNat) 62 2 = 0 ∨ bits ((Claim.here s).O n.toNat) 62 2 = 3 → ∃ t, exec i s = .next t ∧ Claim.StoppedC s t .objEmpty) ∧
      (bits ((Claim.here s).O n.toNat) 62 2 = 1 ∨ bits ((Claim.here s).O n.toNat) 62 2 = 2 → (∀ k, ¬ Claim.ObjectAt s n.toNat k) →
        ∃ t, exec i s = .next t ∧ Claim.StoppedC s t .objLease))

/-- R96, R51, R245: the wait of a `WAITO` ends with 0 once the value is reached, with 1 where it was ended with cancelled status, and with 2 once its ticks are over; the word retires with the status in `Sb`. -/
def Claim.sayObjectWaits : Prop :=
  ∀ (core : Nat) (s : State) (cur : Cursor) (i : Instr) (n a b : BitVec 5), Claim.Waits s core .object cur i → (s.core core).paused = false →
    let w := (s.core core).c.wait
    let reached := w.goal ≤ s.homeNat w.obj 8
    ((i = .waito n a b ∨ ∃ lim, i = .waitoT n a b lim) →
      (w.cancelled = true → ∃ t, exec (.waitoEnd core) s = .next t ∧ Claim.endsWait s core cur b.toNat 1 t) ∧
      (w.cancelled = false → reached → ∃ t, exec (.waitoEnd core) s = .next t ∧ Claim.endsWait s core cur b.toNat 0 t) ∧
      (w.cancelled = false → ¬ reached → exec (.waitoEnd core) s = .next s)) ∧
    (∀ lim, i = .waitoT n a b lim →
      (w.from_ + lim.toNat ≤ s.tick →
        (w.cancelled = true → ∃ t, exec (.waitoTimeout core) s = .next t ∧ Claim.endsWait s core cur b.toNat 1 t) ∧
        (w.cancelled = false → reached → ∃ t, exec (.waitoTimeout core) s = .next t ∧ Claim.endsWait s core cur b.toNat 0 t) ∧
        (w.cancelled = false → ¬ reached → ∃ t, exec (.waitoTimeout core) s = .next t ∧ Claim.endsWait s core cur b.toNat 2 t)) ∧
      (s.tick < w.from_ + lim.toNat → exec (.waitoTimeout core) s = .next s))

end Sys2Proof

/-- R94 to R96: `WAITO` and `SIGO`. -/
def Obligations.Objects : Prop :=
  Claim.sayObjectWords ∧
  Claim.sayObjectWaits

namespace Sys2Proof

namespace Claim

/-- A unit-launch block that R47 and R38 allow. -/
def blockOk (r : BitVec 512) : Prop :=
  bits r 0 204 = 0 ∧ bits r 204 48 = 0 ∧ bits r 252 3 = 0 ∧ bits r 255 8 = 0 ∧ bits r 274 11 = 0 ∧
  1 ≤ bits r 340 16 ∧ bits r 340 16 ≤ 16384 ∧ bits r 326 14 + bits r 340 16 ≤ 16384 ∧ bits r 356 52 % 8 = 0

/-- A block stands last in the unit queue of `target`, and its unit, of the issuer's launch, is queued (R47). `l` is that launch, `u` the issuer. -/
def queued (s : State) (u : Unit_) (l : Launch) (target : Nat) (blk : BitVec 512) : State :=
  let no := 2 ^ 31 + l.enqueued
  { s.setCore target { s.core target with seat := { (s.core target).seat with queue := (s.core target).seat.queue ++ [(blk, u.launch, no)] } } with
    units := s.units ++ [⟨u.launch, no, .queued, target, none, some blk, u.no, bits blk 326 14, bits blk 340 16⟩]
    launches := s.launches.map (fun x => if x.id = u.launch then { x with enqueued := l.enqueued + 1 } else x) }

/-- The issuer of an `ENQR`: its unit and its launch. -/
def issuer (s : State) (core : Nat) (u : Unit_) (l : Launch) : Prop := s.unitOf core = some u ∧ s.launch u.launch = some l

/-- An `ENQR` retires: with `.T`, COND of its steer register says whether the block was queued, and CREC is 7 (R48). -/
def enqEnds (u : State) (i : Instr) (queued : Bool) (t : State) : Prop :=
  match i with
  | .enqrT _ _ g _ => ∃ c, WritesCond (here u) c g.toNat queued 7 ∧ Issued (with_ u c) t 0 0 none []
  | _ => Issued u t 0 0 none []

/-- Everything that a core's streams issued has retired (R46). -/
def allRetired (c : Core) : Prop :=
  c.ctl.forked = false ∧ c.flights = [] ∧ c.mat.ops = [] ∧ c.copy.cmds = [] ∧ c.copy.issuing = none ∧ c.ctl.loads = []

/-- The arbiter that places units of partition `p` on a die. -/
def placer (s : State) (p core : Nat) : Arbiter := spGet Arbiter.zero s.placers (p * 4 + core / 512)

/-- What a unit that leaves a core gives back to its job's D (R305): unused ticks of its slice, and the clock that its die lost, up to Cap. -/
def givenBack (s : State) (core : Nat) : Int :=
  let pj := s.jobOf core
  let q := (s.core core).seat
  let ticks := s.tick - q.sliceTick
  let lost : Int := 940 * (ticks : Int) - ((s.acOf core - q.sliceAc : Nat) : Int)
  let cap : Nat := max (4 * (s.job pj.1 pj.2).wdisp.toNat * (s.part pj.1).slice.toNat) (s.part pj.1).slice.toNat
  min (spGet 0 (placer s pj.1 core).d pj.2 + ((((s.part pj.1).slice.toNat - ticks : Nat) : Int) + lost / 940)) cap

/-- A core whose unit has left it, its unit credited; nothing else differs. -/
structure Left (s t : State) (core : Nat) : Prop where
  rest : t = { s with cores := t.cores, placers := t.placers }
  cores : ∀ n, n ≠ core → t.core n = s.core n
  seat : (t.core core).seat.unit = none ∧ (t.core core).seat.queue = (s.core core).seat.queue ∧ (t.core core).seat.stopping = false
  streams : ∀ e, ((t.core core).stream e).run = .ended
  regs : (t.core core).regs = (s.core core).regs ∧ (t.core core).csr = (s.core core).csr ∧ (t.core core).vec = (s.core core).vec
  credit : let pj := s.jobOf core
    spGet 0 (placer t pj.1 core).d pj.2 = givenBack s core ∧
    (∀ j, j ≠ pj.2 → spGet 0 (placer t pj.1 core).d j = spGet 0 (placer s pj.1 core).d j) ∧
    ∀ ix, ix ≠ pj.1 * 4 + core / 512 → spGet Arbiter.zero t.placers ix = spGet Arbiter.zero s.placers ix

end Claim

/-- R48, R47, R98: `ENQR` copies a 64-byte block into a queue with room for it, and is due 40 ac later, or waits; `.T` waits at most n ticks; a target outside the partition is ENQ_TARGET and a bad block RECORD. -/
def Claim.sayEnqueueWords : Prop :=
  ∀ (a b : BitVec 5) (s : State) (i : Instr), Claim.ReadyC s → (i = .enqr a b ∨ ∃ g n, i = .enqrT a b g n) →
    let target := ((Claim.here s).S a.toNat).toNat
    (target < 2048 → s.partOfCore target = some (s.jobOf s.cur.core).1 →
      ∀ k, rawAccess s s.cur.core ((Claim.here s).S b.toNat).toInt 64 64 = .ok k → s.poisoned k 64 = false → (Claim.here s).behindAtom k 64 = false →
      let blk := BitVec.ofNat 512 (s.cNat (Claim.here s) k 64)
      (Claim.blockOk blk → (s.core target).seat.queue.length < 8 → ∀ u l, Claim.issuer s s.cur.core u l →
        ∃ v, Claim.Parked s v .enqr i target blk.toNat [] [] ∧ exec i s = .next (Claim.dueIn (Claim.queued v u l target blk) s.cur.core 40)) ∧
      (Claim.blockOk blk → 8 ≤ (s.core target).seat.queue.length →
        (i = .enqr a b → ∃ t, exec i s = .next t ∧ Claim.Parked s t .enqr i target blk.toNat [] []) ∧
        (∀ g n, i = .enqrT a b g n → ∃ t, exec i s = .next t ∧
          Claim.Parked s t .enqr i target blk.toNat (if n = 0 then [.enqrTimeout s.cur.core] else [])
            (if n = 0 then [] else [⟨.tick, s.tick + n.toNat, none, .enqrTimeout s.cur.core⟩]))) ∧
      (¬ Claim.blockOk blk → ∃ t, exec i s = .next t ∧ Claim.StoppedC s t .record)) ∧
    (2048 ≤ target ∨ s.partOfCore target ≠ some (s.jobOf s.cur.core).1 → ∃ t, exec i s = .next t ∧ Claim.StoppedC s t .enqTarget)

/-- R48, R98: a waiting `ENQR` is queued once there is room, and is due 40 ac later; when it is due, it retires with COND 1; when the ticks of an `ENQR.T` are over it retires with COND 0. -/
def Claim.sayEnqueueWaits : Prop :=
  ∀ (core : Nat) (s : State) (cur : Cursor) (a b : BitVec 5) (i : Instr), Claim.Waits s core .enqr cur i → (i = .enqr a b ∨ ∃ g n, i = .enqrT a b g n) →
    let w := (s.core core).c.wait
    (w.due = none → (s.core core).seat.stopping = false → (s.core w.obj).seat.queue.length < 8 → ∀ u l, Claim.issuer s core u l →
      exec (.enqrQueued core) s = .next (Claim.dueIn (Claim.queued s u l w.obj (BitVec.ofNat 512 w.goal)) core 40)) ∧
    (Claim.Due s core → ∃ t, exec (.instructionRetire core .c 0) s = .next t ∧ Claim.enqEnds { s with cur := cur } i true t) ∧
    (8 ≤ (s.core w.obj).seat.queue.length → exec (.enqrQueued core) s = .next s) ∧
    (∀ g n, i = .enqrT a b g n →
      (w.due = none → w.from_ + n.toNat ≤ s.tick → (s.core core).paused = false →
        ∃ t, exec (.enqrTimeout core) s = .next t ∧ Claim.enqEnds { s with cur := cur } i false t) ∧
      (w.due ≠ none ∨ s.tick < w.from_ + n.toNat → exec (.enqrTimeout core) s = .next s))

end Sys2Proof

/-- R97, R48: `ENQR` and its waits. -/
def Obligations.Enqueues : Prop :=
  Claim.sayEnqueueWords ∧
  Claim.sayEnqueueWaits

namespace Sys2Proof

/-- R97, R98: `BPHASE` waits until V, M and X have ended, or are held on an empty queue or on tokens of C, and V's words and M's nests have retired; then the snapshot is taken, tagged with `Sa`, with C after the word and its tokens popped, and `BPHASE` retires 24 ac later. -/
def Claim.sayBufferPhases : Prop :=
  (∀ (a : BitVec 5) (s : State), Claim.ReadyC s →
    ∃ t, exec (.bphase a) s = .next t ∧ Claim.Parked s t .bphase (.bphase a) 0 0 [] []) ∧
  (∀ (core : Nat) (s : State) (cur : Cursor) (a : BitVec 5), Claim.Waits s core .bphase cur (.bphase a) → (s.core core).seat.stopping = false → (s.core core).health.recovering = none →
    let c := s.core core
    let ready (q : List (Nat × W64)) : Nat := (q.filter (fun x => decide (x.1 ≤ s.acOf core))).length
    let held (e : Engine) : Prop := (c.stream e).run = .ended ∨ ((c.stream e).run = .running ∧
      (((c.stream e).wait.kind = .queue ∧ ready (if e = .v then c.cqv else c.cqm) < (c.stream e).wait.goal) ∨
       ((c.stream e).wait.kind = .tokens ∧ (c.stream e).wait.obj = 0 ∧ c.dowelN .c e < (c.stream e).wait.goal)))
    (held .v → held .m → held .x → (∀ f ∈ c.flights, f.eng ≠ .v) → (∀ o ∈ c.mat.ops, ∀ q, o.instr ≠ .mgo q) → c.c.wait.due = none →
      (let after := (c.pop .c cur.frame.wait).setStream .c (c.c.next cur (!c.inh) none)
       let taken := after.snapshot (c.S a.toNat) (c.cqv.isEmpty && c.cqm.isEmpty && after.dowel.isEmpty && c.csr.offcutn == 0 && c.pendn == 0)
       exec (.bphaseSnapshot core) s = .next (Claim.dueIn (s.setCore core { c with snap := taken.snap, copy := taken.copy }) core 24))) ∧
    (¬ held .v ∨ ¬ held .m ∨ ¬ held .x → exec (.bphaseSnapshot core) s = .next s) ∧
    (Claim.Due s core → ∃ t, exec (.instructionRetire core .c 0) s = .next t ∧ Claim.Issued { s with cur := cur } t 0 0 none []))

/-- R46, R305: once everything that the core's streams issued has retired, a waiting `HALT` retires: the unit leaves its core and has halted, its rented image region is vacated, and the DONEOBJ of an enqueued unit is incremented; until then nothing happens. -/
def Claim.sayHalts : Prop :=
  ∀ (core : Nat) (s : State) (cur : Cursor) (i : Instr) (u : Unit_), Claim.Waits s core .halt cur i → s.unitOf core = some u →
    (Claim.allRetired (s.core core) → (s.core core).seat.stopping = false → (s.core core).ctl.countedC = none → (s.core core).ctl.countedX = none →
      ∃ v t, exec (.haltRetire core) s = .next t ∧ Claim.Left s v core ∧
        (let w := match u.imgLease with
           | some id => v.vacateNow id
           | none => v
         let x := w.modUnit u.launch u.no (fun y => { y with state := .halted })
         let pj := x.jobOfLaunch u.launch
         t = match u.block with
           | some b => x.incrementDone pj.1 pj.2 (bits b 356 52) [] false
           | none => x)) ∧
    (¬ Claim.allRetired (s.core core) → exec (.haltRetire core) s = .next s)

end Sys2Proof

/-- R97, R98, R46: `BPHASE` and `HALT`. -/
def Obligations.PhasesAndHalts : Prop :=
  Claim.sayBufferPhases ∧
  Claim.sayHalts

namespace Sys2Proof

namespace Claim

/-- The core's unit owns a unit of its job (R35): it is the supervisor unit of that launch, or it enqueued it. -/
def owns (s : State) (core : Nat) (u : Unit_) : Prop :=
  (∃ l, s.launch u.launch = some l ∧ bits l.record 263 11 = core) ∨ (u.block ≠ none ∧ (s.core core).seat.unit = some (u.launch, u.issuer))

/-- The resident unit that `n` names for a job: on core `n`, and not yet being cancelled (R51). -/
def namesResident (s : State) (pj : Nat × Nat) (n : Nat) (u : Unit_) : Prop :=
  n < 2048 ∧ (s.core n).seat.unit ≠ none ∧ s.jobOf n = pj ∧ (s.core n).seat.cancelling = false ∧ s.unitOf n = some u ∧ u.state = .resident ∧ u.core = n

/-- `n` names no unit of the job that may be cancelled (R51, R325). -/
def namesNone (s : State) (pj : Nat × Nat) (n : Nat) : Prop :=
  (n < 2048 → (s.core n).seat.unit = none ∨ s.jobOf n ≠ pj ∨ (s.core n).seat.cancelling = true) ∧
  (0x10000 ≤ n → n < 0x10000 + 2048 → ∀ v ∈ s.saves, v.part = pj.1 → v.job = pj.2 → v.slot = n - 0x10000 → v.cancelled = true)

/-- Issue of a core stops, for a cancel that `by_` waits for (R51). -/
def stopping (c : Core) (by_ : Nat) : Core :=
  { c with seat := { c.seat with stopping := true, cancelling := true, cancellers := c.seat.cancellers ++ [by_] } }

/-- C of a core does not wait in a `WAITO`. -/
def notInWaito (c : Core) : Prop := ∀ cur i, c.c.wait.held = some (cur, i) → (∀ n a b, i ≠ .waito n a b) ∧ (∀ n a b l, i ≠ .waitoT n a b l)

/-- A unit that a cancel has taken: gone, or on a core that is being cancelled. -/
def taken (t : State) (u : Unit_) : Prop :=
  u.state = .halted ∨ u.state = .cancelled ∨ (u.state = .resident ∧ (t.core u.core).seat.stopping = true ∧ (t.core u.core).seat.cancelling = true)

/-- Every saved unit has its save, and no two saves share a lease; a state that no run reaches may break this. -/
def savesOk (s : State) : Prop :=
  (∀ u ∈ s.units, u.state = .saved → ∃ v ∈ s.saves, v.launch = u.launch ∧ v.unit = u.no ∧ v.cancelled = false) ∧
  s.saves.Pairwise (fun v w => v.lease ≠ w.lease)

end Claim

/-- R51: `CANCEL.UNIT` of a resident unit that the issuer owns stops issue on its core and waits; an identifier that names no unit of the issuer's job retires at once and cancels nothing; a unit that the issuer does not own is CANCEL_DENIED. -/
def Claim.sayCancelUnit : Prop :=
  ∀ (a : BitVec 5) (s : State), Claim.ReadyC s →
    let n := ((Claim.here s).S a.toNat).toNat
    (∀ u, Claim.namesResident s (s.jobOf s.cur.core) n u → Claim.owns s s.cur.core u → n ≠ s.cur.core → (Claim.here s).seat.unit ≠ none →
      Claim.notInWaito (s.core n) →
      ∃ t, exec (.cancelUnit a) s = .next t ∧
        t = { s with cores := t.cores, agenda := s.agenda ++ [.occur (.instructionRetire n .c 0)] } ∧
        (∀ m, m ≠ n → m ≠ s.cur.core → t.core m = s.core m) ∧ t.core n = Claim.stopping (s.core n) s.cur.core ∧
        Claim.here t = { Claim.here s with
          c := Claim.waiting s (Claim.here s).c .cancel (.cancelUnit a) 0 0 }) ∧
    (∀ u, Claim.namesResident s (s.jobOf s.cur.core) n u → ¬ Claim.owns s s.cur.core u → ∃ t, exec (.cancelUnit a) s = .next t ∧ Claim.StoppedC s t .cancelDenied) ∧
    (Claim.namesNone s (s.jobOf s.cur.core) n → ∃ t, exec (.cancelUnit a) s = .next t ∧ Claim.Issued s t 1 1 none [])

/-- R51, R35: `CANCEL.LAUNCH`, `.GRAPH` and `.JOB` retire at once, and cancel nothing, where the identifier names no live work of the issuer's job; they are CANCEL_DENIED where the issuer is not the job's supervisor unit (for a job: always, since only the hypervisor core owns one); a cancel by the supervisor unit takes every unit of the launch. -/
def Claim.sayCancelWork : Prop :=
  ∀ (a : BitVec 5) (s : State), Claim.ReadyC s →
    let n := ((Claim.here s).S a.toNat).toNat
    let pj := s.jobOf s.cur.core
    (∀ l, s.launch n = some l → s.jobOfLaunch n = pj → l.done = false → l.cancelled = false →
      (s.jobSuper pj.1 pj.2 = some s.cur.core → Claim.savesOk s →
        ∃ t, exec (.cancelLaunch a) s = .next t ∧ (∀ x ∈ t.launches, x.id = n → x.cancelled = true) ∧ ∀ u ∈ t.units, u.launch = n → Claim.taken t u) ∧
      (s.jobSuper pj.1 pj.2 ≠ some s.cur.core → ∃ t, exec (.cancelLaunch a) s = .next t ∧ Claim.StoppedC s t .cancelDenied)) ∧
    ((∀ l, s.launch n = some l → s.jobOfLaunch n ≠ pj ∨ l.done = true ∨ l.cancelled = true) →
      ∃ t, exec (.cancelLaunch a) s = .next t ∧ Claim.Issued s t 1 1 none []) ∧
    (let mine (g : Graph) : Prop := g.part = pj.1 ∧ bits g.record 464 16 = pj.2 ∧ bits g.record 480 32 = n ∧ g.cancelled = false
     ((∃ g ∈ s.graphs, mine g) →
       (s.jobSuper pj.1 pj.2 = some s.cur.core → ∃ t, exec (.cancelGraph a) s = .next t ∧ ∀ g ∈ s.graphs, mine g → ∀ x ∈ t.graphs, x.seq = g.seq → x.cancelled = true) ∧
       (s.jobSuper pj.1 pj.2 ≠ some s.cur.core → ∃ t, exec (.cancelGraph a) s = .next t ∧ Claim.StoppedC s t .cancelDenied)) ∧
     ((∀ g ∈ s.graphs, ¬ mine g) → ∃ t, exec (.cancelGraph a) s = .next t ∧ Claim.Issued s t 1 1 none [])) ∧
    (n = pj.2 → ∃ t, exec (.cancelJob a) s = .next t ∧ Claim.StoppedC s t .cancelDenied) ∧
    (n ≠ pj.2 → ∃ t, exec (.cancelJob a) s = .next t ∧ Claim.Issued s t 1 1 none [])

end Sys2Proof

/-- R51, R325: `CANCEL`. -/
def Obligations.Cancels : Prop :=
  Claim.sayCancelUnit ∧
  Claim.sayCancelWork

namespace Sys2Proof

namespace Claim

/-! ## C: leases, purses and handles (R107 to R122) -/

/-- `Charge` of R110. -/
def cost (s : State) (p len tier n : Nat) : Nat := ((len + 63) / 64 * (s.part p).rates.getD tier 0 * n + 65535) / 65536

/-- The word under the cursor waits for a controller (R112): that of the core's own die answers 20 ac after issue; by another the answer comes within a tick of wall time, which the wait notes. -/
def sentTo (s t : State) (ctrl : Nat) (i : Instr) : Prop :=
  if ctrl = dieOf s.cur.core then Parked s t .lease i 0 0 [] [⟨.ac (dieOf s.cur.core), now s + 20, some s.cur.core, .leaseAck s.cur.core⟩]
  else Parked s t .lease i 0 ((s.die (dieOf s.cur.core)).time + tickParts) [] []

/-- A `VACATE` goes on waiting, for the holds to end (R117). -/
def waitsOn (s : State) (core : Nat) : State :=
  s.setCore core { s.core core with c := { (s.core core).c with wait := { (s.core core).c.wait with obj := 1 } } }

/-- The size of a leasing unit (R32). -/
def unitBytes (tier : Nat) : Nat := if tier ≤ 2 then 64 else 262144

/-- The operands of a `RENT` that R113 allows. -/
def rentLegal (tier base len n : Nat) : Prop :=
  base % unitBytes tier = 0 ∧ len % unitBytes tier = 0 ∧ 64 ≤ len ∧ 1 ≤ n ∧ n < 2 ^ 32 ∧
  (tier = 0 → base + len ≤ 0x40000) ∧ (tier = 1 → base + len ≤ 0x100000)

/-- The result word of R109. -/
def word (status id : Nat) : W64 := BitVec.ofNat 64 (status * 65536 + id % 65536)

/-- What a lease instruction that retires may let happen next: the end of a cancel, a rollback, a held fault. -/
def follows (c : Core) (core : Nat) : List Turn :=
  (if c.seat.cancelling || c.health.recovering.isSome then [.occur (.instructionRetire core .c 0)] else []) ++ (if c.ctl.faults = [] then [] else [.occur (.trapEntry core)])

/-- A waiting lease instruction with cursor `cur` retires in the state `u` that its controller leaves, with its result in `Sd`. -/
def answers (u : State) (cur : Cursor) (d : Nat) (v : W64) (t : State) : Prop :=
  ∃ c x, WritesS (u.core cur.core) c d v (u.acOf cur.core) 1 ∧ Issued (with_ { u with cur := cur } c) x 1 0 none [] ∧
    t = { x with agenda := x.agenda ++ follows (u.core cur.core) cur.core }

/-- A purse with another balance. -/
def setBal (s : State) (p j : Nat) (b : Int) : State := s.setPurse p j { s.purse p j with bal := b }

/-- A purse that pays `n` points is left with no less than 0 (R110), and is not CAPPED (R356). -/
def pays (s : State) (p j n : Nat) : Prop := 0 ≤ (s.purse p j).bal - n ∧ (s.purse p j).capped = false

/-- The lease is the job's. -/
def owned (s : State) (p j id : Nat) (l : Lease) : Prop := s.lease id = some l ∧ l.part = p ∧ l.job = j

/-- A handle (R21): STATE, VALID, SIZE, TARGET, CHIP, R, W, SYNC, ASID, GEN, FRAME, VPAGE. -/
structure HandleIs (h : BitVec 128) (state valid size target chip r w sync asid gen frame vpage : Nat) : Prop where
  state : bits h 126 2 = state
  valid : bits h 125 1 = valid
  size : bits h 123 2 = size
  target : bits h 121 2 = target
  chip : bits h 109 12 = chip
  access : bits h 108 1 = r ∧ bits h 107 1 = w ∧ bits h 106 1 = sync
  asid : bits h 90 16 = asid
  gen : bits h 74 16 = gen
  frame : bits h 40 34 = frame
  vpage : bits h 6 34 = vpage

end Claim

/-- R107, R112 to R117: a lease instruction with legal operands waits for its controller; other operands are LEASE_ARG. -/
def Claim.sayLeaseWords : Prop :=
  ∀ (d a b c : BitVec 5) (s : State), Claim.ReadyC s →
    let S (n : BitVec 5) : Nat := ((Claim.here s).S n.toNat).toNat
    let sent (i : Instr) (ctrl : Nat) : Prop := ∃ t, exec i s = .next t ∧ Claim.sentTo s t ctrl i
    let refused (i : Instr) : Prop := ∃ t, exec i s = .next t ∧ Claim.StoppedC s t .leaseArg
    (∀ (tier : BitVec 3) (sync : BitVec 1),
      (Claim.rentLegal tier.toNat (S a) (S b) (S c) → sent (.rent d a b c tier sync) (if tier.toNat ≤ 1 then dieOf s.cur.core else 4)) ∧
      (¬ Claim.rentLegal tier.toNat (S a) (S b) (S c) → refused (.rent d a b c tier sync))) ∧
    (1 ≤ S b ∧ S b < 2 ^ 32 → sent (.renew d a b) (S a / 8192)) ∧ (¬ (1 ≤ S b ∧ S b < 2 ^ 32) → refused (.renew d a b)) ∧
    (S c < 2 ^ 32 → sent (.prepay d a b c) (S a / 8192)) ∧ (2 ^ 32 ≤ S c → refused (.prepay d a b c)) ∧
    (let len := ((Claim.here s).S (b.toNat + 1)).toNat
     let unit := ((s.lease (S a)).map (fun l => Claim.unitBytes l.tier)).getD 1
     (1 ≤ len ∧ S b % unit = 0 ∧ len % unit = 0 → sent (.sublet d a b c) (S a / 8192)) ∧
     (¬ (1 ≤ len ∧ S b % unit = 0 ∧ len % unit = 0) → refused (.sublet d a b c))) ∧
    sent (.vacate d a) (S a / 8192)

/-- R109, R110, R113: the controller's answer to `RENT`: UNMAPPED, TAKEN, NOTABLE, NOFUNDS, in this order, or OK, when the purse pays Charge and a lease is made in the lowest free slot. -/
def Claim.sayRents : Prop :=
  ∀ (core : Nat) (s : State) (cur : Cursor) (d a b c : BitVec 5) (tier : BitVec 3) (sync : BitVec 1),
    Claim.Waits s core .lease cur (.rent d a b c tier sync) → (s.core core).c.wait.ac + 20 ≤ s.acOf core →
    let S (n : BitVec 5) : Nat := ((s.core core).S n.toNat).toNat
    let p := (s.jobOf core).1
    let j := (s.jobOf core).2
    let n := Claim.cost s p (S b) tier.toNat (S c)
    let ends (u : State) (status id : Nat) : Prop := ∃ t, exec (.leaseAck core) s = .next t ∧ Claim.answers u cur d.toNat (Claim.word status id) t
    let ranges := rentRanges s p j core tier.toNat (S a) (S b) (sync == 1)
    let slot := s.freeSlot (if tier.toNat ≤ 1 then dieOf core else 4)
    (ranges = none → ends s 8 0) ∧
    (∀ rs, ranges = some rs →
      (s.taken rs = true → ends s 2 0) ∧
      (s.taken rs = false → slot = none → ends s 3 0) ∧
      (∀ id, s.taken rs = false → slot = some id →
        (¬ Claim.pays s p j n → ends s 1 0) ∧
        (Claim.pays s p j n → ends ((Claim.setBal s p j ((s.purse p j).bal - n)).setLease id
          { (default : Lease) with
            state := .open_, sync := sync == 1, tier := tier.toNat, part := p, job := j, base := S a, len := S b
            paid := s.tick + S c, step := S c, core := core, ranges := rs }) 0 id))) ∧
    (tier = 0 → ranges = some [(keyMsm core (S a), S b)]) ∧ (tier = 1 → ranges = some [(keySpm core (S a), S b)])

/-- R109, R110, R114, R115: the controller's answers to `RENEW` and `PREPAY`. -/
def Claim.sayRenewals : Prop :=
  ∀ (core : Nat) (s : State) (cur : Cursor) (d a b c : BitVec 5), (s.core core).c.wait.ac + 20 ≤ s.acOf core →
    let S (n : BitVec 5) : Nat := ((s.core core).S n.toNat).toNat
    let p := (s.jobOf core).1
    let j := (s.jobOf core).2
    let id := S a
    let ends (u : State) (status : Nat) : Prop := ∃ t, exec (.leaseAck core) s = .next t ∧ Claim.answers u cur d.toNat (Claim.word status id) t
    (Claim.Waits s core .lease cur (.renew d a b) →
      ((∀ l, ¬ Claim.owned s p j id l) → ends s 4) ∧
      (∀ l, Claim.owned s p j id l →
        let start := if l.state = .open_ ∧ s.tick < l.paid then l.paid else s.tick
        let n := Claim.cost s p l.len l.tier (S b)
        (l.state = .reclaimed ∨ l.state = .vacated ∨ l.vacating = true → ends s 5) ∧
        (¬ (l.state = .reclaimed ∨ l.state = .vacated ∨ l.vacating = true) →
          (∀ q, l.parent ≠ 0 → s.lease l.parent = some q → q.paid < start + S b → ends s 6) ∧
          ((∀ q, l.parent ≠ 0 → s.lease l.parent = some q → start + S b ≤ q.paid) → (l.parent ≠ 0 → s.lease l.parent ≠ none) →
            (¬ Claim.pays s p j n → ends s 1) ∧
            (Claim.pays s p j n →
              let paid := Claim.setBal s p j ((s.purse p j).bal - n)
              let l' := { l with paid := start + S b, state := .open_, arrears := false }
              (l.parent = 0 → ends (paid.setLease id l') 0) ∧
              (∀ q, l.parent ≠ 0 → s.lease l.parent = some q → ends ((paid.setPurse q.part q.job ((paid.purse q.part q.job).credit n)).setLease id l') 0)))))) ∧
    (Claim.Waits s core .lease cur (.prepay d a b c) →
      ((∀ l, ¬ Claim.owned s p j id l) → ends s 4) ∧
      (∀ l, Claim.owned s p j id l →
        let n := ((s.core core).S b.toNat).toInt
        let l' := { l with step := if S c = 0 then l.step else S c }
        (l.state ≠ .open_ ∨ l.paid ≤ s.tick ∨ l.vacating = true ∨ l.parent ≠ 0 → ends s 5) ∧
        (l.state = .open_ → s.tick < l.paid → l.vacating = false → l.parent = 0 →
          (0 < n → ¬ Claim.pays s p j n.toNat → ends s 1) ∧
          (0 ≤ n → n = 0 ∨ Claim.pays s p j n.toNat → ends ((Claim.setBal s p j ((s.purse p j).bal - n)).setLease id { l' with escrow := l.escrow + n.toNat }) 0) ∧
          (n < 0 → ends ((s.setPurse p j ((s.purse p j).credit (Nat.min l.escrow (-n).toNat))).setLease id
            { l' with escrow := l.escrow - Nat.min l.escrow (-n).toNat }) 0))))

/-- R109, R110, R116, R117: the controller's answers to `SUBLET` and `VACATE`; a `VACATE` of a lease that transfers hold, or one of whose subleases is held, waits until the holds have ended, and meanwhile its subleases that nothing holds end. -/
def Claim.saySublets : Prop :=
  ∀ (core : Nat) (s : State) (cur : Cursor) (d a b c : BitVec 5), (s.core core).c.wait.ac + 20 ≤ s.acOf core →
    let S (n : BitVec 5) : Nat := ((s.core core).S n.toNat).toNat
    let p := (s.jobOf core).1
    let j := (s.jobOf core).2
    let id := S a
    let ends (u : State) (status : Nat) (id : Nat) : Prop := ∃ t, exec (.leaseAck core) s = .next t ∧ Claim.answers u cur d.toNat (Claim.word status id) t
    (Claim.Waits s core .lease cur (.sublet d a b c) →
      let len := ((s.core core).S (b.toNat + 1)).toNat
      let till := ((s.core core).S (c.toNat + 1)).toNat
      ((∀ l, Claim.owned s p j id l → 1024 ≤ S c ∨ (s.job p (S c)).valid = false) → ends s 4 0) ∧
      (∀ l, Claim.owned s p j id l → S c < 1024 → (s.job p (S c)).valid = true →
        (l.state ≠ .open_ ∨ l.vacating = true ∨ l.parent ≠ 0 → ends s 5 0) ∧
        (l.state = .open_ → l.vacating = false → l.parent = 0 →
          (l.len < S b + len ∨ till ≤ s.tick ∨ l.paid < till → ends s 6 0) ∧
          (S b + len ≤ l.len → s.tick < till → till ≤ l.paid →
            (s.freeSlot (id / 8192) = none → ends s 3 0) ∧
            (∀ slot, s.freeSlot (id / 8192) = some slot →
              let n := Claim.cost s p len l.tier (till - s.tick)
              (¬ Claim.pays s p (S c) n → ends s 1 0) ∧
              (Claim.pays s p (S c) n →
                let paid := Claim.setBal s p (S c) ((s.purse p (S c)).bal - n)
                ends ((paid.setPurse p j ((paid.purse p j).credit n)).setLease slot
                  { l with
                    state := .open_, arrears := false, sync := false, job := S c, base := l.base + S b, len := len, paid := till
                    lapseAt := 0, parent := id, step := 0, escrow := 0, holds := 0, waiters := 0, rdue := false
                    ranges := sliceRanges l.ranges (S b) len }) 0 slot)))))) ∧
    (Claim.Waits s core .lease cur (.vacate d a) → (s.core core).c.wait.obj = 0 →
      ((∀ l, ¬ Claim.owned s p j id l) → ends s 4 id) ∧
      (∀ l, Claim.owned s p j id l →
        let held := (∃ e ∈ s.leases, e.2.parent = id ∧ id ≠ 0 ∧ e.2.state = .open_) ∨ (l.sync = true ∧ 0 < l.waiters) ∨ (∃ v ∈ s.saves, v.lease = id ∧ v.cancelled = false)
        (l.state = .reclaimed ∨ l.state = .vacated ∨ l.vacating = true → ends s 5 id) ∧
        let sub (e : Nat × Lease) : Prop := e.2.parent = id ∧ id ≠ 0 ∧ (e.2.state = .open_ ∨ e.2.state = .lapsed)
        let busy := l.holds ≠ 0 ∨ ∃ e ∈ s.leases, sub e ∧ e.2.holds ≠ 0
        (¬ (l.state = .reclaimed ∨ l.state = .vacated ∨ l.vacating = true) →
          (held → ends s 7 id) ∧
          (¬ held → ¬ busy → ends (s.vacated id) 0 id) ∧
          (¬ held → busy →
            ((∀ e ∈ s.leases, ¬ sub e) →
              exec (.leaseAck core) s = .next (Claim.waitsOn { s with leases := spSet s.leases id { l with vacating := true }, cur := cur } core)) ∧
            (let subs := s.liveSubs id
             let u := (id :: subs.map (·.1)).foldl (fun (s : State) i => s.modLease i (fun l => { l with vacating := true })) { s with cur := cur }
             let v := (subs.filter (fun e => e.2.holds == 0)).foldl (fun s e => s.endLease e.1 .vacated) u
             ((v.lease id).map (·.vacating) = some true → exec (.leaseAck core) s = .next (Claim.waitsOn v core)))))))

/-- R112, R118, R119: `LEASEQ` goes to the lease's controller and `PURSEQ` to that of the I/O die. The answer of `LEASEQ` is one field of a lease of the job, and all ones for any other id; that of `PURSEQ` is a value of the job's purse. -/
def Claim.sayLeaseReads : Prop :=
  (∀ (d a : BitVec 5) (f tier : BitVec 3) (s : State), Claim.ReadyC s →
    (∃ t, exec (.leaseq d a f) s = .next t ∧ Claim.sentTo s t (((Claim.here s).S a.toNat).toNat / 8192) (.leaseq d a f)) ∧
    (∃ t, exec (.purseq d tier f) s = .next t ∧ Claim.sentTo s t 4 (.purseq d tier f))) ∧
  ∀ (core : Nat) (s : State) (cur : Cursor) (d a : BitVec 5) (f tier : BitVec 3), (s.core core).c.wait.ac + 20 ≤ s.acOf core →
    let p := (s.jobOf core).1
    let j := (s.jobOf core).2
    let q := s.purse p j
    let ends (v : W64) : Prop := ∃ t, exec (.leaseAck core) s = .next t ∧ Claim.answers s cur d.toNat v t
    let id := ((s.core core).S a.toNat).toNat
    (Claim.Waits s core .lease cur (.leaseq d a f) →
      (∀ l, Claim.owned s p j id l →
        let st : Nat := match l.state with
          | .open_ => 0
          | .lapsed => 1
          | .reclaimed => 2
          | .vacated => 3
        ends (BitVec.ofNat 64 (if f = 0 then st + l.arrears.toNat * 4 + l.sync.toNat * 8 + l.tier * 16 else if f = 1 then l.paid else if f = 2 then l.escrow
          else if f = 3 then l.step else if f = 4 then l.base else if f = 5 then l.len else if f = 6 then l.parent else l.job))) ∧
      ((∀ l, ¬ Claim.owned s p j id l) → ends (BitVec.allOnes 64))) ∧
    (Claim.Waits s core .lease cur (.purseq d tier f) →
      ends (if f = 0 then BitVec.ofInt 64 q.bal else BitVec.ofNat 64 (if f = 1 then q.cap
        else if f = 2 then ((s.leases.filter (fun e => e.2.part == p && e.2.job == j)).map (fun e => e.2.escrow)).sum
        else if f = 3 then q.burn else (s.part p).rates.getD tier.toNat 0)))

end Sys2Proof

/-- R109 to R118: `RENT`, `RENEW`, `PREPAY`, `SUBLET`, `VACATE`, `LEASEQ` and `PURSEQ`. -/
def Obligations.Leases : Prop :=
  Claim.sayLeaseWords ∧
  Claim.sayRents ∧
  Claim.sayRenewals ∧
  Claim.saySublets ∧
  Claim.sayLeaseReads

/-- R120, R121, R21, R345: `XLAT` starts a walk for an empty handle (another is HANDLE_BUSY), and leaves it PENDING 24 ac later unless the walk has ended; the walk ends READY with what it found, or FAILED, once no accepted `XINV` over the page is unacknowledged; `HDROP` empties a handle and withdraws its walk. -/
def Obligations.Handles : Prop :=
  (∀ (h a : BitVec 5) (pr : BitVec 2) (s : State), Claim.ReadyC s →
    (bits ((Claim.here s).H h.toNat) 126 2 = 0 →
      let va := ((Claim.here s).S a.toNat).toNat
      let asid := (s.job (s.jobOf s.cur.core).1 (s.jobOf s.cur.core).2).asid.toNat
      ∃ w t, exec (.xlat h a pr) s = .next t ∧
        Claim.HandleIs w 1 1 0 0 0 (pr.toNat % 2) (pr.toNat / 2) 0 (asid % 2 ^ 16) 0 0 (va / 2 ^ 18 % 2 ^ 34) ∧
        (let c := Claim.here s
         Claim.Issued (Claim.with_ s { c with
           ctl := { c.ctl with walks := c.ctl.walks ++ [(h.toNat, va, pr.toNat.testBit 0, pr.toNat.testBit 1)] }
           regs := { c.regs with due := spPut (0, 0) c.regs.due (32 + h.toNat) (Claim.now s + 24, 0) } }) t 1 24 none [.handle h.toNat w])) ∧
    (bits ((Claim.here s).H h.toNat) 126 2 ≠ 0 → ∃ t, exec (.xlat h a pr) s = .next t ∧ Claim.StoppedC s t .handleBusy) ∧
    (∃ c t, exec (.hdrop h) s = .next t ∧
      c = { Claim.here s with
        regs := { (Claim.here s).regs with h := c.regs.h, due := spPut (0, 0) (Claim.here s).regs.due (32 + h.toNat) (0, 0) }
        ctl := { (Claim.here s).ctl with walks := (Claim.here s).ctl.walks.filter (fun w => w.1 != h.toNat) } } ∧
      (∀ m, c.H m = if m = h.toNat then 0 else (Claim.here s).H m) ∧ Claim.Issued (Claim.with_ s c) t 1 1 none [])) ∧
  (∀ (core h : Nat) (s : State) (va : Nat) (rd wr : Bool), (s.core core).ctl.walks.find? (fun w => w.1 == h) = some (h, va, rd, wr) →
    let p := (s.jobOf core).1
    let j := (s.jobOf core).2
    let asid := (s.job p j).asid
    (invCovers s p j va = false → (spGet (0, 0) (s.core core).regs.due (32 + h)).1 ≤ s.acOf core → strays s p j va = false →
      ∃ t, exec (.xlatWalkEnd core h) s = .next t ∧ t = { s with cores := t.cores } ∧ (∀ n, n ≠ core → t.core n = s.core n) ∧
        t.core core = { s.core core with
          regs := { (s.core core).regs with h := (t.core core).regs.h }
          ctl := { (s.core core).ctl with walks := (s.core core).ctl.walks.filter (fun w => w.1 != h) } } ∧
        (∀ m, m ≠ h → (t.core core).H m = (s.core core).H m) ∧
        (∀ l, walk s p j va rd wr = some l → Claim.HandleIs ((t.core core).H h) 2 1 (l.size % 4) (l.target % 4) (l.chip % 2 ^ 12) l.r.toNat l.w.toNat l.sy.toNat
          (asid.toNat % 2 ^ 16) ((spGet 0 s.asidGen asid.toNat).toNat % 2 ^ 16) (l.frame % 2 ^ 34) (va / pageSize l.size * (pageSize l.size / 2 ^ 18) % 2 ^ 34)) ∧
        (walk s p j va rd wr = none → Claim.HandleIs ((t.core core).H h) 3 1 0 0 0 0 0 0 (asid.toNat % 2 ^ 16) 0 0 0)) ∧
    (invCovers s p j va = true → exec (.xlatWalkEnd core h) s = .next s))

namespace Sys2Proof

namespace Claim

/-! ## V on tiles and masks (R124 to R127, R129 to R141, R153, R159 to R164) -/

/-- What a word of V reads on its core; `pops` entries leave CQV (R95, R125). -/
def onCore (s : State) (pops : Nat) : VCtx := ⟨(here s).vec, (here s).csr.srkey, 0, ((here s).cqv.take pops).map (·.2)⟩

/-- What it reads in an update program: the application's registers, the group's SEED as key and the place of the block's first lane (R164). -/
def inApp (s : State) (a : App) : VCtx :=
  ⟨a.vec, BitVec.ofNat 64 (bits (((s.keeper.groups.find? (fun g => g.part == a.part && g.job == a.job && g.group == a.group)).map (·.setup)).getD 0) 282 64), a.block * 1024, []⟩

/-- Flag `b` of V (R25) is among the effects of a word. -/
def flagsIn (effs : List Effect) (b : Nat) : Prop :=
  ∃ e ∈ effs, match e with
    | .flags _ f => f.getLsbD b = true
    | .amax _ _ nan => nan = true ∧ b = 4
    | _ => False

/-- An application goes on as `a'`, and nothing else differs. -/
def appBecomes (s : State) (u : Nat) (a' : App) : State :=
  { s with keeper := { s.keeper with apps := s.keeper.apps.map (fun b => if b.unit = u then a' else b) } }

/-- A word of V that has the effects `effs`. On a core it issues, `occ` ac before the next word, and its effects are written when it retires, `lat` ac later (R125). In an update program they are written at once (R164), and a word that pops CQV ends the application there, as an illegal word does. -/
structure TileWord (i : Instr) (s : State) (occ lat pops : Nat) (effs : VCtx → List Effect) : Prop where
  core : ReadyV s pops → ∃ t, exec i s = .next t ∧
    Issued (with_ s { here s with cqv := (here s).cqv.drop pops }) t occ lat none (effs (onCore s pops))
  unit : ∀ u a, s.cur.unit = some u → s.keeper.apps.find? (fun a => a.unit == u) = some a → pops = 0 →
    ∃ a', exec i s = .next (appBecomes s u a') ∧ a' = { a.next with vec := (effs (inApp s a)).foldl Vec.apply a.vec, flags := a'.flags } ∧
      ∀ b, b < 5 → (a'.flags.getLsbD b = true ↔ a.flags.getLsbD b = true ∨ flagsIn (effs (inApp s a)) b)
  unpopped : ∀ u, s.cur.unit = some u → 0 < pops → exec i s = .next { s with keeper := { s.keeper with
    apps := s.keeper.apps.map (fun a => if a.unit = u then { a with aborted := true } else a) } }

/-- Lane `n` is active (R130). -/
def active (x : VCtx) (k : BitVec 3) (n : Nat) : Prop := (x.vec.K k.toNat).getLsbD n = true

/-- A tile that lists just lanes of `m`, in rising order. -/
def Fits (vals : Tile) (m : BitVec 1024) : Prop := vals.Pairwise (fun p q => p.1 < q.1) ∧ ∀ p ∈ vals, m.getLsbD p.1 = true

/-- A word that writes the active lanes of `Vd`, lane `n` with the value of `f`, and ORs the flags of those lanes (R130). -/
def Lanewise (i : Instr) (s : State) (occ lat pops : Nat) (d : BitVec 4) (k : BitVec 3) (f : VCtx → Nat → W32 × Fl) : Prop :=
  ∃ (vals : VCtx → Tile) (fl : VCtx → Fl),
    TileWord i s occ lat pops (fun x => [.tile d.toNat (x.vec.K k.toNat) (vals x), .flags .v (fl x)]) ∧
    ∀ x, Fits (vals x) (x.vec.K k.toNat) ∧ (∀ n, active x k n → lane (vals x) n = (f x n).1) ∧
      ∀ b, (fl x).getLsbD b = true ↔ ∃ n, active x k n ∧ (f x n).2.getLsbD b = true

/-- A word that writes every lane of `Vd`, and raises no flag. -/
def Whole (i : Instr) (s : State) (lat : Nat) (d : BitVec 4) (f : VCtx → Nat → W32) : Prop :=
  ∃ vals : VCtx → Tile, TileWord i s 4 lat 0 (fun x => [.tile d.toNat (BitVec.allOnes 1024) (vals x)]) ∧
    ∀ x, Fits (vals x) (BitVec.allOnes 1024) ∧ ∀ n, n < 1024 → lane (vals x) n = f x n

/-- Lane `n` of a tile register, as a value (R129). -/
def laneVal (x : VCtx) (ty : BitVec 3) (a : BitVec 4) (n : Nat) : Machine.Num :=
  let w := (lane (x.vec.V a.toNat) n).toNat
  match ty.toNat with
  | 0 => decodeF fmtFP32 w
  | 1 => numOfInt (lane (x.vec.V a.toNat) n).toInt
  | 2 => decodeF fmtBF16 (w / 65536)
  | _ => decodeF fmtFP16 (w % 65536)

/-- Rounded to FP32 in the mode, then to the type (R131), with the draws of the lane (R220): the lane's bits and the flags. -/
def rounded (x : VCtx) (ty : BitVec 3) (mode : Mode) (n : Nat) (r : Machine.Num × Fl) : W32 × Fl :=
  let draw (v : Machine.Num) : Nat := if mode = .sr then srDraw x.key (x.place + n) v else 0
  let y := encodeF fmtFP32 mode false (draw r.1) r.1
  let z := decodeF fmtFP32 y.1
  if ty = 2 then
    let w := encodeF fmtBF16 mode false (draw z) z
    (BitVec.ofNat 32 (w.1 * 65536), r.2 ||| (y.2 ||| w.2))
  else if ty = 3 then
    let w := encodeF fmtFP16 mode false (draw z) z
    (BitVec.ofNat 32 w.1, r.2 ||| (y.2 ||| w.2))
  else (BitVec.ofNat 32 y.1, r.2 ||| y.2)

/-- Lane bits of a tile register. -/
def raw (x : VCtx) (a : BitVec 4) (n : Nat) : W32 := lane (x.vec.V a.toNat) n

end Claim

/-- R129 to R133, R164: V's floating arithmetic writes the active lanes of `Vd`: each is one exact operation, rounded once to FP32 and then to its type, and the flags of the lanes are joined. -/
def Claim.sayVectorFloat : Prop :=
  ∀ (ty : BitVec 3) (d a b c : BitVec 4) (k mode : BitVec 3) (s : State), ty ≠ 1 →
    let m := modeOf mode.toNat
    let v (x : VCtx) (r : BitVec 4) (n : Nat) : Machine.Num := Claim.laneVal x ty r n
    let op (i : Instr) (lat : Nat) (m : Mode) (f : VCtx → Nat → Machine.Num × Fl) : Prop := Claim.Lanewise i s 4 lat 0 d k (fun x n => Claim.rounded x ty m n (f x n))
    op (.vadd ty d a b k mode) 6 m (fun x n => nAdd (m == .rdn) (v x a n) (v x b n)) ∧
    op (.vsub ty d a b k mode) 6 m (fun x n => nAdd (m == .rdn) (v x a n) (v x b n).neg) ∧
    op (.vmul ty d a b k mode) 6 m (fun x n => nMul (v x a n) (v x b n)) ∧
    op (.vfma ty d a b c k mode) 8 m (fun x n => nFma (m == .rdn) (v x a n) (v x b n) (v x c n)) ∧
    op (.vfms ty d a b c k mode) 8 m (fun x n => nFma (m == .rdn) (v x a n) (v x b n) (v x c n).neg) ∧
    op (.vmin ty d a b k) 6 .rne (fun x n => nMinMax false (v x a n) (v x b n)) ∧
    op (.vmax ty d a b k) 6 .rne (fun x n => nMinMax true (v x a n) (v x b n)) ∧
    op (.vrcp ty d a k) 12 .rne (fun x n => nRcp (v x a n)) ∧
    op (.vrsq ty d a k) 12 .rne (fun x n => nRsq (v x a n)) ∧
    op (.vexp2 ty d a k) 12 .rne (fun x n => nExp2 (v x a n)) ∧
    op (.vlog2 ty d a k) 12 .rne (fun x n => nLog2 (v x a n)) ∧
    op (.vtanh ty d a k) 14 .rne (fun x n => nTanh (v x a n)) ∧
    Claim.Lanewise (.vsqrt ty d a k mode) s 16 24 0 d k (fun x n => Claim.rounded x ty m n (nSqrt (v x a n))) ∧
    Claim.Lanewise (.vdiv ty d a b k mode) s 16 24 0 d k (fun x n => Claim.rounded x ty m n (nDiv (v x a n) (v x b n))) ∧
    -- only the sign bit of the type's encoding changes, and no flag is raised
    Claim.Lanewise (.vabs ty d a k) s 4 6 0 d k (fun x n =>
      (if ty = 2 then BitVec.ofNat 32 ((Claim.raw x a n).toNat / 2 ^ 16 % 2 ^ 15 * 2 ^ 16)
       else if ty = 3 then BitVec.ofNat 32 ((Claim.raw x a n).toNat % 2 ^ 15) else BitVec.ofNat 32 ((Claim.raw x a n).toNat % 2 ^ 31), 0)) ∧
    Claim.Lanewise (.vneg ty d a k) s 4 6 0 d k (fun x n =>
      (if ty = 2 then (Claim.raw x a n &&& 0xFFFF0000) ^^^ 0x80000000
       else if ty = 3 then (Claim.raw x a n &&& 0xFFFF) ^^^ 0x8000 else Claim.raw x a n ^^^ 0x80000000, 0)) ∧
    Claim.TileWord .vnop s 1 0 0 (fun _ => [])

/-- R134, R153, R163, R164: V's integer arithmetic wraps mod 2^32; a shift counts by the immediate or by bits [4:0] of a lane; moves and the generator write the active lanes too. -/
def Claim.sayVectorInteger : Prop :=
  ∀ (ty : BitVec 3) (d a b : BitVec 4) (k : BitVec 3) (im : BitVec 1) (n : BitVec 5) (unif : BitVec 2) (s : State),
    let op (i : Instr) (lat : Nat) (f : W32 → W32 → W32) : Prop := Claim.Lanewise i s 4 lat 0 d k (fun x j => (f (Claim.raw x a j) (Claim.raw x b j), 0))
    let by_ (y : W32) : Nat := if im = 1 then n.toNat else y.toNat % 32
    op (.viadd d a b k) 5 (fun x y => BitVec.ofNat 32 (x.toNat + y.toNat)) ∧
    op (.visub d a b k) 5 (fun x y => BitVec.ofInt 32 (x.toInt - y.toInt)) ∧
    op (.vimul d a b k) 7 (fun x y => BitVec.ofNat 32 (x.toNat * y.toNat)) ∧
    op (.vand d a b k) 5 (fun x y => x &&& y) ∧ op (.vor d a b k) 5 (fun x y => x ||| y) ∧ op (.vxor d a b k) 5 (fun x y => x ^^^ y) ∧
    op (.vshl d a b k im n) 5 (fun x y => BitVec.ofNat 32 (x.toNat * 2 ^ by_ y)) ∧
    op (.vshr d a b k im n) 5 (fun x y => BitVec.ofNat 32 (x.toNat / 2 ^ by_ y)) ∧
    op (.vsar d a b k im n) 5 (fun x y => BitVec.ofInt 32 (x.toInt / 2 ^ by_ y)) ∧
    op (.vimin d a b k) 5 (fun x y => BitVec.ofInt 32 (min x.toInt y.toInt)) ∧
    op (.vimax d a b k) 5 (fun x y => BitVec.ofInt 32 (max x.toInt y.toInt)) ∧
    op (.vmov ty d a k) 4 (fun x _ => x) ∧
    Claim.Lanewise (.vmovs k d) s 2 4 1 d k (fun x _ => (BitVec.ofNat 32 (x.pops.headD 0).toNat, 0)) ∧
    Claim.Lanewise (.vrng ty d k unif) s 8 20 3 d k (fun x j =>
      let draw := mixDraw (x.pops.getD 0 0) (((x.pops.getD 1 0).toNat + (x.pops.getD 2 0).toNat * 2 ^ 64 + j) % 2 ^ 128)
      (if unif = 0 ∧ ty = 1 then draw else BitVec.ofNat 32 (roundRne (.fin false (draw.toNat / 256) (-24))).1, 0))

/-- R135 to R137, R153, R164: a compare gives 0 in an inactive lane, NaN is unordered, and a signalling NaN, or any NaN under an order, is invalid; a select writes every lane; masks are formed bit by bit, and K0 is never written. -/
def Claim.sayVectorMasks : Prop :=
  ∀ (ty : BitVec 3) (d a b : BitVec 4) (k cc op : BitVec 3) (m : BitVec 7) (s : State),
    (∃ (mk : VCtx → BitVec 1024) (fl : VCtx → Fl),
      Claim.TileWord (.vcmp ty d a b k cc) s 4 6 0 (fun x => [.mask d.toNat (mk x), .flags .v (fl x)]) ∧
      ∀ x,
        let v (r : BitVec 4) (n : Nat) : Machine.Num := Claim.laneVal x ty r n
        let nan (n : Nat) : Bool := (v a n).isNan || (v b n).isNan
        let x₁ (n : Nat) : Int := (Claim.raw x a n).toInt
        let x₂ (n : Nat) : Int := (Claim.raw x b n).toInt
        (∀ n, n < 1024 → ((mk x).getLsbD n = true ↔ Claim.active x k n ∧
          if ty = 1 then
            match cc.toNat with
            | 0 => x₁ n = x₂ n
            | 1 => x₁ n ≠ x₂ n
            | 2 => x₁ n < x₂ n
            | 3 => x₁ n ≤ x₂ n
            | 4 => x₂ n < x₁ n
            | _ => x₂ n ≤ x₁ n
          else if nan n = true then cc = 1
          else
            match cc.toNat with
            | 0 => nEq (v a n) (v b n) = true
            | 1 => nEq (v a n) (v b n) = false
            | 2 => nLt (v a n) (v b n) = true
            | 3 => nLt (v b n) (v a n) = false
            | 4 => nLt (v b n) (v a n) = true
            | _ => nLt (v a n) (v b n) = false)) ∧
        ∀ i, (fl x).getLsbD i = true ↔ i = 0 ∧ ∃ n, Claim.active x k n ∧ ty ≠ 1 ∧ nan n = true ∧ (2 ≤ cc.toNat ∨ (v a n).isSnan = true ∨ (v b n).isSnan = true)) ∧
    Claim.Whole (.vsel ty d a b k) s 5 d (fun x n => if (x.vec.K k.toNat).getLsbD n = true then Claim.raw x a n else Claim.raw x b n) ∧
    (∃ mk : VCtx → BitVec 1024, Claim.TileWord (.vmsk d a b op m) s 1 2 0 (fun x => [.mask d.toNat (mk x)]) ∧
      ∀ x n, n < 1024 → (mk x).getLsbD n =
        (let p := (x.vec.K a.toNat).getLsbD n
         let q := (x.vec.K b.toNat).getLsbD n
         match op.toNat with
         | 0 => p && q
         | 1 => p || q
         | 2 => p ^^ q
         | 3 => p && !q
         | 4 => !p
         | 5 => decide (n % 64 < m.toNat)
         | _ => decide (n / 64 < m.toNat))) ∧
    (∃ mk : VCtx → BitVec 1024, Claim.TileWord (.vmpop k) s 1 2 16 (fun x => [.mask k.toNat (mk x)]) ∧
      ∀ x, x.pops.length = 16 → ∀ n, n < 1024 → (mk x).getLsbD n = (x.pops.getD (n / 64) 0).getLsbD (n % 64))

end Sys2Proof

/-- R131 to R136: the lane instructions and masks of V. -/
def Obligations.VectorLanes : Prop :=
  Claim.sayVectorFloat ∧
  Claim.sayVectorInteger ∧
  Claim.sayVectorMasks

/-- R159 to R162, R164: conversions round an active lane into its new type, and note the running maximum of their inputs (R161); `VREQ` multiplies, rounds to FP32, and encodes in a format (R219); `VAMAX` notes the maximum alone. -/
def Obligations.VectorConversions : Prop :=
  ∀ (ty dty : BitVec 3) (d a b : BitVec 4) (k mode : BitVec 3) (fmt : BitVec 5) (nonsat code : BitVec 1) (s : State),
    let m := modeOf mode.toNat
    let draw (x : VCtx) (n : Nat) (v : Machine.Num) : Nat := if m = .sr then srDraw x.key (x.place + n) v else 0
    -- the largest magnitude among lanes, as its FP32 code, and whether a lane is NaN (R161)
    let maximum (mx : Option W32) (nan : Bool) (x : VCtx) (v : Nat → Machine.Num) : Prop :=
      (nan = true ↔ ∃ n, n < 1024 ∧ Claim.active x k n ∧ (v n).isNan = true) ∧
      (mx = none ↔ ∀ n, n < 1024 → Claim.active x k n → (v n).isNan = true) ∧
      ∀ w, mx = some w → w.toNat < 2 ^ 31 ∧
        (∃ n, n < 1024 ∧ Claim.active x k n ∧ (v n).isNan = false ∧ w = BitVec.ofNat 32 ((encodeF fmtFP32 .rne false 0 (v n)).1 % 2 ^ 31)) ∧
        ∀ n, n < 1024 → Claim.active x k n → (v n).isNan = false → (encodeF fmtFP32 .rne false 0 (v n)).1 % 2 ^ 31 ≤ w.toNat
    (∃ (vals : VCtx → Tile) (fl : VCtx → Fl) (mx : VCtx → Option W32) (nan : VCtx → Bool),
      let f (x : VCtx) (n : Nat) : W32 × Fl :=
        if ty = 1 ∧ dty = 1 then (Claim.raw x a n, 0)
        else if dty = 1 then
          let r := toInt (Claim.laneVal x ty a n) m (draw x n (Claim.laneVal x ty a n)) (-(2 ^ 31)) (2 ^ 31 - 1)
          (BitVec.ofInt 32 r.1, r.2)
        else Claim.rounded x dty m n (Claim.laneVal x ty a n, 0)
      Claim.TileWord (.vcvt ty d a k dty mode) s 4 6 0 (fun x =>
        [.tile d.toNat (x.vec.K k.toNat) (vals x), .flags .v (fl x)] ++ (if ty = 1 then [] else [.amax .v (mx x) (nan x)])) ∧
      ∀ x, Claim.Fits (vals x) (x.vec.K k.toNat) ∧ (∀ n, Claim.active x k n → lane (vals x) n = (f x n).1) ∧
        (∀ b, (fl x).getLsbD b = true ↔ ∃ n, Claim.active x k n ∧ (f x n).2.getLsbD b = true) ∧
        maximum (mx x) (nan x) x (Claim.laneVal x ty a)) ∧
    (∃ (vals : VCtx → Tile) (fl : VCtx → Fl) (mx : VCtx → Option W32) (nan : VCtx → Bool),
      let p (x : VCtx) (n : Nat) : Machine.Num × Fl := nMul (Claim.laneVal x 0 a n) (Claim.laneVal x 0 b n)
      let y (x : VCtx) (n : Nat) : Machine.Num := decodeF fmtFP32 (encodeF fmtFP32 .rne false 0 (p x n).1).1
      let e (x : VCtx) (n : Nat) : Nat × Fl := encodeFmt fmt.toNat m (nonsat == 1) (draw x n (y x n)) (y x n)
      Claim.TileWord (.vreq d a b k fmt mode nonsat code) s 4 8 0 (fun x =>
        [.tile d.toNat (x.vec.K k.toNat) (vals x), .flags .v (fl x), .amax .v (mx x) (nan x)]) ∧
      ∀ x, Claim.Fits (vals x) (x.vec.K k.toNat) ∧
        (∀ n, Claim.active x k n → lane (vals x) n =
          BitVec.ofNat 32 (if code = 1 then (e x n).1 else (encodeF fmtFP32 .rne false 0 (decodeFmt fmt.toNat (e x n).1)).1)) ∧
        (∀ b, (fl x).getLsbD b = true ↔ ∃ n, Claim.active x k n ∧ ((p x n).2 ||| (encodeF fmtFP32 .rne false 0 (p x n).1).2 ||| (e x n).2).getLsbD b = true) ∧
        maximum (mx x) (nan x) x (y x)) ∧
    (∃ (mx : VCtx → Option W32) (nan : VCtx → Bool), Claim.TileWord (.vamax ty a k) s 4 6 0 (fun x => [.amax .v (mx x) (nan x)]) ∧
      ∀ x, maximum (mx x) (nan x) x (Claim.laneVal x ty a))

namespace Sys2Proof

namespace Claim

/-! ## V across lanes, in memory, and its flow (R138 to R158) -/

/-- `FallRead(line, j)` (R138): the active lane of highest position at or below `j` in the line, else zero. `at_ i` is the lane at position `i`. -/
def Falls (x : VCtx) (a : BitVec 4) (k : BitVec 3) (at_ : Nat → Nat) (j : Nat) (w : W32) : Prop :=
  (∃ i, i ≤ j ∧ active x k (at_ i) ∧ (∀ h, i < h → h ≤ j → ¬ active x k (at_ h)) ∧ w = raw x a (at_ i)) ∨
  ((∀ i, i ≤ j → ¬ active x k (at_ i)) ∧ w = 0)

/-- A word whose lane (row, col) is a point read: a row or column and a position in it, or nothing for zero. -/
def Points (i : Instr) (s : State) (lat : Nat) (d a : BitVec 4) (k : BitVec 3) (pick : VCtx → Nat → Nat → Option (Bool × Nat)) : Prop :=
  ∃ vals : VCtx → Tile, TileWord i s 4 lat 0 (fun x => [.tile d.toNat (BitVec.allOnes 1024) (vals x)]) ∧
    ∀ x, Fits (vals x) (BitVec.allOnes 1024) ∧ ∀ row col, row < 16 → col < 64 →
      match pick x row col with
      | some (true, j) => Falls x a k (fun i => 64 * row + i) j (lane (vals x) (64 * row + col))
      | some (false, j) => Falls x a k (fun i => 64 * i + col) j (lane (vals x) (64 * row + col))
      | none => lane (vals x) (64 * row + col) = 0

/-- R140's procedure after `m` steps, at position `j`: `f` combines the value `2^m` positions before with the value. -/
def scanned {α : Type} (f : α → α → α × Fl) (w : Nat → α) : Nat → Nat → α
  | 0, j => w j
  | m + 1, j => if 2 ^ m ≤ j then (f (scanned f w m (j - 2 ^ m)) (scanned f w m j)).1 else scanned f w m j

/-- A flag that a combination of the procedure raises, in a line of `2^n` lanes. -/
def scanRaises {α : Type} (f : α → α → α × Fl) (w : Nat → α) (n b : Nat) : Prop :=
  ∃ m j, m < n ∧ 2 ^ m ≤ j ∧ j < 2 ^ n ∧ (f (scanned f w m (j - 2 ^ m)) (scanned f w m j)).2.getLsbD b = true

/-- ADD, MAX and MIN of values (R140): ADD rounds to FP32. -/
def combineF (op : BitVec 2) (a b : Machine.Num) : Machine.Num × Fl :=
  match op.toNat with
  | 0 => (decodeF fmtFP32 (encodeF fmtFP32 .rne false 0 (nAdd false a b).1).1, (nAdd false a b).2 ||| (encodeF fmtFP32 .rne false 0 (nAdd false a b).1).2)
  | 1 => nMinMax true a b
  | _ => nMinMax false a b

/-- ADD, MAX and MIN of I32 (R140). -/
def combineI (op : BitVec 2) (a b : W32) : W32 × Fl :=
  match op.toNat with
  | 0 => (a + b, 0)
  | 1 => (BitVec.ofInt 32 (max a.toInt b.toInt), 0)
  | _ => (BitVec.ofInt 32 (min a.toInt b.toInt), 0)

/-- The identities of R138. -/
def identityF (op : BitVec 2) : Machine.Num :=
  match op.toNat with
  | 0 => .fin true 0 0
  | 1 => .inf true
  | _ => .inf false

/-- The identities of R138, for I32. -/
def identityI (op : BitVec 2) : W32 :=
  match op.toNat with
  | 0 => 0
  | 1 => 0x80000000
  | _ => 0x7FFFFFFF

/-- A reduction or a scan (R140) of `lines` lines of `2^n` lanes; `at_ l i` is the lane at position `i` of line `l`. -/
def Scans (i : Instr) (s : State) (lat : Nat) (ty : BitVec 3) (d a : BitVec 4) (k : BitVec 3) (op : BitVec 2) (lines n : Nat) (at_ : Nat → Nat → Nat)
    (reduce : Bool) : Prop :=
  ∃ (vals : VCtx → Tile) (fl : VCtx → Fl), TileWord i s 4 lat 0 (fun x => [.tile d.toNat (BitVec.allOnes 1024) (vals x), .flags .v (fl x)]) ∧
    ∀ x,
      let on (l i : Nat) : Bool := (x.vec.K k.toNat).getLsbD (at_ l i)
      let place (j : Nat) : Nat := if reduce = true then 2 ^ n - 1 else j
      let last (l j : Nat) : Option W32 := scanned (fun a b => (b.orElse (fun _ => a), 0)) (fun i => if on l i = true then some (raw x a (at_ l i)) else none) n j
      let int (l j : Nat) : W32 := scanned (combineI op) (fun i => if on l i = true then raw x a (at_ l i) else identityI op) n j
      let flt (l j : Nat) : Machine.Num := scanned (combineF op) (fun i => if on l i = true then laneVal x ty a (at_ l i) else identityF op) n j
      Fits (vals x) (BitVec.allOnes 1024) ∧
      (∀ l j, l < lines → j < 2 ^ n → lane (vals x) (at_ l j) =
        (if op = 3 then
          match last l (place j) with
          | some w => if ty = 1 then w else
              -- the value of the lane, in its type
              let v := match ty.toNat with
                | 0 => decodeF fmtFP32 w.toNat
                | 2 => decodeF fmtBF16 (w.toNat / 65536)
                | _ => decodeF fmtFP16 (w.toNat % 65536)
              (rounded x ty .rne 0 (v, 0)).1
          | none => 0
        else if ty = 1 then int l (place j) else (rounded x ty .rne 0 (flt l (place j), 0)).1)) ∧
      ∀ b, (fl x).getLsbD b = true ↔ op ≠ 3 ∧ ty ≠ 1 ∧ ∃ l, l < lines ∧
        (scanRaises (combineF op) (fun i => if on l i = true then laneVal x ty a (at_ l i) else identityF op) n b ∨
          ∃ j, j < 2 ^ n ∧ (rounded x ty .rne 0 (flt l (place j), 0)).2.getLsbD b = true)

/-- A fault of V, M or X at issue (R83, R100, R127): its stream freezes at the word, and nothing else of the core differs. With TRAPV 0 the record goes to the supervisor unit (R378); else it waits for C's handler, which it enters at once where it may. -/
structure Trapped (s t : State) (e : Engine) (cause : Cause) : Prop where
  waits : (here s).csr.trapv ≠ 0 → ∃ r : Report, r.cause = cause ∧ r.eng = e ∧ r.pc.toNat = s.cur.pc % 2 ^ 17 ∧
    t = { with_ s { (here s).setStream e { (here s).stream e with run := .frozen } with ctl := { (here s).ctl with faults := (here s).ctl.faults ++ [r] } } with
      agenda := s.agenda ++ [.occur (.trapEntry s.cur.core)] }
  posted : (here s).csr.trapv = 0 → sameButInbox { s with cores := t.cores } t ∧ (∀ n, n ≠ s.cur.core → t.core n = s.core n) ∧
    here t = (here s).setStream e { (here s).stream e with run := .frozen } ∧ Recorded s t (s.jobOf s.cur.core).1 cause.code (s.cur.pc % 2 ^ 17) e.num

/-- The byte offset of an element within record `q` under an iterator (R142); `d2` is the DIM2 that counts. -/
def elemOff (q : BitVec 256) (it : BitVec 128) (d2 i0 i1 i2 i3 size : Nat) : Int :=
  let e (n i : Nat) : Int := if iBc it n = true then 0 else i
  e 0 i0 * size + e 1 i1 * tStride1 q + (e 2 i2 + e 3 i3 * (d2 + 1)) * tStride2 q

/-- The loop of R144: `i1` and `i2` after it, at most `fuel` times round. -/
def rowCarry (dim1 : Nat) : Nat → Nat → Nat → Nat × Nat
  | 0, i1, i2 => (i1, i2)
  | fuel + 1, i1, i2 => if dim1 < i1 then rowCarry dim1 fuel (i1 - (dim1 + 1)) (i2 + 1) else (i1, i2)

/-- IDX of an iterator that has moved on by `rows` rows (R144). -/
def Advanced (it : BitVec 128) (rows : Nat) (idx : BitVec 48) : Prop :=
  let r := rowCarry (iDim it 1) (iIdx it 1 + rows) (iIdx it 1 + rows) (iIdx it 2)
  let i3 := if iDim it 2 < r.2 then iIdx it 3 + 1 else iIdx it 3
  bits idx 0 12 = iIdx it 0 ∧ bits idx 12 12 = r.1 ∧ bits idx 24 12 = (if iDim it 2 < r.2 then 0 else r.2) ∧ bits idx 36 12 = (if iDim it 3 < i3 then 0 else i3)

/-- The core that has issued a word with ADV, and the timer of its write-back: IDX is written 2 ac after issue (R144). -/
def advancing (s : State) (c : Core) (i : Nat) (idx : BitVec 48) : State :=
  let u := with_ s { c with flights := c.flights ++ [⟨c.nextId, .v, 0, [.iter i idx], false, false⟩], nextId := c.nextId + 1 }
  { u with timers := s.timers ++ [⟨.ac (dieOf s.cur.core), now s + 2, some s.cur.core, .instructionRetire s.cur.core .v c.nextId⟩] }

/-- Two states that read alike: they may only list their cores differently. -/
def alike (w u : State) : Prop := u = { w with cores := u.cores } ∧ ∀ n, u.core n = w.core n

/-- Element size of a V type in memory (R142). -/
def elemSize (ty : BitVec 3) : Nat := if ty = 2 ∨ ty = 3 then 2 else 4

/-- Lane bits of an element in memory, by type (R129). -/
def fromMem (ty : BitVec 3) (v : Nat) : W32 := BitVec.ofNat 32 (if ty = 2 then v * 65536 else v)

/-- The element that lane bits store, by type (R129). -/
def toMem (ty : BitVec 3) (w : W32) : Nat := if ty = 2 then w.toNat / 65536 else if ty = 3 then w.toNat % 65536 else w.toNat

/-- A V load of the lanes `act` from record `q` at offsets `off` (R142, R143, R145). A port still held is PORT_BUSY, a record of HBM or an object is RECORD, and an element that fails its check stops the word whole; else the lanes are written `p + 6` ac after issue, and the state at issue is one of `us`. -/
def LoadRuns (i : Instr) (s : State) (q : BitVec 256) (ty : BitVec 3) (d : BitVec 4) (act : Nat → Prop) (off : Nat → Int) (p : Nat) (us : State → Prop) : Prop :=
  (now s < (here s).portR → ∃ t, exec i s = .next t ∧ Trapped s t .v .portBusy) ∧
  ((here s).portR ≤ now s → 1 < tBkind q → ∃ t, exec i s = .next t ∧ Trapped s t .v .record) ∧
  ((here s).portR ≤ now s → tBkind q ≤ 1 →
    (∀ n e, act n → recAccess s s.cur.core q (off n) (elemSize ty) = .error e → ∃ t c, exec i s = .next t ∧ Trapped s t .v c) ∧
    (∀ acc : Nat → Access, (∀ n, act n → recAccess s s.cur.core q (off n) (elemSize ty) = .ok (acc n)) →
      (∀ n k, act n → acc n = .at_ k → s.poisoned k (elemSize ty) = false) →
      ∃ (vals : Tile) (lanes : BitVec 1024) (u t : State), exec i s = .next t ∧ us u ∧ Issued u t 2 (p + 6) none [.tile d.toNat lanes vals] ∧
        (∀ n, n < 1024 → (lanes.getLsbD n = true ↔ act n)) ∧ Fits vals lanes ∧
        ∀ n, act n → lane vals n = match acc n with
          | .at_ k => fromMem ty (s.readNat k (elemSize ty))
          | .zero => 0))

/-- A V store of the lanes `act` of `Vd` (R142, R143, R145). Its bytes are written at issue (log 5: R145 asks for them by retirement); of two lanes that store one byte the higher writes last; a zero-filled one stores nothing. `us` says what else the state at issue has. -/
def StoreRuns (i : Instr) (s : State) (q : BitVec 256) (ty : BitVec 3) (d : BitVec 4) (act : Nat → Prop) (off : Nat → Int) (p : Nat) (us : State → State → Prop) : Prop :=
  (now s < (here s).portW → ∃ t, exec i s = .next t ∧ Trapped s t .v .portBusy) ∧
  ((here s).portW ≤ now s → 1 < tBkind q → ∃ t, exec i s = .next t ∧ Trapped s t .v .record) ∧
  ((here s).portW ≤ now s → tBkind q ≤ 1 →
    (∀ n e, act n → recAccess s s.cur.core q (off n) (elemSize ty) = .error e → ∃ t c, exec i s = .next t ∧ Trapped s t .v c) ∧
    (∀ acc : Nat → Access, (∀ n, act n → recAccess s s.cur.core q (off n) (elemSize ty) = .ok (acc n)) →
      ∃ (w u t : State), exec i s = .next t ∧ us w u ∧ Issued u t 2 (p + 4) none [] ∧
        w = { s with cores := w.cores, mem := w.mem, poison := w.poison } ∧ (∀ n, n ≠ s.cur.core → w.core n = s.core n) ∧
        here w = { here s with portW := now s + p, copy := { (here s).copy with kept := (here w).copy.kept } } ∧
        ∀ a, (∀ n k, act n → acc n = .at_ k → a < k ∨ k + elemSize ty ≤ a) ∧ memByte w.mem a = memByte s.mem a ∨
          ∃ n k, act n ∧ acc n = .at_ k ∧ k ≤ a ∧ a < k + elemSize ty ∧
            (∀ m j, n < m → act m → acc m = .at_ j → a < j ∨ j + elemSize ty ≤ a) ∧
            memByte w.mem a = BitVec.ofNat 8 (toMem ty (lane ((here s).vec.V d.toNat) n) / 256 ^ (a - k))))

end Claim

end Sys2Proof

/-- R138 to R141, R164: rotations, broadcasts and permutes are point reads along a row or a column; reductions and scans follow R140's steps, in its order; every lane of `Vd` is written. -/
def Obligations.VectorAxis : Prop :=
  ∀ (ty : BitVec 3) (d a b : BitVec 4) (k : BitVec 3) (n6 : BitVec 6) (n4 : BitVec 4) (col : BitVec 1) (op : BitVec 2) (s : State),
    Claim.Points (.vrotr ty d a k n6) s 6 d a k (fun _ _ c => some (true, (c + (64 - n6.toNat)) % 64)) ∧
    Claim.Points (.vrotc ty d a k n4) s 10 d a k (fun _ r _ => some (false, (r + (16 - n4.toNat)) % 16)) ∧
    Claim.Points (.vbcr ty d a k n6) s 6 d a k (fun _ _ _ => some (true, n6.toNat)) ∧
    Claim.Points (.vbcc ty d a k n4) s 10 d a k (fun _ _ _ => some (false, n4.toNat)) ∧
    Claim.Points (.vperm ty d a b k col) s (if col = 1 then 12 else 8) d a k (fun x r c =>
      let i := (Claim.raw x b (64 * r + c)).toInt
      if 0 ≤ i ∧ i < (if col = 1 then 16 else 64) then some (col != 1, i.toNat) else none) ∧
    Claim.Scans (.vredr ty d a k op) s 14 ty d a k op 16 6 (fun l i => 64 * l + i) true ∧
    Claim.Scans (.vredc ty d a k op) s 16 ty d a k op 64 4 (fun l i => 64 * i + l) true ∧
    Claim.Scans (.vscanr ty d a k op) s 16 ty d a k op 16 6 (fun l i => 64 * l + i) false ∧
    Claim.Scans (.vscanc ty d a k op) s 18 ty d a k op 64 4 (fun l i => 64 * i + l) false

/-- R142 to R145: V's loads and stores through a record and an iterator, or an index tile. The port is held for 2 ac a slot, or 128; with ADV, IDX moves on 2 ac after issue. -/
def Obligations.VectorMemory : Prop :=
  ∀ (ty : BitVec 3) (d i v : BitVec 4) (r : BitVec 6) (k : BitVec 3) (adv : BitVec 1) (rows : BitVec 4) (s : State), ty.toNat < 4 → Claim.ReadyV s 0 →
    let c := Claim.here s
    let q := c.T r.toNat
    let it := c.I i.toNat
    let n := rows.toNat + 1
    let p := 2 * (if ty.toNat < 2 then n else (n + 1) / 2)
    let on (j : Nat) : Prop := (c.vec.K k.toNat).getLsbD j = true
    let off (j : Nat) : Int := Claim.elemOff q it (iDim it 2) (iIdx it 0 + j % 64) (iIdx it 1 + j / 64) (iIdx it 2) (iIdx it 3) (Claim.elemSize ty)
    let index (j : Nat) : Int := ((lane (c.vec.V v.toNat) j).toNat * Claim.elemSize ty : Nat)
    -- after `w`: with ADV the write-back is under way
    let moved (w u : State) : Prop := if adv = 1 then ∃ idx, Claim.Advanced it n idx ∧ u = Claim.advancing w (Claim.here w) i.toNat idx else Claim.alike w u
    Claim.LoadRuns (.vld ty d r i k adv rows) s q ty d (fun j => on j ∧ j < 64 * n) off p (fun u => moved (Claim.with_ s { c with portR := Claim.now s + p }) u) ∧
    Claim.StoreRuns (.vst ty d r i k adv rows) s q ty d (fun j => on j ∧ j < 64 * n) off p moved ∧
    Claim.LoadRuns (.vgath ty d r v k) s q ty d on index 128 (fun u => u = Claim.with_ s { c with portR := Claim.now s + 128 }) ∧
    Claim.StoreRuns (.vscat ty d r v k) s q ty d on index 128 Claim.alike

namespace Sys2Proof

namespace Claim

/-- One element of a `VMAP` (R67, R147): from the lane bits of the sources and, for `VFMA` and `VFMS`, of the destination. The types are those of the records. -/
def mapped (op : Nat) (ya yb yd : BitVec 3) (x y z : W32) : W32 × Fl :=
  let val (ty : BitVec 3) (w : W32) : Machine.Num := match ty.toNat with
    | 0 => decodeF fmtFP32 w.toNat
    | 2 => decodeF fmtBF16 (w.toNat / 65536)
    | _ => decodeF fmtFP16 (w.toNat % 65536)
  let r (v : Machine.Num × Fl) : W32 × Fl := rounded default yd .rne 0 v
  let sh : Nat := y.toNat % 32
  -- the sign bit alone of a source
  let signed (f : W32 → W32 → W32) : W32 :=
    if ya = 2 then f (x &&& 0xFFFF0000) 0x80000000 else if ya = 3 then f (x &&& 0xFFFF) 0x8000 else f x 0x80000000
  let sign (f : W32 → W32 → W32) : W32 × Fl := if ya = yd then (signed f, 0) else r (val ya (signed f), 0)
  match op with
  | 0x01 => r (nAdd false (val ya x) (val yb y))
  | 0x02 => r (nAdd false (val ya x) (val yb y).neg)
  | 0x03 => r (nMul (val ya x) (val yb y))
  | 0x04 => r (nFma false (val ya x) (val yb y) (val yd z))
  | 0x05 => r (nFma false (val ya x) (val yb y) (val yd z).neg)
  | 0x06 => r (nMinMax false (val ya x) (val yb y))
  | 0x07 => r (nMinMax true (val ya x) (val yb y))
  | 0x08 => sign (fun w s => w &&& ~~~s)
  | 0x09 => sign (fun w s => w ^^^ s)
  | 0x0A => r (nRcp (val ya x))
  | 0x0B => r (nRsq (val ya x))
  | 0x0C => r (nSqrt (val ya x))
  | 0x0D => r (nDiv (val ya x) (val yb y))
  | 0x0E => r (nExp2 (val ya x))
  | 0x0F => r (nLog2 (val ya x))
  | 0x10 => r (nTanh (val ya x))
  | 0x18 => (x + y, 0)
  | 0x19 => (x - y, 0)
  | 0x1A => (x * y, 0)
  | 0x1B => (x &&& y, 0)
  | 0x1C => (x ||| y, 0)
  | 0x1D => (x ^^^ y, 0)
  | 0x1E => (x <<< sh, 0)
  | 0x1F => (x >>> sh, 0)
  | 0x20 => (x.sshiftRight sh, 0)
  | 0x21 => (BitVec.ofInt 32 (min x.toInt y.toInt), 0)
  | _ => (BitVec.ofInt 32 (max x.toInt y.toInt), 0)

/-- The operation codes of R67. -/
def mapCode (op : Nat) : Prop := 1 ≤ op ∧ op ≤ 0x10 ∨ 0x18 ≤ op ∧ op ≤ 0x22

/-- The operations of two operands (R67). -/
abbrev mapTwo (op : Nat) : Prop := 1 ≤ op ∧ op ≤ 7 ∨ op = 0x0D ∨ 0x18 ≤ op

/-- The V type of a record of a `VMAP` (R147): I32, or by its FMT. -/
def mapType (op : Nat) (q : BitVec 256) : BitVec 3 := if 0x18 ≤ op then 1 else if tFmt q = 1 then 2 else if tFmt q = 2 then 3 else 0

/-- What an access reads as lane bits (R129, R143). -/
def fetched (s : State) (ty : BitVec 3) (a : Access) : W32 :=
  match a with
  | .at_ k => fromMem ty (s.readNat k (elemSize ty))
  | .zero => 0

/-- The row step that a `VMAP` makes now: that of the sweep `w` it is in, or the first one of the sweep `new` that its issue begins (R147). -/
def Sweeps (s : State) (may : Prop) (new w : Sweep) : Prop :=
  (s.cur.unit = none ∧ s.cur.eng = .v ∧ (here s).sweep = some w) ∨ (ReadyV s 0 ∧ may ∧ (here s).sweep = none ∧ w = new)

/-- The state in which the row step is made: a sweep that begins has popped its tokens (R60). -/
def sweepFrom (s : State) (w : Sweep) (a : State) : Prop :=
  ((here s).sweep = some w ∧ a = s) ∨
  ((here s).sweep = none ∧ a = with_ s { here s with dowel := (here a).dowel, sweep := some w } ∧
    ∀ p q, (here a).dowelN p q = (here s).dowelN p q - if q = .v then asked s.cur.frame p else 0)

/-- The core of a sweep that stops at a row step: `VMAP` will issue again, and the tokens that it popped are back (R148, log 94). -/
def sweepStops (c : Core) (w : Sweep) (c' : Core) : Prop :=
  c' = { c with dowel := c'.dowel, sweep := none, vtarget := none } ∧
  ∀ p q, c'.dowelN p q = c.dowelN p q + if q = .v then asked w.cur.frame p else 0

/-- One element of `n` bytes, `v`, is written by a word of a stream; a zero-filled one stores nothing. -/
def elemWrite (a b : State) (x : Access) (n v : Nat) : Prop :=
  match x with
  | .zero => b = a
  | .at_ k => b = { a with cores := b.cores, mem := b.mem, poison := b.poison } ∧ (∀ m, m ≠ a.cur.core → b.core m = a.core m) ∧
    here b = { here a with copy := { (here a).copy with kept := (here b).copy.kept } } ∧
    ∀ y, memByte b.mem y = if k ≤ y ∧ y < k + n then BitVec.ofNat 8 (v / 256 ^ (y - k)) else memByte a.mem y

/-- The core's V stream goes on from a loop test as it was, with the loops that `reads` tells. -/
def WritesVL (c c' : Core) (l : Nat) (x : Loop) : Prop :=
  c' = { c with v := { c.v with loops := c'.v.loops } } ∧ ∀ m, m < 4 → c'.v.loops.getD m .zero = if m = l then x else c.v.loops.getD m .zero

/-- A byte of storage after writes, each of bytes at a home, in order. -/
def byteAfter (m : Nat → Byte) : List (Nat × List Byte) → Nat → Byte
  | [], x => m x
  | w :: ws, x => byteAfter (fun y => if w.1 ≤ y ∧ y < w.1 + w.2.length then w.2.getD (y - w.1) 0 else m y) ws x

/-- The writes of bytes over pieces, in their order. -/
def writesOf : List (Nat × Nat) → List Byte → List (Nat × List Byte)
  | [], _ => []
  | p :: ps, bs => (p.1, bs.take p.2) :: writesOf ps (bs.drop p.2)

end Claim

end Sys2Proof

/-- R147 to R149: a `VMAP`. At issue its tokens are popped and its records are read; ports still held are PORT_BUSY and a record that does not fit is RECORD. Then one row step after another runs: its elements are i0 to Min(i0 + 63, DIM0), each read, formed and written before the next, the flags are joined, and IDX is written back. After the last step the word retires, 8 ac after its cost, and V goes on at the target of a `QFLUSH` if one waits; else V and both ports are held for the cost, and the sweep goes on. An element that fails its check is a fault of V before anything of its step is written, and the tokens go back (log 94). -/
def Obligations.VectorMap : Prop :=
  ∀ (op : BitVec 8) (id ia ib : BitVec 4) (ta tb td : BitVec 6) (s : State), Claim.mapCode op.toNat →
    let c := Claim.here s
    let o := op.toNat
    let new : Sweep := ⟨s.cur, .vmap op id ia ib ta tb td, c.T ta.toNat, c.T tb.toNat, c.T td.toNat, c.I ia.toNat, c.I ib.toNat, c.I id.toNat⟩
    let fits (q : BitVec 256) : Prop := tBkind q ≤ 1 ∧ if 0x18 ≤ o then tFmt q = 0 else tFmt q ≤ 2
    let fit : Prop := fits new.ra ∧ fits new.rd ∧ bits new.id 96 4 = 0 ∧ (Claim.mapTwo o → fits new.rb) ∧ (¬ Claim.mapTwo o → ib = 0 ∧ tb = 0)
    let free : Prop := c.portR ≤ Claim.now s ∧ c.portW ≤ Claim.now s
    (Claim.ReadyV s 0 → c.sweep = none → ¬ free → ∃ t, exec (.vmap op id ia ib ta tb td) s = .next t ∧ Claim.Trapped s t .v .portBusy) ∧
    (Claim.ReadyV s 0 → c.sweep = none → free → ¬ fit → ∃ t, exec (.vmap op id ia ib ta tb td) s = .next t ∧ Claim.Trapped s t .v .record) ∧
    ∀ w : Sweep, Claim.Sweeps s (free ∧ fit) new w → ∃ a, Claim.sweepFrom s w a ∧
      (let ya := Claim.mapType o w.ra
       let yb := Claim.mapType o w.rb
       let yd := Claim.mapType o w.rd
       let cost := if o = 4 ∨ o = 5 then 6 else if Claim.mapTwo o then 4 else 2
       let count := Nat.min 64 (iDim w.id 0 + 1 - iIdx w.id 0)
       let off (q : BitVec 256) (n : BitVec 128) (ty : BitVec 3) (e : Nat) : Int :=
         Claim.elemOff q n (iDim w.id 2) (iIdx w.id 0 + e) (iIdx w.id 1) (iIdx w.id 2) (iIdx w.id 3) (Claim.elemSize ty)
       let accA (e : Nat) : Except Cause Access := recAccess a s.cur.core w.ra (off w.ra w.ia ya e) (Claim.elemSize ya)
       let accB (e : Nat) : Except Cause Access := recAccess a s.cur.core w.rb (off w.rb w.ib yb e) (Claim.elemSize yb)
       let accD (e : Nat) : Except Cause Access := recAccess a s.cur.core w.rd (off w.rd w.id yd e) (Claim.elemSize yd)
       (c.vtarget = none → ∀ e x, e < count → accA e = .error x ∨ Claim.mapTwo o ∧ accB e = .error x ∨ accD e = .error x →
         ∃ c2 t y, exec (.vmap op id ia ib ta tb td) s = .next t ∧ Claim.sweepStops (Claim.here a) w c2 ∧ Claim.Trapped (Claim.with_ a c2) t .v y) ∧
       (∀ la lb ld : Nat → Access,
         (∀ e, e < count → accA e = .ok (la e)) → (∀ e, e < count → Claim.mapTwo o → accB e = .ok (lb e)) → (∀ e, e < count → accD e = .ok (ld e)) →
         (∀ e k, e < count → la e = .at_ k → s.poisoned k (Claim.elemSize ya) = false) →
         (∀ e k, e < count → Claim.mapTwo o → lb e = .at_ k → s.poisoned k (Claim.elemSize yb) = false) →
         (∀ e k, e < count → (o = 4 ∨ o = 5) → ld e = .at_ k → s.poisoned k (Claim.elemSize yd) = false) →
         -- the states between the elements, and the state after the step's writes
         ∃ (st : Nat → State) (z t : State), exec (.vmap op id ia ib ta tb td) s = .next t ∧ st 0 = a ∧
           (let r (e : Nat) : W32 × Fl := Claim.mapped o ya yb yd (Claim.fetched (st e) ya (la e)) (if Claim.mapTwo o then Claim.fetched (st e) yb (lb e) else 0)
              (if o = 4 ∨ o = 5 then Claim.fetched (st e) yd (ld e) else 0)
            (∀ e, e < count → Claim.elemWrite (st e) (st (e + 1)) (ld e) (Claim.elemSize yd) (Claim.toMem yd (r e).1)) ∧
            (let d := Claim.here (st count)
             z = Claim.with_ (st count) { d with regs := { d.regs with i := (Claim.here z).regs.i }, csr := { d.csr with fflags := (Claim.here z).csr.fflags } } ∧
             (∀ i, i < 32 → ((Claim.here z).csr.fflags.getLsbD i = true ↔ c.csr.fflags.getLsbD i = true ∨ 8 ≤ i ∧ ∃ e, e < count ∧ (r e).2.getLsbD (i - 8) = true)))) ∧
           (let more : Prop := iIdx w.id 0 + 64 ≤ iDim w.id 0
            let row := Claim.rowCarry (iDim w.id 1) (iIdx w.id 1 + 1) (iIdx w.id 1 + 1) (iIdx w.id 2)
            let i3 := iIdx w.id 3 + if iDim w.id 2 < row.2 then 1 else 0
            let last : Prop := ¬ more ∧ iDim w.id 3 < i3
            let till := Claim.now s + cost
            ∃ idx, (∀ m, (Claim.here z).I m = if m = id.toNat then putBits (c.I m) 48 48 idx else c.I m) ∧
              (more → idx = iIdx w.id 0 + 64 + iIdx w.id 1 * 2 ^ 12 + iIdx w.id 2 * 2 ^ 24 + iIdx w.id 3 * 2 ^ 36) ∧
              (¬ more → idx = row.1 * 2 ^ 12 + (if iDim w.id 2 < row.2 then 0 else row.2) * 2 ^ 24 + (if iDim w.id 3 < i3 then 0 else i3) * 2 ^ 36) ∧
              (last → ∃ u, Claim.alike { Claim.with_ z { Claim.here z with
                  portR := till + 8, portW := till + 8, sweep := none, vtarget := none
                  v := { (Claim.here z).v with loops := if c.vtarget = none then c.v.loops else c.v.loops.map (fun l => { l with act := false }) } } with
                    cur := { s.cur with frame := { s.cur.frame with wait := none } } } u ∧
                Claim.Issued u t (cost + 8) (cost + 8) c.vtarget []) ∧
              (¬ last → Claim.alike (Claim.with_ z { Claim.here z with
                portR := till, portW := till, sweep := some { w with id := putBits w.id 48 48 idx }
                v := { (Claim.here z).v with nextAc := till, wait := .idle, heldFrom := none, broken := none } }) t))))

namespace Sys2Proof

/-- R151, R152, R164: a loop of V opens on its core, or in an update program on its application; `VLOOP.Q` and `VTAKE` pop one entry of CQV. -/
def Claim.sayVectorFlow : Prop :=
  ∀ (l : BitVec 2) (cnt : BitVec 21) (len : BitVec 16) (s : State),
    let c := Claim.here s
    let e : W64 := ((c.cqv.map (·.2)).headD 0)
    let opens (i : Instr) (pops n : Nat) : Prop :=
      Claim.ReadyV s pops →
      let open_ := (c.v.loops.getD l.toNat .zero).act
      let rest : Core := { c with cqv := c.cqv.drop pops }
      let out : Prop := 8 * s.imgLen s.cur.core ≤ s.cur.pc + len.toNat
      (2 ^ 24 ≤ n → ∃ t, exec i s = .next t ∧ Claim.Trapped s t .v .loopcnt) ∧
      (n < 2 ^ 24 → open_ = true → ∃ t, exec i s = .next t ∧ Claim.Trapped s t .v .loopbusy) ∧
      (n < 2 ^ 24 → open_ = false → out → ∃ t, exec i s = .next t ∧ Claim.Trapped s t .v .fetchBounds) ∧
      (n < 2 ^ 24 → open_ = false → ¬ out →
        (n = 0 → ∃ u t, exec i s = .next t ∧ Claim.alike (Claim.with_ s rest) u ∧ Claim.Issued u t 1 0 (some (s.cur.pc + len.toNat + 1)) []) ∧
        (n ≠ 0 → ∃ k t, exec i s = .next t ∧
          Claim.WritesVL rest k l.toNat ⟨true, BitVec.ofNat 24 n, BitVec.ofNat 17 (s.cur.pc + 1), BitVec.ofNat 17 (s.cur.pc + len.toNat)⟩ ∧
          Claim.Issued (Claim.with_ s k) t 1 0 none []))
    opens (.vloop l cnt len) 0 cnt.toNat ∧ opens (.vloopQ l len) 1 e.toNat ∧
    (∀ u a, s.cur.unit = some u → s.keeper.apps.find? (fun a => a.unit == u) = some a → cnt ≠ 0 → (a.loops.getD l.toNat .zero).act = false → a.pc + len.toNat < a.prog.length →
      ∃ ls, exec (.vloop l cnt len) s = .next (Claim.appBecomes s u { a with loops := ls }.next) ∧
        ∀ m, m < 4 → ls.getD m .zero = if m = l.toNat then ⟨true, BitVec.ofNat 24 cnt.toNat, BitVec.ofNat 17 (a.pc + 1), BitVec.ofNat 17 (a.pc + len.toNat)⟩ else a.loops.getD m .zero) ∧
    (Claim.ReadyV s 1 →
      (2 ^ 17 ≤ e.toNat → ∃ t, exec .vtake s = .next t ∧ Claim.Trapped s t .v .vtarget) ∧
      (e.toNat < 2 ^ 17 → e.toNat < 8 ∨ 8 * s.imgLen s.cur.core ≤ e.toNat → ∃ t, exec .vtake s = .next t ∧ Claim.Trapped s t .v .fetchBounds) ∧
      (e.toNat < 2 ^ 17 → 8 ≤ e.toNat → e.toNat < 8 * s.imgLen s.cur.core → ∃ t, exec .vtake s = .next t ∧
        Claim.Issued (Claim.with_ s { c with
          cqv := c.cqv.drop 1
          v := { c.v with loops := c.v.loops.map (fun x => { x with act := x.act && decide (x.start.toNat ≤ e.toNat ∧ e.toNat ≤ x.stop.toNat) }) } }) t 6 0 (some e.toNat) []))

/-- R155 to R157: `VDEFER` writes an entry for each active lane of its rows at the end of the queue, lane by lane; `VDRAIN` fills rows from the oldest entries, notes their lanes, and marks the rest of the rows with ones. The queue's region is checked first, a full queue is OFFCUT_FULL, and OFFCUTN follows at retirement. -/
def Claim.sayOffcutQueue : Prop :=
  ∀ (a c₀ : BitVec 4) (k n : BitVec 3) (first rows : BitVec 4) (s : State), first.toNat + rows.toNat < 16 → Claim.ReadyV s 0 →
    let c := Claim.here s
    let nr := rows.toNat + 1
    let lo := 64 * first.toNat
    let b := c.csr.offcutb.toNat
    let entry (q : Nat) : Nat := keySpm s.cur.core (b + 64 * ((c.head + q) % 512))
    let lanes := (List.range 1024).filter (fun x => (c.vec.K k.toNat).getLsbD x && decide (lo ≤ x ∧ x < lo + 64 * nr))
    let m := Nat.min c.pendn (64 * nr)
    let allowed : Prop := b + 32768 ≤ 2 ^ 20 ∧ checkCovering s (s.jobOf s.cur.core).1 (s.jobOf s.cur.core).2 (keySpm s.cur.core b) 32768 = none
    (Claim.now s < c.portW → ∃ t, exec (.vdefer a k n first rows) s = .next t ∧ Claim.Trapped s t .v .portBusy) ∧
    (Claim.now s < c.portR → ∃ t, exec (.vdrain a c₀ k n first rows) s = .next t ∧ Claim.Trapped s t .v .portBusy) ∧
    (¬ allowed → (c.portW ≤ Claim.now s → ∃ t y, exec (.vdefer a k n first rows) s = .next t ∧ Claim.Trapped s t .v y) ∧
      (c.portR ≤ Claim.now s → ∃ t y, exec (.vdrain a c₀ k n first rows) s = .next t ∧ Claim.Trapped s t .v y)) ∧
    (c.portW ≤ Claim.now s → allowed →
      (512 < c.pendn + lanes.length → ∃ t, exec (.vdefer a k n first rows) s = .next t ∧ Claim.Trapped s t .v .offcutFull) ∧
      (c.pendn + lanes.length ≤ 512 → ∃ w u t : State, exec (.vdefer a k n first rows) s = .next t ∧
        Claim.alike w u ∧ Claim.Issued u t 2 (32 * nr + 4) none [.offcut lanes.length] ∧
        w = { s with cores := w.cores, mem := w.mem, poison := w.poison } ∧ (∀ n, n ≠ s.cur.core → w.core n = s.core n) ∧
        Claim.here w = { c with
          portW := Claim.now s + 32 * nr, pendn := c.pendn + lanes.length, snap := { c.snap with replayable := false }
          copy := { c.copy with kept := (Claim.here w).copy.kept } } ∧
        (∀ q x, lanes[q]? = some x →
          let v := w.readNat (entry (c.pendn + q)) 64
          v < 2 ^ 304 ∧ v / 2 ^ 288 = x ∧ (∀ j, j < n.toNat + 1 → v / 2 ^ (32 * j) % 2 ^ 32 = (lane (c.vec.V (a.toNat + j)) x).toNat) ∧
          ∀ j, n.toNat + 1 ≤ j → j < 9 → v / 2 ^ (32 * j) % 2 ^ 32 = 0) ∧
        ∀ x, (∀ q, q < lanes.length → x < entry (c.pendn + q) ∨ entry (c.pendn + q) + 64 ≤ x) → memByte w.mem x = memByte s.mem x)) ∧
    (c.portR ≤ Claim.now s → allowed → (∀ q, q < m → s.poisoned (entry q) 64 = false) →
      ∃ (vals : Nat → Tile) (nums : Tile) (got all : BitVec 1024) (t : State), exec (.vdrain a c₀ k n first rows) s = .next t ∧
        (let e (q : Nat) : Nat := s.readNat (entry q) 64
         Claim.Issued (Claim.with_ s { c with portR := Claim.now s + 32 * nr, pendn := c.pendn - m, head := (c.head + m) % 512 }) t 2 (32 * nr + 6) none
           ((List.range (n.toNat + 1)).map (fun j => Effect.tile (a.toNat + j) got (vals j)) ++ [.tile c₀.toNat all nums, .mask k.toNat got, .offcut (-(m : Int))]) ∧
         (∀ x, x < 1024 → (got.getLsbD x = true ↔ lo ≤ x ∧ x < lo + m)) ∧ (∀ x, x < 1024 → (all.getLsbD x = true ↔ lo ≤ x ∧ x < lo + 64 * nr)) ∧
         Claim.Fits nums all ∧ (∀ j, Claim.Fits (vals j) got) ∧
         (∀ j q, lo + q < 1024 → q < m → lane (vals j) (lo + q) = BitVec.ofNat 32 (e q / 2 ^ (32 * j))) ∧
         ∀ q, lo + q < 1024 → q < 64 * nr → lane nums (lo + q) = if q < m then BitVec.ofNat 32 (e q / 2 ^ 288 % 2 ^ 16) else 0xFFFFFFFF))

end Sys2Proof

/-- R151 to R156: `VLOOP`, `VTAKE`, the offcut queue and its drain. -/
def Obligations.VectorFlow : Prop :=
  Claim.sayVectorFlow ∧
  Claim.sayOffcutQueue

/-- R164 to R166, R286: the words of update programs, which are illegal to V. `KLDS` reads a cabinet array, the gradient, or a constant of the block's step, for which it waits; `KSTS` and `KEMIT` hold their data until `KSTEP`, which writes them, raises the block's step and leaves the unit; a word that may not be ends the application. -/
def Obligations.KeeperWords : Prop :=
  ∀ (d : BitVec 4) (src : BitVec 8) (src3 : BitVec 3) (fmt : BitVec 5) (mode : BitVec 3) (s : State),
    (s.cur.unit = none → s.cur.eng = .v → ∀ i ∈ [Instr.klds d src, .ksts d src3, .kemit d fmt mode, .kstep], ∃ t, exec i s = .next t ∧ Claim.Trapped s t .v .illop) ∧
    ∀ (u : Nat) (a : App) (g : KGroup), s.cur.unit = some u → s.keeper.apps.find? (fun a => a.unit == u) = some a → s.kgroup a.part a.job a.group = some g →
      let ends (i : Instr) : Prop := exec i s = .next (Claim.appBecomes s u { a with aborted := true })
      let writes (i : Instr) (v : Nat → W32) (fl : Fl) : Prop :=
        ∃ t, exec i s = .next (Claim.appBecomes s u { a.next with vec := a.vec.setV d.toNat t, flags := a.flags ||| fl }) ∧ ∀ n, n < 1024 → lane t n = v n
      (src.toNat < 8 → gArrays g.setup ≤ src.toNat → ends (.klds d src)) ∧
      (src.toNat < 8 → src.toNat < gArrays g.setup →
        let ps := a.arrays.getD src.toNat []
        (s.piecePoison ps = true → ends (.klds d src)) ∧
        (s.piecePoison ps = false → writes (.klds d src) (fun n => BitVec.ofNat 32 (ofBytes (((s.pieceBytes ps).drop (4 * n)).take 4))) 0)) ∧
      (a.grad.poison ≠ [] → ends (.klds d 8)) ∧
      (a.grad.poison = [] → ∃ fl : Fl,
        let n := contBits (khFmt a.grad.kh) / 8
        let sc : Machine.Num := if khScale a.grad.kh = 0 then .fin false 1 0 else decodeF fmtFP32 (khScale a.grad.kh)
        let y (i : Nat) : Machine.Num × Fl := mulRne (decodeFmt (khFmt a.grad.kh) (ofBytes ((a.grad.payload.drop (n * i)).take n))) sc
        writes (.klds d 8) (fun i => BitVec.ofNat 32 (roundRne (y i).1).1) fl ∧ ∀ b, (fl.getLsbD b = true ↔ ∃ i, i < 1024 ∧ (y i).2.getLsbD b = true)) ∧
      (8 < src.toNat →
        (s.keeper.consts.find? (fun k => k.part == a.part && k.job == a.job && k.prog == gProg g.setup && k.tag == a.step) = none → exec (.klds d src) s = .next s) ∧
        ∀ k, s.keeper.consts.find? (fun k => k.part == a.part && k.job == a.job && k.prog == gProg g.setup && k.tag == a.step) = some k →
          (k.hot = true → ends (.klds d src)) ∧ (k.hot = false → writes (.klds d src) (fun _ => k.vals.getD (src.toNat - 32) 0) 0)) ∧
      (gArrays g.setup ≤ src3.toNat ∨ (spFind a.stores src3.toNat).isSome = true → ends (.ksts d src3)) ∧
      (src3.toNat < gArrays g.setup → spFind a.stores src3.toNat = none →
        exec (.ksts d src3) s = .next (Claim.appBecomes s u { a.next with stores := spSet a.stores src3.toNat (a.vec.V d.toNat) })) ∧
      (fmt.toNat ≠ gFmt g.setup ∨ mode.toNat ≠ (if gEsr g.setup = true then 4 else 0) ∨ a.emit.isSome = true → ends (.kemit d fmt mode)) ∧
      (fmt.toNat = gFmt g.setup → mode.toNat = (if gEsr g.setup = true then 4 else 0) → a.emit = none →
        let e := emitBytes g a.block a.step (a.vec.V d.toNat)
        exec (.kemit d fmt mode) s = .next (Claim.appBecomes s u { a.next with emit := some e.1, flags := a.flags ||| e.2 })) ∧
      ∃ t, exec .kstep s = .next t ∧ (∀ b ∈ t.keeper.apps, b.unit ≠ u) ∧
        (g.retiring = 0 →
          (∃ k, t.kgroup a.part a.job a.group = some k ∧ (k.block a.block).applied = a.step ∧
            (k.block a.block).emitted = (if a.emit.isSome = true then a.step else (g.block a.block).emitted) ∧ k.flags = g.flags ||| a.flags) ∧
          -- a fetch that is served writes its destination; a duplicate that has waited may land and end a parked command, which writes an inbox
          ((∀ w ∈ g.waiting, ¬ (w.block = a.block ∧ w.step = a.step)) →
            (∀ w ∈ s.keeper.fetches, ¬ (w.part = a.part ∧ w.job = a.job ∧ w.group = a.group ∧ w.block = a.block)) →
            ∀ x, memByte t.mem x = Claim.byteAfter (memByte s.mem)
              (a.stores.flatMap (fun e => Claim.writesOf (a.arrays.getD e.1 []) ((List.range 1024).flatMap (fun n => toBytes 4 (lane e.2 n).toNat))) ++
                (match a.emit with
                 | some bs => Claim.writesOf a.slot bs
                 | none => [])) x))

namespace Sys2Proof

namespace Claim

/-! ## M: words and operations (R168 to R188) -/

/-- What every word of M does beside its own effect (R44, R60, R168): from the core `k`, with the word's own writes, M goes on to the next word, which may issue 1 ac later, the tokens of WAIT are popped, and those of the engines of `sg` are pushed. -/
def Passed (s : State) (k : Core) (sg : BitVec 4) (k' : Core) : Prop :=
  k' = { k with m := { k.m.next s.cur true none with nextAc := now s + 1, wait := .idle, heldFrom := none, broken := none }, dowel := k'.dowel } ∧
  ∀ p q, k'.dowelN p q = k.dowelN p q - (if q = .m then asked s.cur.frame p else 0) + if p = .m ∧ sg.toNat.testBit q.num = true then 1 else 0

/-- A word that acts on the shadow table alone and retires at issue. -/
def Shadows (i : Instr) (s : State) (pops : Nat) (f : Nest → Nest) : Prop :=
  ∃ k, exec i s = .next (with_ s k) ∧
    Passed s { here s with cqm := (here s).cqm.drop pops, mat := { (here s).mat with shadow := f (here s).mat.shadow } } s.cur.frame.signal k

/-- A nest whose level `l` is changed. -/
def atLevel (l : Nat) (f : Level → Level) (n m : Nest) : Prop :=
  m = { n with levels := m.levels } ∧ ∀ j, j < 6 → m.levels.getD j .zero = if j = l then f (n.levels.getD j .zero) else n.levels.getD j .zero

/-- A field of a level (R173). -/
def levelField (f : Nat) (v : Int) (l : Level) : Level :=
  if f = 0 then { l with count := BitVec.ofInt 12 v }
  else if f = 1 then { l with mstep := BitVec.ofInt 24 v }
  else if f = 2 then { l with kstep := BitVec.ofInt 24 v }
  else if f = 3 then { l with nstep := BitVec.ofInt 24 v }
  else { l with tstep := BitVec.ofInt 4 v }

end Claim

end Sys2Proof

/-- R171 to R175, R188: the words of M that retire at issue. The shadow words write the shadow table, from the immediate or from one entry of CQM; an entry out of range is QVAL, and has been consumed. `MSYNC` marks the streams, unless one is full. -/
def Obligations.MatrixShadow : Prop :=
  ∀ (l : BitVec 4) (f : BitVec 6) (v : BitVec 24) (t : BitVec 6) (n ih iw : BitVec 12) (s : State),
    let c := Claim.here s
    let e : W64 := ((c.cqm.map (·.2)).headD 0)
    let range (i : Instr) : Prop := ∃ t, exec i s = .next t ∧ Claim.Trapped (Claim.with_ s { c with cqm := c.cqm.drop 1 }) t .m .qval
    (Claim.ReadyM s 0 →
      Claim.Shadows .mnop s 0 (fun n => n) ∧
      (l.toNat < 6 → f.toNat < 5 → ∃ m, Claim.atLevel l.toNat (Claim.levelField f.toNat v.toInt) c.mat.shadow m ∧ Claim.Shadows (.mnest l 0 f v) s 0 (fun _ => m)) ∧
      Claim.Shadows (.msrcaRec t n) s 0 (fun m => { m with at_ := t, cin := n }) ∧
      Claim.Shadows (.msrcaDim ih iw) s 0 (fun m => { m with ih := ih, iw := iw }) ∧
      Claim.Shadows (.msrcaRow0 0 v) s 0 (fun m => { m with row0 := v }) ∧
      Claim.Shadows (.msrcbRec t n) s 0 (fun m => { m with bt := t, ncol := n }) ∧
      Claim.Shadows (.msrcbCol0 0 v) s 0 (fun m => { m with col0 := v }) ∧
      ((∃ q, q < 4 ∧ 4 ≤ (c.mat.ops.filter (fun o => o.stream == q)).length) → ∃ t, exec .msync s = .next t ∧ Claim.Trapped s t .m .mqFull) ∧
      ((∀ q, q < 4 → (c.mat.ops.filter (fun o => o.stream == q)).length < 4) →
        ∃ k, exec .msync s = .next (Claim.with_ s k) ∧ Claim.Passed s { c with mat := { c.mat with epoch := c.mat.epoch + 1 } } s.cur.frame.signal k)) ∧
    (Claim.ReadyM s 1 →
      (let good : Prop := if f.toNat = 0 then 1 ≤ e.toNat ∧ e.toNat ≤ 4096 else -(2 ^ 23) ≤ e.toInt ∧ e.toInt < 2 ^ 23
       (l.toNat < 6 → f.toNat < 5 → good → ∃ m, Claim.atLevel l.toNat (Claim.levelField f.toNat (if f.toNat = 0 then e.toNat - 1 else e.toInt)) c.mat.shadow m ∧
         Claim.Shadows (.mnest l 1 f 0) s 1 (fun _ => m)) ∧
       (¬ good → range (.mnest l 1 f 0))) ∧
      (e.toNat < 2 ^ 24 → Claim.Shadows (.msrcaRow0 1 0) s 1 (fun m => { m with row0 := BitVec.ofNat 24 e.toNat }) ∧
        Claim.Shadows (.msrcbCol0 1 0) s 1 (fun m => { m with col0 := BitVec.ofNat 24 e.toNat })) ∧
      (2 ^ 24 ≤ e.toNat → range (.msrcaRow0 1 0) ∧ range (.msrcbCol0 1 0)))

namespace Sys2Proof

namespace Claim

/-- The place of an element of A (R174): byte offset from BASE, whether it is a high nibble, and the SPM offset of its scale; none where it is 0 by position. -/
def aPlace (q : BitVec 256) (n : Nest) (m k : Int) : Option Spot :=
  let kh : Int := bits q 32 4
  let kw : Int := bits q 28 4
  let sh : Int := bits q 25 3
  let sw : Int := bits q 22 3
  let dh : Int := bits q 19 3
  let dw : Int := bits q 16 3
  let ih : Int := n.ih.toNat + 1
  let iw : Int := n.iw.toNat + 1
  let cin : Int := n.cin.toNat + 1
  let oh := (ih + (bits q 12 4 : Nat) + (bits q 8 4 : Nat) - (dh + 1) * kh - 1) / (sh + 1) + 1
  let ow := (iw + (bits q 4 4 : Nat) + (bits q 0 4 : Nat) - (dw + 1) * kw - 1) / (sw + 1) + 1
  let p := k / cin
  let c := k % cin
  let h := m / ow * (sh + 1) - (bits q 12 4 : Nat) + p / (kw + 1) * (dh + 1)
  let w := m % ow * (sw + 1) - (bits q 4 4 : Nat) + p % (kw + 1) * (dw + 1)
  let b : Int := contBits (tFmt q)
  if m < 0 ∨ oh * ow ≤ m ∨ k < 0 ∨ (kh + 1) * (kw + 1) * cin ≤ k ∨ h < 0 ∨ ih ≤ h ∨ w < 0 ∨ iw ≤ w then none
  else some ⟨h * tStride1 q + w * tStride2 q + c * b / 8, decide (b = 4 ∧ c % 2 = 1), tScale q + ((h * iw + w) * cin / 32 + c / 32) * scaleBytes (tFmt q)⟩

/-- OH and OW of R174. -/
def outRows (q : BitVec 256) (n : Nest) : Int :=
  ((n.ih.toNat : Int) + 1 + (bits q 12 4 : Nat) + (bits q 8 4 : Nat) - ((bits q 19 3 : Nat) + 1) * (bits q 32 4 : Nat) - 1) / ((bits q 25 3 : Nat) + 1) + 1
/-- See `outRows`. -/
def outCols (q : BitVec 256) (n : Nest) : Int :=
  ((n.iw.toNat : Int) + 1 + (bits q 4 4 : Nat) + (bits q 0 4 : Nat) - ((bits q 16 3 : Nat) + 1) * (bits q 28 4 : Nat) - 1) / ((bits q 22 3 : Nat) + 1) + 1

/-- The place of an element of B (R174). -/
def bPlace (qa q : BitVec 256) (n : Nest) (k j : Int) : Option Spot :=
  let b : Int := contBits (tFmt q)
  if k < 0 ∨ ((bits qa 32 4 : Nat) + 1) * ((bits qa 28 4 : Nat) + 1) * (n.cin.toNat + 1) ≤ k ∨ j < 0 ∨ n.ncol.toNat + 1 ≤ j then none
  else some ⟨k * tStride1 q + j * b / 8, decide (b = 4 ∧ j % 2 = 1), tScale q + k / 32 * tStride2 q + j * scaleBytes (tFmt q)⟩

/-- Trips of a level. -/
def trips (n : Nest) (l : Nat) : Nat := (n.levels.getD l .zero).count.toNat + 1

/-- Trips of the levels below `l`, which go round inside it: the steps that one trip of level `l` takes. -/
def inner (n : Nest) : Nat → Nat
  | 0 => 1
  | l + 1 => inner n l * trips n l

/-- Steps of a nest (R178). -/
def allSteps (n : Nest) : Nat := inner n n.levels.length

/-- The sum over the levels of the counter of step `i` times a field (R176). -/
def stepSum (n : Nest) (i : Nat) (f : Level → Int) : Int :=
  ((List.range n.levels.length).map (fun l => ((i / inner n l % trips n l : Nat) : Int) * f (n.levels.getD l .zero))).sum

/-- m0, k0, n0 and the tile of step `i` (R176). -/
def rowAt (n : Nest) (i : Nat) : Int := n.row0.toNat + stepSum n i (fun l => l.mstep.toInt)
/-- See `rowAt`. -/
def placeAt (n : Nest) (i : Nat) : Int := stepSum n i (fun l => l.kstep.toInt)
/-- See `rowAt`. -/
def colAt (n : Nest) (i : Nat) : Int := n.col0.toNat + stepSum n i (fun l => l.nstep.toInt)
/-- See `rowAt`. -/
def tileAt (n : Nest) (i : Nat) : Nat := ((n.tb.toNat + stepSum n i (fun l => (l.tstep.toNat : Int))) % 16).toNat

/-- G and the step length of an operand pair: those of the slower format (R177). -/
def groupOf (fa fb : Nat) : Nat × Nat :=
  let class_ (f : Nat) : Nat × Nat := if f = 0 then (32, 256) else if f = 0x13 then (32, 64) else if f = 1 ∨ f = 2 then (32, 32) else if contBits f = 4 then (128, 32) else (64, 32)
  if (class_ fa).2 ≠ (class_ fb).2 then (if (class_ fa).2 < (class_ fb).2 then class_ fb else class_ fa)
  else if (class_ fa).1 ≤ (class_ fb).1 then class_ fa else class_ fb

/-- An element that some step reads. -/
def readsA (qa qb : BitVec 256) (n : Nest) (e : Spot) : Prop :=
  ∃ i r g, i < allSteps n ∧ r < 64 ∧ g < (groupOf (tFmt qa) (tFmt qb)).1 ∧ aPlace qa n (rowAt n i + (r : Nat)) (placeAt n i + (g : Nat)) = some e
/-- See `readsA`. -/
def readsB (qa qb : BitVec 256) (n : Nest) (e : Spot) : Prop :=
  ∃ i j g, i < allSteps n ∧ j < 32 ∧ g < (groupOf (tFmt qa) (tFmt qb)).1 ∧ bPlace qa qb n (placeAt n i + (g : Nat)) (colAt n i + (j : Nat)) = some e

/-- The lowest byte that elements of `n` bytes at the offsets of `P` take, and the first past the highest; none where there is no element. -/
def Spans (P : Int → Prop) (n : Nat) (r : Option (Int × Int)) : Prop :=
  match r with
  | none => ∀ o, ¬ P o
  | some (lo, hi) => P lo ∧ P (hi - n) ∧ ∀ o, P o → lo ≤ o ∧ o + n ≤ hi

/-- An element lies within the limit of its record (R176): Min(EXTENT, tier size − BASE). -/
def within (q : BitVec 256) (o : Int) : Prop := 0 ≤ o ∧ o + Nat.max 1 (contBits (tFmt q) / 8) ≤ window q

/-- The range check of R176 passes for the elements of `P`: with BOUNDS 0 all lie within the limit, the lease passes, and what can be read, from byte `r.1` to before `r.2`, lies within it. -/
def rangeGood (s : State) (q : BitVec 256) (P : Int → Prop) (r : Option (Int × Int)) : Prop :=
  let pj := s.jobOf s.cur.core
  (tBounds q = 0 → ∀ o, P o → within q o) ∧
  ∃ l, leaseCheck s pj.1 pj.2 (tLease q) = .ok l ∧ ∀ lo hi, r = some (lo, hi) → l.holdsRange (keyTier s.cur.core (tBkind q) (tBase q + lo.toNat)) (hi - lo).toNat = true

/-- A scale array lies within the SPM (R10) and a covering lease of the job (R90, R176), and the leases that are held for it. -/
def scaleGood (s : State) (r : Option (Int × Int)) (ids : List Nat) : Prop :=
  let pj := s.jobOf s.cur.core
  match r with
  | none => ids = []
  | some (lo, hi) => 0 ≤ lo ∧ hi ≤ 2 ^ 20 ∧ checkCovering s pj.1 pj.2 (keySpm s.cur.core lo.toNat) (hi - lo).toNat = none ∧ ids = [coveringLease s pj.1 pj.2 (keySpm s.cur.core lo.toNat) (hi - lo).toNat]

/-- The operation that the word under the cursor places. -/
def placed (s : State) (i : Instr) (stream : Nat) (ra rb : BitVec 256) (leases : List Nat) (late : Bool) : MOp :=
  let c := here s
  { id := c.nextId, stream := stream, word := s.cur.word, instr := i, pc := BitVec.ofNat 17 s.cur.pc, codePos := if s.cur.packed = true then s.cur.codePos else 0
    signal := if late = true then s.cur.frame.signal else 0, started := false, steps := 0, epoch := c.mat.epoch, nest := c.mat.shadow, ra := ra, rb := rb
    leases := leases, tol := c.csr.tol, srkey := c.csr.srkey, flags := 0, amax := none, amaxNan := false, ending := false, check := 0 }

/-- The word under the cursor places an operation at the tail of its stream (R169), which looks at once whether it may start; each of its leases is held. A word that retires with its operation pushes its tokens then. -/
structure Places (i : Instr) (s : State) (op : MOp) (late : Bool) (t : State) : Prop where
  runs : exec i s = .next t
  rest : t = { s with cores := t.cores, leases := t.leases, agenda := s.agenda ++ [.occur (.mOperationStart s.cur.core op.stream)] }
  others : ∀ n, n ≠ s.cur.core → t.core n = s.core n
  core : Passed s { here s with mat := { (here s).mat with ops := (here s).mat.ops ++ [op] }, nextId := (here s).nextId + 1 } (if late = true then 0 else s.cur.frame.signal) (here t)
  held : ∀ id, t.lease id = (s.lease id).map (fun l => { l with holds := l.holds + op.leases.count id })

/-- A word that faults at issue. -/
def Faults (i : Instr) (s : State) (y : Cause → Prop) : Prop := ∃ t c, exec i s = .next t ∧ Trapped s t .m c ∧ y c

end Claim

end Sys2Proof

/-- R168, R169, R171, R174, R176, R177, R182 to R185, R187: the words of M that place an operation, with every check made at issue. A fifth operation in a stream is MQ_FULL. -/
def Obligations.MatrixPlacing : Prop :=
  ∀ (st : BitVec 2) (x : BitVec 4) (t y seed : BitVec 6) (n : BitVec 12) (mask : BitVec 16) (check : BitVec 24) (i32 chk nonsat : BitVec 1) (mode : BitVec 3) (s : State), Claim.ReadyM s 0 →
    let c := Claim.here s
    let pj := s.jobOf s.cur.core
    let full : Prop := 4 ≤ (c.mat.ops.filter (fun o => o.stream == st.toNat)).length
    let places (i : Instr) (ra rb : BitVec 256) (ls : List Nat) (late : Bool) : Prop := ∃ t, Claim.Places i s (Claim.placed s i st.toNat ra rb ls late) late t
    (full → ∀ i ∈ [Instr.mgo st, .mloadb t st y n, .mdrain x t st i32 chk nonsat mode, .mzero st mask, .mchkOn st mask, .mchkOff st mask, .mdry x seed st check], Claim.Faults i s (· = .mqFull)) ∧
    (¬ full →
      (∀ i ∈ [Instr.mzero st mask, .mchkOn st mask, .mchkOff st mask, .mdry x seed st check], places i 0 0 [] false) ∧
      -- MLOADB
      (let a := c.T t.toNat
       let b := c.T y.toNat
       let len : Nat := 64 * (n.toNat + 1)
       let leased (q : BitVec 256) (k : Nat) : Prop := ∃ l, leaseCheck s pj.1 pj.2 (tLease q) = .ok l ∧ l.holdsRange k len = true
       let kinds : Prop := tBkind a = 0 ∧ tBkind b = 1
       let aligned : Prop := 64 ∣ tBase a ∧ 64 ∣ tBase b
       let fits : Prop := len ≤ window a ∧ len ≤ window b
       let good : Prop := leased a (keySpm s.cur.core (tBase a)) ∧ leased b (keyMsm s.cur.core (tBase b))
       (¬ kinds → Claim.Faults (.mloadb t st y n) s (· = .record)) ∧ (kinds → ¬ aligned → Claim.Faults (.mloadb t st y n) s (· = .align)) ∧
       (kinds → aligned → ¬ fits → Claim.Faults (.mloadb t st y n) s (· = .bounds)) ∧
       (kinds → aligned → fits → ¬ good → Claim.Faults (.mloadb t st y n) s (fun z => z = .expiry ∨ z = .nolease)) ∧
       (kinds → aligned → fits → good → places (.mloadb t st y n) a b [tLease a, tLease b] false)) ∧
      -- MGO
      (let sh := c.mat.shadow
       let a := c.T sh.at_.toNat
       let b := c.T sh.bt.toNat
       let int (f : Nat) : Prop := f = 0x08 ∨ f = 0x09 ∨ f = 0x0A ∨ f = 0x0B
       let fit : Prop := tBkind a = 0 ∧ tBkind b = 1 ∧ tBounds a ≠ 1 ∧ tBounds b ≠ 1 ∧ 0 < Claim.outRows a sh ∧ 0 < Claim.outCols a sh ∧
         ((isBlock (tFmt a) = true ∨ isBlock (tFmt b) = true) → 32 ∣ sh.cin.toNat + 1) ∧ (int (tFmt a) ↔ int (tFmt b)) ∧ (sh.acc = true ↔ int (tFmt a))
       let aligned : Prop := ∀ q ∈ [a, b], (4 : Int) ∣ tBase q ∧ 4 ∣ tStride1 q ∧ 4 ∣ tStride2 q
       let inA (o : Int) : Prop := ∃ e, Claim.readsA a b sh e ∧ e.off = o
       let inB (o : Int) : Prop := ∃ e, Claim.readsB a b sh e ∧ e.off = o
       let size (q : BitVec 256) : Nat := Nat.max 1 (contBits (tFmt q) / 8)
       (¬ fit → Claim.Faults (.mgo st) s (· = .record)) ∧ (fit → ¬ aligned → Claim.Faults (.mgo st) s (· = .align)) ∧
       (fit → aligned → ∀ ra rb sa sb, Claim.Spans (fun o => inA o ∧ Claim.within a o) (size a) ra → Claim.Spans (fun o => inB o ∧ Claim.within b o) (size b) rb →
         Claim.Spans (fun o => isBlock (tFmt a) = true ∧ ∃ e, Claim.readsA a b sh e ∧ Claim.within a e.off ∧ (e.scale : Int) = o) (scaleBytes (tFmt a)) sa →
         Claim.Spans (fun o => isBlock (tFmt b) = true ∧ ∃ e, Claim.readsB a b sh e ∧ Claim.within b e.off ∧ (e.scale : Int) = o) (scaleBytes (tFmt b)) sb →
         let good (la lb : List Nat) : Prop := Claim.rangeGood s a inA ra ∧ Claim.rangeGood s b inB rb ∧ Claim.scaleGood s sa la ∧ Claim.scaleGood s sb lb
         ((∀ la lb, ¬ good la lb) → Claim.Faults (.mgo st) s (fun z => z = .bounds ∨ z = .expiry ∨ z = .nolease)) ∧
         (∀ la lb, good la lb → places (.mgo st) a b ([tLease a, tLease b] ++ la ++ lb) true))) ∧
      -- MDRAIN
      (let q := c.T t.toNat
       let f := tFmt q
       let int (f : Nat) : Prop := f = 0x08 ∨ f = 0x09 ∨ f = 0x0A ∨ f = 0x0B
       let fit : Prop := tBkind q = 0 ∧ tBounds q ≠ 1 ∧ (i32 = 1 → int f ∨ f = 0) ∧ (nonsat = 1 → ¬ (int f ∨ f = 0 ∨ f = 1 ∨ f = 2 ∨ f = 0x13))
       let aligned : Prop := (4 : Int) ∣ tBase q ∧ 4 ∣ tStride1 q
       let off (row col : Nat) : Int := row * tStride1 q + (col * contBits f / 8 : Nat)
       let writes (o : Int) : Prop := ∃ row col, row < 64 ∧ col < 32 ∧ off row col = o
       (¬ fit → Claim.Faults (.mdrain x t st i32 chk nonsat mode) s (· = .record)) ∧ (fit → ¬ aligned → Claim.Faults (.mdrain x t st i32 chk nonsat mode) s (· = .align)) ∧
       (fit → aligned → ∀ r sc, Claim.Spans (fun o => writes o ∧ Claim.within q o) (Nat.max 1 (contBits f / 8)) r →
         Claim.Spans (fun o => isBlock f = true ∧ ∃ row col, row < 64 ∧ col < 32 ∧ Claim.within q (off row col) ∧ ((tScale q + row * scaleBytes f : Nat) : Int) = o) (scaleBytes f) sc →
         let good (ls : List Nat) : Prop := Claim.rangeGood s q writes r ∧ (∀ lo hi, sc = some (lo, hi) → hi ≤ 2 ^ 20) ∧ Claim.scaleGood s sc ls
         ((∀ ls, ¬ good ls) → Claim.Faults (.mdrain x t st i32 chk nonsat mode) s (fun z => z = .bounds ∨ z = .expiry ∨ z = .nolease)) ∧
         (∀ ls, good ls → places (.mdrain x t st i32 chk nonsat mode) 0 q (tLease q :: ls) true))))

namespace Sys2Proof

namespace Claim

/-- The length in ac of the next step of an operation (R170, R177). -/
def stepLength (o : MOp) : Nat :=
  match o.instr with
  | .mgo _ => (groupOf (tFmt o.ra) (tFmt o.rb)).2 + if o.steps = 0 then 12 else 0
  | .mdrain .. | .mloadb .. => 8
  | .mzero .. | .mchkOn .. | .mchkOff .. => 2
  | _ => 32

/-- Steps of an operation (R170). -/
def stepsOf (o : MOp) : Nat :=
  match o.instr with
  | .mgo _ => allSteps o.nest
  | .mdrain _ _ _ _ chk _ _ => 8 + chk.toNat
  | .mloadb _ _ _ n => (n.toNat + 1 + 15) / 16
  | .mzero _ mask | .mchkOn _ mask | .mchkOff _ mask => ((List.range 16).filter (fun x => mask.toNat.testBit x)).length
  | _ => 1

/-- The head of stream `q` of core `n`. -/
def headOf (s : State) (n q : Nat) : Option MOp := ((s.core n).mat.ops.filter (fun o => o.stream == q)).head?

/-- The state with `f` done to M of a core. -/
def withMat (s : State) (n : Nat) (f : Mat → Mat) : State := s.setCore n { s.core n with mat := f (s.core n).mat }

/-- M may take a step of this operation. -/
def mayStep (o : MOp) : Bool := o.started && !o.ending && o.check == 0

/-- M goes on from `u`, with no step under way (R170): the next step is of the first stream after the one just served whose head may step. -/
def NextStep (u t : State) (n : Nat) : Prop :=
  let m := (u.core n).mat
  let free (q : Nat) : Prop := ∀ o, headOf u n q = some o → mayStep o = false
  if m.stepping.isSome = true ∨ (u.core n).seat.stopping = true ∨ (u.core n).health.recovering.isSome = true then t = u
  else
    ((∀ q, q < 4 → free q) → t = u) ∧
    ∀ i o, 1 ≤ i → i ≤ 4 → (∀ j, 1 ≤ j → j < i → free ((m.served + j) % 4)) → headOf u n ((m.served + i) % 4) = some o → mayStep o = true →
      t = { withMat u n (fun m => { m with served := (m.served + i) % 4, stepping := some o.id, stepDue := u.acOf n + stepLength o }) with
        timers := u.timers ++ [⟨.ac (dieOf n), u.acOf n + stepLength o, some n, .mStep n⟩] }

/-- The `VACATE`s that end next: those of the leases among `ids` that have no hold left in `u` (R117). -/
def vacates (u : State) (ids : List Nat) : List Turn :=
  (ids.eraseDups.filter (fun id => (u.lease id).any (fun l => l.vacating && l.holds == 0))).map (fun id => .occur (.vacateComplete id))

/-- An operation completes (R169, R171): it leaves its stream, its holds end, its flags are ORed into M's field, its maximum joins AMAX, and the tokens of its word are pushed. -/
structure Completes (v u : State) (n : Nat) (o : MOp) : Prop where
  rest : u = { v with cores := u.cores, leases := u.leases, agenda := v.agenda ++ vacates u o.leases }
  others : ∀ k, k ≠ n → u.core k = v.core k
  core : u.core n = { v.core n with
    mat := { (v.core n).mat with ops := (v.core n).mat.ops.filter (fun x => x.id != o.id) }
    csr := { (v.core n).csr with fflags := (u.core n).csr.fflags, amax := (u.core n).csr.amax }
    dowel := (u.core n).dowel }
  flags : ∀ j, j < 32 → (u.core n).csr.fflags.toNat.testBit j =
    ((v.core n).csr.fflags.toNat.testBit j || (decide (16 ≤ j ∧ j < 21) && o.flags.toNat.testBit (j - 16)) || (decide (j = 20) && o.amaxNan))
  amax : (u.core n).csr.amax = match o.amax with
    | none => (v.core n).csr.amax
    | some m => if 2 ^ 31 ≤ (v.core n).csr.amax.toNat ∨ 0x7F800000 < (v.core n).csr.amax.toNat ∨ (v.core n).csr.amax.toNat < m.toNat then m else (v.core n).csr.amax
  dowels : ∀ p q, (u.core n).dowelN p q = (v.core n).dowelN p q + if p = .m ∧ o.signal.toNat.testBit q.num = true then 1 else 0
  held : ∀ id, u.lease id = (v.lease id).map (fun l => { l with holds := l.holds - o.leases.count id })

/-- What follows the effect of a step of `o` in state `v`, with no step under way: `o` becomes `o'`; at its last step a nest completes 8 ac later and any other operation at once (R170); then M goes on. -/
def EndsStep (s v : State) (n : Nat) (o o' : MOp) : Prop :=
  ∃ u, exec (.mStep n) s = .next ((u.goOn n).stir n) ∧
    let placed (x : MOp) : State := withMat v n (fun m => { m with ops := m.ops.map (fun y => if y.id = o.id then x else y) })
    if o.steps + 1 < stepsOf o then u = placed o'
    else match o.instr with
      | .mgo _ => u = { placed { o' with ending := true } with timers := v.timers ++ [⟨.ac (dieOf n), v.acOf n + 8, some n, .nestComplete n o.id⟩] }
      | _ => Completes v u n o'

/-- Sums of a tile formed from its contents (R184, R234). -/
def seeded (m m' : Mat) (x : Nat) : Prop :=
  (∀ r, r < 64 → spGet 0 m'.rho (x * 64 + r) = tileSum (m.int32.toNat.testBit x) ((List.range 32).map (fun j => lane (m.A x) (r * 32 + j)))) ∧
  (∀ j, j < 32 → spGet 0 m'.gam (x * 32 + j) = tileSum (m.int32.toNat.testBit x) ((List.range 64).map (fun r => lane (m.A x) (r * 32 + j))))

end Claim

end Sys2Proof

/-- R169, R170, R176, R178, R182 to R188: M's operations at work. The head of a stream starts when no operation placed before a marker remains; M then takes one step at a time, in the cyclic order of the streams. A step of a nest adds one K-group to each element of its tile; `MZERO` and `MCHK` take one tile, `MLOADB` 16 granules, and a `MDRAIN` writes 8 rows; `MDRY` compares its sum. Stated for steps that read no poison, of operations that neither a restore nor a fault has stopped, with no list of written granules kept for a rollback. -/
def Obligations.MatrixSteps : Prop :=
  ∀ (n : Nat) (o : MOp) (s : State),
    let c := s.core n
    (∀ q, Claim.headOf s n q = none ∨ (Claim.headOf s n q = some o ∧ ((∃ x ∈ c.mat.ops, x.epoch < o.epoch) ∨ c.seat.stopping = true ∨ c.health.recovering.isSome = true)) →
      ∃ t, exec (.mOperationStart n q) s = .next t ∧ Claim.NextStep s t n) ∧
    (∀ q, Claim.headOf s n q = some o → (∀ x ∈ c.mat.ops, o.epoch ≤ x.epoch) → c.seat.stopping = false → c.health.recovering = none → o.check = 0 →
      ∃ t, exec (.mOperationStart n q) s = .next t ∧
        Claim.NextStep (Claim.withMat s n (fun m => { m with ops := m.ops.map (fun x => if x.id = o.id then { x with started := true } else x) })) t n) ∧
    (∀ id, c.mat.ops.find? (fun x => x.id == id && x.ending) = some o → ∃ u, exec (.nestComplete n id) s = .next ((u.goOn n).stir n) ∧ Claim.Completes s u n o) ∧
    (c.mat.stepping = some o.id → o ∈ c.mat.ops → (∀ x ∈ c.mat.ops, x.id = o.id → x = o) → c.mat.stepDue ≤ s.acOf n → o.check = 0 → s.poison = [] → c.copy.kept = [] →
      let idle : Mat := { c.mat with stepping := none }
      let next : MOp := { o with steps := o.steps + 1 }
      let tile (mask : BitVec 16) : Nat := ((List.range 16).filter (fun x => mask.toNat.testBit x)).getD o.steps 0
      let after (m : Mat) : State := Claim.withMat s n (fun _ => m)
      (∀ q, o.instr = .mgo q →
        let sh := o.nest
        let i := o.steps
        let G := (Claim.groupOf (tFmt o.ra) (tFmt o.rb)).1
        let x := Claim.tileAt sh i
        let a (r g : Nat) : Machine.Num := spotVal s n o.ra ((⟨o.ra, o.rb, sh⟩ : Unfold).aSpot (Claim.rowAt sh i + r) (Claim.placeAt sh i + g))
        let b (j g : Nat) : Machine.Num := spotVal s n o.rb (Claim.bPlace o.ra o.rb sh (Claim.placeAt sh i + g) (Claim.colAt sh i + j))
        let first : Bool := sh.first && decide (Claim.placeAt sh i = 0)
        let sum (old : W32) (as bs : Nat → Machine.Num) : W32 × Fl := accumulate sh.acc first old ((List.range G).map as) ((List.range G).map bs)
        let on := c.mat.chkOn.toNat.testBit x
        ∃ m f, Claim.EndsStep s (after m) n o { next with flags := f } ∧ m = { idle with a := m.a, int32 := m.int32, rho := m.rho, gam := m.gam } ∧
          (∀ y r j, r < 64 → j < 32 → lane (m.A y) (r * 32 + j) = if y = x then (sum (lane (c.mat.A x) (r * 32 + j)) (a r) (b j)).1 else lane (c.mat.A y) (r * 32 + j)) ∧
          (∀ k, f.toNat.testBit k = true ↔ o.flags.toNat.testBit k = true ∨ ∃ r j, r < 64 ∧ j < 32 ∧ (sum (lane (c.mat.A x) (r * 32 + j)) (a r) (b j)).2.toNat.testBit k = true) ∧
          (∀ y, y < 16 → m.int32.toNat.testBit y = if y = x then sh.acc else c.mat.int32.toNat.testBit y) ∧
          (∀ y r, r < 64 → spGet 0 m.rho (y * 64 + r) = if y = x ∧ on = true then (sum (spGet 0 c.mat.rho (x * 64 + r)) (a r) (fun g => exactSum ((List.range 32).map (fun j => b j g)))).1 else spGet 0 c.mat.rho (y * 64 + r)) ∧
          (∀ y j, j < 32 → spGet 0 m.gam (y * 32 + j) = if y = x ∧ on = true then (sum (spGet 0 c.mat.gam (x * 32 + j)) (fun g => exactSum ((List.range 64).map (fun r => a r g))) (b j)).1 else spGet 0 c.mat.gam (y * 32 + j))) ∧
      (∀ q mask, o.instr = .mzero q mask → ∃ m, Claim.EndsStep s (after m) n o next ∧ m = { idle with a := m.a, rho := m.rho, gam := m.gam } ∧
        (∀ y k, lane (m.A y) k = if y = tile mask then 0 else lane (c.mat.A y) k) ∧
        (∀ y r, r < 64 → spGet 0 m.rho (y * 64 + r) = if y = tile mask then 0 else spGet 0 c.mat.rho (y * 64 + r)) ∧
        (∀ y j, j < 32 → spGet 0 m.gam (y * 32 + j) = if y = tile mask then 0 else spGet 0 c.mat.gam (y * 32 + j))) ∧
      (∀ q mask, o.instr = .mchkOn q mask → ∃ m, Claim.EndsStep s (after m) n o next ∧ m = { idle with chkOn := m.chkOn, rho := m.rho, gam := m.gam } ∧
        (∀ y, y < 16 → m.chkOn.toNat.testBit y = (c.mat.chkOn.toNat.testBit y || decide (y = tile mask))) ∧ Claim.seeded c.mat m (tile mask) ∧
        (∀ y, y ≠ tile mask → (∀ r, r < 64 → spGet 0 m.rho (y * 64 + r) = spGet 0 c.mat.rho (y * 64 + r)) ∧ ∀ j, j < 32 → spGet 0 m.gam (y * 32 + j) = spGet 0 c.mat.gam (y * 32 + j))) ∧
      (∀ q mask, o.instr = .mchkOff q mask → ∃ m, Claim.EndsStep s (after m) n o next ∧ m = { idle with chkOn := m.chkOn } ∧
        ∀ y, y < 16 → m.chkOn.toNat.testBit y = (c.mat.chkOn.toNat.testBit y && decide (y ≠ tile mask))) ∧
      (∀ k seed q check, o.instr = .mdry k seed q check → dryCheck k.toNat seed.toNat = check.toNat → Claim.EndsStep s (after idle) n o next) ∧
      (∀ t q y k, o.instr = .mloadb t q y k →
        let lo := 1024 * o.steps
        let len := min 1024 (64 * (k.toNat + 1) - lo)
        ∃ v, Claim.EndsStep s v n o next ∧ v = { after idle with mem := v.mem } ∧
          ∀ z, memByte v.mem z = Claim.byteAfter (memByte s.mem) [(keyMsm n (tBase o.rb + lo), memBytes s.mem (keySpm n (tBase o.ra + lo)) len)] z) ∧
      (∀ x t q i32 nonsat mode, o.instr = .mdrain x t q i32 1 nonsat mode → o.steps = 0 → c.mat.chkOn.toNat.testBit x.toNat = false → Claim.EndsStep s (after idle) n o next) ∧
      (∀ x t q i32 nonsat mode, o.instr = .mdrain x t q i32 0 nonsat mode →
        let row (i : Nat) : List Nat × List (Nat × Nat) × Fl × List Machine.Num := drainRow o (i32 == 1) (nonsat == 1) (modeOf mode.toNat) (c.mat.A x.toNat) (8 * o.steps + i)
        let size := Nat.max 1 (contBits (tFmt o.rb) / 8)
        let sb := scaleBytes (tFmt o.rb)
        let bytes (i : Nat) : List Byte := packCodes (contBits (tFmt o.rb)) (row i).1
        let units (i : Nat) : List (Int × List Byte) := ((List.range ((bytes i).length / size)).map (fun e => (((8 * o.steps + i : Nat) : Int) * tStride1 o.rb + (e * size : Nat), ((bytes i).drop (e * size)).take size))).filter (fun p => inLimit o.rb p.1)
        ∃ v f mx nan, Claim.EndsStep s v n o { next with flags := f, amax := mx, amaxNan := nan } ∧ v = { after idle with mem := v.mem } ∧
          (∀ z, memByte v.mem z = Claim.byteAfter (memByte s.mem) ((List.range 8).flatMap (fun i =>
            (units i).map (fun p => (recKey n o.rb p.1, p.2)) ++
            if units i = [] then [] else (row i).2.1.map (fun p => (keySpm n (tScale o.rb + (8 * o.steps + i) * sb), toBytes sb (p.1 + 256 * p.2))))) z) ∧
          (∀ k, f.toNat.testBit k = true ↔ o.flags.toNat.testBit k = true ∨ ∃ i, i < 8 ∧ (row i).2.2.1.toNat.testBit k = true) ∧
          (i32 = 1 → mx = o.amax ∧ nan = o.amaxNan)))

namespace Sys2Proof

namespace Claim

/-! ## X: commands (R190 to R212) -/

/-- RLEN and ROWS of a record to X (R192). -/
def rowBytesOf (t : BitVec 256) : Nat := if tStride2 t = 0 then tExtent t else (tStride2 t).toNat
/-- See `rowBytesOf`. -/
def rowsOf (t : BitVec 256) : Nat := tExtent t / rowBytesOf t

/-- The RECORD conditions of R192. -/
def shaped (t : BitVec 256) (dest : Bool) : Prop :=
  0 ≤ tStride2 t ∧ tBounds t ≠ 1 ∧ tBounds t ≠ 3 ∧ tUnfold t = 0 ∧ tExtent t ≠ 0 ∧ rowBytesOf t ∣ tExtent t ∧ (dest = true → 1 < rowsOf t → rowBytesOf t ≤ (tStride1 t).natAbs)

/-- The BOUNDS conditions of R192: with BOUNDS 0, every row lies within the tier, or within 1 GiB of the start of its page. -/
def reaches (t : BitVec 256) : Prop :=
  tBounds t = 0 → ∀ r, r < rowsOf t →
    (tBkind t ≤ 1 → 0 ≤ (tBase t : Int) + r * tStride1 t ∧ (tBase t : Int) + r * tStride1 t + rowBytesOf t ≤ tierSize (tBkind t)) ∧
    (tBkind t = 3 → 0 ≤ (tBase t % 2 ^ 47 : Nat) + r * tStride1 t ∧ (tBase t % 2 ^ 47 : Nat) + r * tStride1 t + rowBytesOf t ≤ 2 ^ 30)

/-- The issue checks of R192 pass. -/
def xGood (t : BitVec 256) (dest : Bool) : Prop :=
  shaped t dest ∧ 8 ∣ tBase t ∧ 8 ∣ rowBytesOf t ∧ (8 : Int) ∣ tStride1 t ∧ reaches t

/-- A dense SPM record (R201). Its entries may be narrower than the 8 bytes that R192 aligns rows to (log 22). -/
def denseGood (t : BitVec 256) : Prop := tBkind t = 0 ∧ tStride2 t = 0 ∧ shaped t false ∧ 8 ∣ tBase t ∧ (8 : Int) ∣ tStride1 t ∧ reaches t

/-- The object that a command names may be used (R96, R205); a home at another chip checks its own lease (R361, log 98). -/
def objGood (s : State) (o : BitVec 5) : Prop :=
  let img := (here s).O o.toNat
  (bits img 62 2 = 1 ∨ bits img 62 2 = 2) ∧ ∃ k, objHome s s.cur.core img = some k ∧ (isPeerKey k = true ∨ syncOpen s (s.jobOf s.cur.core).1 (s.jobOf s.cur.core).2 k 8 = true)

/-- The command that the word under the cursor makes in core `c`; the increments of its object carry the publications so far, but those of `XSIG` and `XSIG.F` none (R245). -/
def cmdOf (s : State) (c : Core) (i : Instr) (q : XReq) : XCmd :=
  { id := c.nextId, word := s.cur.word, instr := i, pc := BitVec.ofNat 17 s.cur.pc, codePos := if s.cur.packed = true then s.cur.codePos else 0, signal := s.cur.frame.signal
    ra := q.ra, rb := q.rb, rx := q.rx, obj := q.obj, ob := q.ob, srkey := c.csr.srkey, pp := 0, lb := 0, flight := [], started := 0, parked := none, raised := false
    data := q.data, flags := 0, amax := none, amaxNan := false, poison := false, again := false, refetch := false, acted := false, phase := 0, view := 0
    joins := match i with
      | .xsig .. | .xsigF .. => []
      | _ => s.joinOf (c.seat.unit.getD (0, 0)).1
    bumped := false, acks := [], ents := [] }

/-- X goes on from its word `occ` ac later, with the tokens popped, and `k` its core after the word's own effect. A word that retires (`push`) pushes its tokens; where a dowel of theirs is full they wait in the command list (R307, log 104). -/
def XPassed (s : State) (k k' : Core) (occ : Nat) (push : Bool) : Prop :=
  let popped (p q : Engine) : Nat := k.dowelN p q - if q = .x then asked s.cur.frame p else 0
  let told (q : Engine) : Prop := s.cur.frame.signal.toNat.testBit q.num = true
  let room : Prop := ∀ q, told q → popped .x q < 16
  let goes (k : Core) (push : Bool) : Prop :=
    k' = { k with x := { k.x.next s.cur true none with nextAc := now s + occ, wait := .idle, heldFrom := none, broken := none }, dowel := k'.dowel } ∧
    ∀ p q, k'.dowelN p q = popped p q + if push = true ∧ p = .x ∧ s.cur.frame.signal.toNat.testBit q.num = true then 1 else 0
  (push = false ∨ room → goes k push) ∧
  (push = true → ¬ room → goes { k with copy := { k.copy with cmds := k.copy.cmds ++ [cmdOf s k .xnop ⟨0, 0, 0, 0, false, []⟩] }, nextId := k.nextId + 1 } false)

/-- A command is issued (R190): X accepts it 8 ac later, and the next word may issue then. -/
def Commands (s : State) (i : Instr) (q : XReq) : Prop :=
  ∃ k, exec i s = .next { with_ s k with timers := s.timers ++ [⟨.ac (dieOf s.cur.core), now s + 8, some s.cur.core, .xAccept s.cur.core⟩] } ∧
    XPassed s { here s with nextId := (here s).nextId + 1, copy := { (here s).copy with issuing := some (cmdOf s (here s) i q), log := (here s).copy.log ++ [(s.cur.word, cmdOf s (here s) i q, false)] } } k 8 false

/-- A command word: where its issue checks pass it makes a command, and else it is a fault of X. -/
def Makes (s : State) (i : Instr) (good : Prop) (q : XReq) : Prop :=
  (good → Commands s i q) ∧
  (¬ good → ∃ t c, exec i s = .next t ∧ Trapped s t .x c ∧ (c = .record ∨ c = .align ∨ c = .bounds ∨ c = .objEmpty ∨ c = .objLease ∨ c = .priv))

/-- Elements of a record (R199). -/
def elements (t : BitVec 256) : Nat := tExtent t * 8 / contBits (tFmt t)

/-- Byte `b` of an SPM record, row by row (R192); beyond SPM it reads as zero. -/
def recByte (s : State) (t : BitVec 256) (b : Nat) : Byte :=
  let a : Int := tBase t + (b / rowBytesOf t : Nat) * tStride1 t + (b % rowBytesOf t : Nat)
  if 0 ≤ a ∧ a < 2 ^ 20 then memByte s.mem (keySpm s.cur.core a.toNat) else 0

/-- The `cnt` values of `n` bytes each that a record holds. -/
def spmList (s : State) (t : BitVec 256) (n cnt : Nat) : List Nat :=
  (List.range cnt).map (fun i => ofBytes ((List.range n).map (fun b => recByte s t (n * i + b))))

/-- An SPM record of one block of `n` bytes, and its value. -/
def blockGood (t : BitVec 256) (n : Nat) : Prop := tBkind t = 0 ∧ tExtent t = n ∧ xGood t false
/-- See `blockGood`. -/
def blockWord (s : State) (t : BitVec 256) (n : Nat) : Nat := ofBytes ((List.range n).map (recByte s t))

/-- The chip list of `XMCAST` and `XRLOAD` (R202). -/
def chipsGood (s : State) (t : BitVec 256) : Prop :=
  denseGood t ∧ 2 ∣ tExtent t ∧ tExtent t / 2 ≤ 1024 ∧ ∀ e ∈ spmList s t 2 (tExtent t / 2), e < 4096

end Claim

end Sys2Proof

/-- R190, R192, R199 to R203, R205 to R211, R268, R281: the command words of X. Each makes its issue checks, from the records as they stand; the command holds their images, and the lists that the entry says are read at issue. `collOk` and `prefOk` are the conditions of R268 and R208. -/
def Obligations.CopyCommands : Prop :=
  ∀ (ta tb : BitVec 6) (o tx : BitVec 5) (ob nonsat sz : BitVec 1) (mode : BitVec 3) (r : BitVec 2) (n : BitVec 18) (m : BitVec 12) (op : BitVec 5) (p : BitVec 4) (asid : BitVec 16) (s : State), Claim.ReadyX s →
    let c := Claim.here s
    let a := c.T ta.toNat
    let b := c.T tb.toNat
    let x := c.T tx.toNat
    let pj := s.jobOf s.cur.core
    let two : Prop := Claim.xGood a true ∧ Claim.xGood b false
    let obj : Prop := ob = 1 → Claim.objGood s o
    let img : W64 := if ob = 1 then c.O o.toNat else 0
    let named (q : XReq) : XReq := { q with obj := img, ob := ob == 1 }
    let plain (ra rb : BitVec 256) (l : List Nat) : XReq := ⟨ra, rb, 0, 0, false, l⟩
    let reduces : Prop := Claim.elements a = Claim.elements b ∧ (if r = 3 then tFmt a = 0 ∧ tFmt b = 0 else tFmt a ≤ 2 ∧ isBlock (tFmt b) = false)
    -- copies
    Claim.Makes s (.xcopy ta tb o nonsat mode ob) (two ∧ obj ∧
      (if tFmt a = tFmt b then tExtent a = tExtent b ∧ mode = 0 ∧ nonsat = 0
       else tExtent a = Claim.elements b * contBits (tFmt a) / 8 ∧ (isBlock (tFmt a) = true → tBkind a = 0) ∧ (isBlock (tFmt b) = true → tBkind b = 0) ∧
         (nonsat = 1 → (3 ≤ tFmt a ∧ tFmt a ≤ 7) ∨ isBlock (tFmt a) = true))) (named (plain a b [])) ∧
    Claim.Makes s (.xred ta tb o r ob) (two ∧ obj ∧ reduces) (named (plain a b [])) ∧
    Claim.Makes s (.xgath ta tb o tx ob) (two ∧ obj ∧ Claim.denseGood x ∧ 4 ∣ tExtent x ∧ tFmt a = tFmt b ∧ Claim.rowBytesOf a = Claim.rowBytesOf b ∧ Claim.rowsOf a = tExtent x / 4)
      (named { plain a b [] with rx := x }) ∧
    Claim.Makes s (.xscat ta tb o tx ob) (two ∧ obj ∧ Claim.denseGood x ∧ 4 ∣ tExtent x ∧ tFmt a = tFmt b ∧ Claim.rowBytesOf a = Claim.rowBytesOf b ∧ Claim.rowsOf b = tExtent x / 4)
      (named { plain a b [] with rx := x }) ∧
    Claim.Makes s (.xmcast ta tb o tx ob) (two ∧ obj ∧ tBkind a = 2 ∧ tExtent a = tExtent b ∧ tFmt a = tFmt b ∧ Claim.chipsGood s x)
      (named { plain a b (Claim.spmList s x 2 (tExtent x / 2)) with rx := x }) ∧
    Claim.Makes s (.xrload ta tb o tx ob r) (two ∧ obj ∧ tBkind b = 2 ∧ reduces ∧ Claim.chipsGood s x)
      (named { plain a b (Claim.spmList s x 2 (tExtent x / 2)) with rx := x }) ∧
    Claim.Makes s (.xatom ta tb op sz)
      (let k := if sz = 1 then 8 else 4
       2 ≤ tBkind a ∧ tExtent a = k ∧ Claim.shaped a true ∧ Claim.reaches a ∧ k ∣ tBase a % 2 ^ 47 ∧ tBkind b = 0 ∧ 24 ≤ tExtent b ∧ Claim.shaped b false ∧ Claim.reaches b ∧ 8 ∣ tBase b) (plain a b []) ∧
    -- objects and pages
    (∀ i ∈ [Instr.xsig o n, .xsigF o n], Claim.Makes s i (Claim.objGood s o) ⟨0, 0, 0, c.O o.toNat, true, [n.toNat]⟩) ∧
    Claim.Makes s (.xdecl ta tb) two (plain a b []) ∧
    (let es := Claim.spmList s a 32 (tExtent a / 32)
     let slot (e : Nat) : BitVec 5 := BitVec.ofNat 5 (e / 2 ^ 89)
     Claim.Makes s (.xpref ta) (Claim.denseGood a ∧ 32 ∣ tExtent a ∧ ∀ e ∈ es, prefOk e = true ∧ (e.testBit 88 = true → Claim.objGood s (slot e)))
       (plain a 0 (es.map (fun e => e + (if e.testBit 88 = true then (c.O (slot e).toNat).toNat else 0) * 2 ^ 256)))) ∧
    Claim.Makes s (.xinv ta asid) ((s.job pj.1 pj.2).asid = asid ∧ s.jobSuper pj.1 pj.2 = some s.cur.core ∧ tBkind a = 2 ∧ Claim.xGood a false) (plain a 0 []) ∧
    -- collectives and the keeper
    (let v := s.readNat (keySpm s.cur.core (tBase a)) 128
     let rec_ := BitVec.ofNat 1024 v
     let cnt := bits rec_ 970 10 + 1
     let tab := bits rec_ 750 20
     let peers := (List.range cnt).map (fun i => s.readNat (keySpm s.cur.core (tab + 2 * i)) 2)
     Claim.Makes s (.xcoll ta o ob) (tBkind a = 0 ∧ 128 ≤ tExtent a ∧ Claim.xGood a false ∧ 64 ∣ tBase a ∧ tBase a + 128 ≤ 2 ^ 20 ∧ 64 ∣ tab ∧ tab + 2 * cnt ≤ 2 ^ 20 ∧ collOk rec_ peers (dieOf s.cur.core) Config.chip = true ∧ obj)
       (named (plain a 0 (v :: peers)))) ∧
    (let h := Claim.blockWord s a 32
     let kind := h / 2 ^ 252 % 16
     let fmt := if kind = 0 then h / 2 ^ 173 % 32 else 0
     Claim.Makes s (.xksend ta tb m) (Claim.blockGood a 32 ∧ kind ≤ 5 ∧ (kind ≠ 0 → m = 0) ∧ tBkind b = 0 ∧ tFmt b = fmt ∧
       (m.toNat + 1) * 1024 * contBits fmt / 8 ≤ tExtent b ∧ Claim.xGood b false) (plain a b [h])) ∧
    Claim.Makes s (.xkfetch ta tb o ob m) (Claim.xGood a true ∧ Claim.blockGood b 16 ∧ obj) (named (plain a b [Claim.blockWord s b 16])) ∧
    Claim.Makes s (.xkparam tb p) (Claim.blockGood b 144)
      (plain 0 b [Claim.blockWord s b 144, ((xSpans b 0 144).any (fun q => s.poisoned (keySpm s.cur.core q.1.toNat) q.2)).toNat]) ∧
    -- the words that are no commands
    (∃ k, exec .xnop s = .next (Claim.with_ s k) ∧ Claim.XPassed s c k 1 true) ∧
    -- R206: `XDRAIN` holds X's issue; with no command left it retires 1 ac after
    (∃ t, exec .xdrain s = .next t ∧ Claim.Parked s t .xdrain .xdrain 0 0 []
      (if c.xcmds = [] then [⟨.ac (dieOf s.cur.core), Claim.now s + 1, some s.cur.core, .instructionRetire s.cur.core .x 0⟩] else []))

namespace Sys2Proof

namespace Claim

/-- The core with one command of X changed. -/
def onCmd (c : Core) (id : Nat) (f : XCmd → XCmd) : Core :=
  { c with copy := { c.copy with cmds := c.copy.cmds.map (fun x => if x.id = id then f x else x) } }

/-- A chunk has landed, as PP and LB say (R195). -/
def hasLanded (x : XCmd) (c : Nat) : Prop := c < x.pp ∨ (x.pp < c ∧ c ≤ x.pp + 4 ∧ x.lb.testBit (c - x.pp - 1) = true)

/-- A copy of one row, byte for byte, within the core's own SPM and MSM, with no limit but its own. -/
structure OwnCopy (x : XCmd) : Prop where
  instr : ∃ ta tb o nonsat mode ob, x.instr = .xcopy ta tb o nonsat mode ob
  fmt : tFmt x.ra = tFmt x.rb
  rows : tStride2 x.ra = 0 ∧ tStride2 x.rb = 0
  extent : tExtent x.ra ≠ 0 ∧ tExtent x.ra = tExtent x.rb
  kinds : tBkind x.ra ≤ 1 ∧ tBkind x.rb ≤ 1
  reach : tBase x.ra + tExtent x.ra ≤ tierSize (tBkind x.ra) ∧ tBase x.rb + tExtent x.rb ≤ tierSize (tBkind x.rb)
  first : x.refetch = false

/-- Bytes of chunk `k` (R194). -/
def chunkBytes (x : XCmd) (k : Nat) : Nat := min 65536 (tExtent x.ra - 65536 * k)

/-- The home of chunk `k` of a record. -/
def chunkHome (n : Nat) (t : BitVec 256) (k : Nat) : Nat := keyTier n (tBkind t) (tBase t + 65536 * k)

/-- A lease that a chunk touches passes its check, and holds the chunk (R194). -/
def chunkLease (s : State) (n : Nat) (t : BitVec 256) (k len : Nat) : Prop :=
  ∃ l, leaseCheck s (s.jobOf n).1 (s.jobOf n).2 (tLease t) = .ok l ∧ l.holdsRange (chunkHome n t k) len = true

/-- A chunk resolved through a page that holds a byte of a record (R209, R347). -/
def covers (t : BitVec 256) (f : Chunk) : Prop := ∃ p ∈ f.pages, p.1 * 2 ^ 18 < tBase t + tExtent t ∧ tBase t < (p.1 + p.2) * 2 ^ 18

/-- The number of a chunk in flight that resolved through a translation of an ASID which record `t` covers. -/
def through (s : State) (asid : BitVec 16) (t : BitVec 256) (z : Nat) : Prop :=
  ∃ e ∈ s.cores, e.2.seat.unit.isSome = true ∧ (s.job (s.jobOf e.1).1 (s.jobOf e.1).2).asid = asid ∧
    ∃ y ∈ e.2.copy.cmds, ∃ f ∈ y.flight, covers t f ∧ z = e.1 + 2 ^ 12 * (f.no + 2 ^ 32 * y.id)

/-- A TLB entry of an ASID whose page holds a byte of a record (R209, R347). -/
def inRange (e : Tlb) (asid : BitVec 16) (t : BitVec 256) : Prop :=
  e.asid = asid.toNat ∧ e.page < tBase t + tExtent t ∧ tBase t < e.page + pageSize e.leaf.size

/-- A command retires (R191): it leaves the list, its flags are ORed into X's field and its maximum joins AMAX, its tokens are pushed, and its log entry says so. The last one ends the wait of an `XDRAIN`, 1 ac later (R206). -/
structure Retires (v u : State) (n : Nat) (x : XCmd) : Prop where
  rest : u = { v with cores := u.cores, timers := v.timers ++
    (if (u.core n).xcmds = [] ∧ (v.core n).x.wait.kind = .xdrain then [⟨.ac (dieOf n), v.acOf n + 1, some n, .instructionRetire n .x 0⟩] else []) }
  others : ∀ k, k ≠ n → u.core k = v.core k
  core : u.core n = { v.core n with
    csr := { (v.core n).csr with fflags := (u.core n).csr.fflags, amax := (u.core n).csr.amax }
    dowel := (u.core n).dowel
    copy := { (v.core n).copy with
      cmds := (v.core n).copy.cmds.filter (fun y => y.id != x.id)
      log := (v.core n).copy.log.map (fun e => if e.2.1.id = x.id then (e.1, x, true) else e)
      replay := (v.core n).copy.replay.map (fun e => if e.2.1.id = x.id then (e.1, x, true) else e) } }
  flags : ∀ j, j < 32 → (u.core n).csr.fflags.toNat.testBit j =
    ((v.core n).csr.fflags.toNat.testBit j || (decide (24 ≤ j ∧ j < 29) && x.flags.toNat.testBit (j - 24)) || (decide (j = 28) && x.amaxNan))
  amax : (u.core n).csr.amax = match x.amax with
    | none => (v.core n).csr.amax
    | some m => if 2 ^ 31 ≤ (v.core n).csr.amax.toNat ∨ 0x7F800000 < (v.core n).csr.amax.toNat ∨ (v.core n).csr.amax.toNat < m.toNat then m else (v.core n).csr.amax
  dowels : ∀ p q, (u.core n).dowelN p q = (v.core n).dowelN p q + if p = .x ∧ x.signal.toNat.testBit q.num = true then 1 else 0

/-- The publications that an increment with joins `l` joins (R245). -/
def joined (s : State) (l : List Nat) (k : Nat) : State :=
  { s with joins := if l = [] then s.joins else spSet s.joins k ((spGet [] s.joins k ++ l).eraseDups) }

end Claim

/-- R190, R191, R194 to R198, R204, R206, R209, R345: X's commands at work. A command is accepted 8 ac after its issue and runs apart from the stream. A chunk starts when its leases pass, holds them, and parks the command when one does not; it lands no sooner than R212 gives, and PP and LB mark it. A command retires once its chunks have landed, its object is incremented once, and its tokens are pushed. Chunks are stated for a copy of one row within the core; acceptance for commands that walk no page. -/
def Claim.sayCopyEvents : Prop :=
  ∀ (n id : Nat) (x : XCmd) (s : State),
    let c := s.core n
    let pj := s.jobOf n
    let now := s.acOf n
    -- acceptance
    (∀ x0, c.copy.issuing = some x0 →
      let a := { x0 with
        phase := ((c.seat.unit.bind (fun u => s.launch u.1)).map (·.phase)).getD 0
        view := c.seat.view
        srkey := if x0.again = true then x0.srkey else c.csr.srkey }
      let outside : Prop := tBkind x0.rb = 3 ∧ (match x0.instr with
        | .xcopy .. | .xgath .. | .xscat .. | .xrload .. => True
        | _ => False)
      let accepted (k : List (XCmd × List Nat)) : State := s.setCore n { c with copy := { c.copy with issuing := none, cmds := c.copy.cmds ++ [a], kept := k } }
      tBkind x0.ra ≠ 2 → tBkind x0.rb ≠ 2 →
      (match x0.instr with
        | .xcopy .. | .xred .. | .xgath .. | .xscat .. | .xatom .. | .xsig .. | .xsigF .. | .xksend .. => True
        | _ => False) →
      (¬ outside → exec (.xAccept n) s = .next (accepted c.copy.kept)) ∧
      (outside → exec (.xAccept n) s = .next (accepted ((c.copy.kept ++ [(a, [])]).drop (c.copy.kept.length + 1 - 32))))) ∧
    (c.copy.issuing = none → exec (.xAccept n) s = .next s) ∧
    (∀ x0 ta asid, c.copy.issuing = some x0 → x0.instr = .xinv ta asid → tBkind x0.ra = 2 →
      let hit (h : BitVec 128) : Prop :=
        hState h = 2 ∧ bits h 90 16 = asid.toNat ∧ bits h 6 34 * 2 ^ 18 < tBase x0.ra + tExtent x0.ra ∧ tBase x0.ra < bits h 6 34 * 2 ^ 18 + pageSize (bits h 123 2)
      ∃ t, exec (.xAccept n) s = .next t ∧ t = { s with cores := t.cores, tlbs := t.tlbs } ∧ (t.core n).copy.issuing = none ∧
        (∀ e, e ∈ t.tlbs ↔ e ∈ s.tlbs ∧ ¬ Claim.inRange e asid x0.ra) ∧
        (∃ y, (t.core n).cmd x0.id = some y ∧ (c.cmd x0.id = none → y.instr = x0.instr ∧ y.acted = x0.acted) ∧ ∀ z, z ∈ y.data ↔ Claim.through t asid x0.ra z) ∧
        ∀ m, m ≠ n → t.core m = { s.core m with regs := { (s.core m).regs with h := (t.core m).regs.h } } ∧
          ((s.partOfCore m = some pj.1 ∨ ((s.core m).seat.unit.isSome = true ∧ (s.jobOf m).1 = pj.1)) → ∀ j,
            (hit ((s.core m).H j) → (t.core m).H j = putBits ((s.core m).H j) 125 1 0) ∧ (¬ hit ((s.core m).H j) → (t.core m).H j = (s.core m).H j))) ∧
    -- chunks
    (c.cmd id = some x → x.id = id → Claim.OwnCopy x → x.parked = none → c.seat.stopping = false → c.health.recovering = none →
      (x.flight.length < 4 → (c.copy.cmds.map (fun y => y.flight.length)).sum < 32 → ∀ k, 65536 * k < tExtent x.ra → x.pp ≤ k → k ≤ x.pp + 4 →
        (∀ f ∈ x.flight, f.no ≠ k) → ¬ Claim.hasLanded x k → (∀ m, x.pp ≤ m → m < k → Claim.hasLanded x m ∨ ∃ f ∈ x.flight, f.no = m) →
        let len := Claim.chunkBytes x k
        let ch : Chunk := ⟨k, [(some (Claim.chunkHome n x.rb k), len)], [(some (Claim.chunkHome n x.ra k), len)], [tLease x.ra, tLease x.rb], [], now + 1024, 0, [], none, none⟩
        (Claim.chunkLease s n x.ra k len → Claim.chunkLease s n x.rb k len →
          ∃ t, exec (.chunkStart n id) s = .next t ∧
            t = { s.setCore n (Claim.onCmd c id (fun y => { y with flight := y.flight ++ [ch], started := y.started + 1 })) with leases := t.leases } ∧
            ∀ i, t.lease i = (s.lease i).map (fun l => { l with holds := l.holds + [tLease x.ra, tLease x.rb].count i })) ∧
        (∀ e, x.flight ≠ [] → leaseCheck s pj.1 pj.2 (tLease x.rb) = .error e →
          ∃ r, exec (.chunkStart n id) s = .next (s.setCore n (Claim.onCmd c id (fun y => { y with parked := some r, raised := false }))) ∧
            r.cause = (if e = .nolease ∧ (id, tLease x.rb) ∈ c.seat.lost then .reclaimed else e) ∧ r.eng = .x ∧ r.pc = x.pc ∧ r.pp = x.pp ∧ r.lb = x.lb ∧ r.lease = tLease x.rb ∧ r.cmd = some id)) ∧
      (x.flight.length = 4 → exec (.chunkStart n id) s = .next s) ∧
      (∀ f k, x.flight.find? (fun g => g.no == k) = some f →
        (now < f.due → exec (.chunkLand n id k) s = .next s) ∧
        (f.due ≤ now → f.refused = none → (∃ z ∈ f.acks, s.unacked z = true) → exec (.chunkLand n id k) s = .next s) ∧
        (∀ a b len, n < 2048 → f.acks = [] → f.refused = none → f.bytes = none → f.src = [(some a, len)] → f.dst = [(some b, len)] → isOwnKey n a = true → isOwnKey n b = true → f.due ≤ now → s.poison = [] → s.stores = [] → c.copy.kept = [] → x.pp ≤ k → k ≤ x.pp + 4 → ¬ Claim.hasLanded x k → x.lb < 16 →
          ∃ (u : State) (y : XCmd), exec (.chunkLand n id k) s = .next (u.stir n) ∧
            u = { s.setCore n (Claim.onCmd c id (fun _ => y)) with mem := u.mem, leases := u.leases, agenda := s.agenda ++ Claim.vacates u f.leases } ∧
            (∀ z, memByte u.mem z = Claim.byteAfter (memByte s.mem) [(b, memBytes s.mem a len)] z) ∧
            (∀ i, u.lease i = (s.lease i).map (fun l => { l with holds := l.holds - f.leases.count i })) ∧
            y = { x with flight := x.flight.filter (fun g => g.no != k), pp := y.pp, lb := y.lb } ∧
            y.lb < 16 ∧ ∀ m, Claim.hasLanded y m ↔ Claim.hasLanded x m ∨ m = k))) ∧
    -- retirement
    (c.cmd id = some x → x.id = id → c.health.recovering = none →
      let room : Prop := ∀ q : Engine, x.signal.toNat.testBit q.num = true → c.dowelN .x q < 16
      let copied : Prop := ∃ ta tb o nonsat mode ob, x.instr = .xcopy ta tb o nonsat mode ob ∧ x.parked = none ∧ x.flight = [] ∧ x.pp = (tExtent x.ra + 65535) / 65536
      let first : Prop := c.xcmds.takeWhile (fun y => y.id != id) = []
      let signals (k : Nat) : Prop := x.parked = none ∧ x.flight = [] ∧ ((∃ o m, x.instr = .xsig o m) ∨ (∃ o m, x.instr = .xsigF o m) ∧ first) ∧ x.data = [k] ∧ k ≠ 0
      (room → copied → x.acks = [] → x.ob = false ∨ x.again = true → ∃ u, exec (.xRetire n id) s = .next u ∧ Claim.Retires s u n x) ∧
      (¬ room → (∀ ta, x.instr ≠ .xpref ta) → exec (.xRetire n id) s = .next s) ∧
      (∀ k m lid l ll, room → x.acks = [] → x.ob = true → x.again = false → x.bumped = false → (copied ∧ m = 1 ∨ signals m) → objHome s n x.obj = some k → k < 2 ^ 64 →
        syncLease s pj.1 pj.2 k 8 = some (lid, l) → l.stowed = false → leaseCheck s pj.1 pj.2 lid = .ok ll →
        ∃ u t, exec (.xRetire n id) s = .next t ∧ Claim.Increments (Claim.joined s x.joins k) u k m ∧ Claim.Retires u t n x) ∧
      (∀ ta asid, x.instr = .xinv ta asid →
        let waits : Prop := ∃ z ∈ x.data, Claim.through s asid x.ra z
        (x.acted = true ∨ waits → exec (.xinvAck n id) s = .next s) ∧
        (x.acted = false → ¬ waits → (∀ e ∈ s.cores, e.2.seat.unit.isSome = true → (s.job (s.jobOf e.1).1 (s.jobOf e.1).2).asid = asid → ∀ y ∈ e.2.copy.cmds, y.parked = none) →
          ∃ u, exec (.xinvAck n id) s = .next u ∧ u = { s.setCore n (Claim.onCmd c id (fun y => { y with acted := true })) with asidGen := u.asidGen, tlbs := u.tlbs } ∧ (∀ e, e ∈ u.tlbs ↔ e ∈ s.tlbs ∧ ¬ Claim.inRange e asid x.ra) ∧
            ∀ a, spGet 0 u.asidGen a = if a = asid.toNat then spGet 0 s.asidGen a + 1 else spGet 0 s.asidGen a) ∧
        (room → x.acted = true → x.parked = none → x.flight = [] → x.acks = [] → x.ob = false → ∃ u, exec (.xRetire n id) s = .next u ∧ Claim.Retires s u n x)))

namespace Claim

/-! ## The Bexfer link (R273 to R278) -/

/-- The link hands this package a packet: it is for this package or for all, from another chip that is not lost, of a job whose inbound traffic is not withheld (R273, R382). -/
def forMe (s : State) (h : BitVec 512) : Prop :=
  pkSrc h ≠ Config.chip ∧ (pkDst h = Config.chip ∨ pkDst h = 0xFFF) ∧ (s.peer (pkSrc h)).lost = false ∧
  ∀ c ∈ s.captures, c.part = (pkJob h).1 → c.job = (pkJob h).2 → c.replay = false

/-- How far the number of a packet stands behind the one that its receiver expects (R274). -/
def ahead (s : State) (h : BitVec 512) : Nat := (pkSeq h + 2 ^ 32 - (s.peer (pkSrc h)).expect) % 2 ^ 32

/-- A packet is accepted (R274): E rises, and the held packet that now follows comes next; a job under capture logs it (R381). -/
def Accepted (s a : State) (h : BitVec 512) (payload : List Byte) (poison : List Nat) : Prop :=
  let q := s.peer (pkSrc h)
  let e := (q.expect + 1) % 2 ^ 32
  ∃ v : State, v = { s with peers := v.peers, agenda := s.agenda ++ (q.held.filter (fun k => heldSeq k == e)).map .occur } ∧
    v.peer (pkSrc h) = { q with expect := e, held := q.held.filter (fun k => heldSeq k != e), heard := s.tick } ∧
    (∀ chip, chip ≠ pkSrc h → v.peer chip = s.peer chip) ∧
    a = v.capture (pkJob h).1 (pkJob h).2
      ⟨1, pkSrc h, pkSeq h, pkAddr h, pkType h, 0, toBytes 64 h.toNat ++ payload, poison.map (· + 1)⟩

/-- The sequence rule (R274) on packet `i`; one of a job that this package does not have is discarded (R273), and any other that is accepted acts. -/
def Arrives (i : Instr) (s : State) (h : BitVec 512) (payload : List Byte) (poison : List Nat) (act : State → State → Prop) : Prop :=
  (¬ forMe s h → exec i s = .next s) ∧
  (forMe s h → ahead s h = 0 → ∃ a t, exec i s = .next t ∧ Accepted s a h payload poison ∧
    ((a.job (pkJob h).1 (pkJob h).2).valid = false → t = a) ∧ ((a.job (pkJob h).1 (pkJob h).2).valid = true → act a t)) ∧
  (forMe s h → 1 ≤ ahead s h → ahead s h ≤ 4095 → ∃ t, exec i s = .next t ∧ t = { s with peers := t.peers } ∧
    (∀ chip, chip ≠ pkSrc h → t.peer chip = s.peer chip) ∧
    (let q := s.peer (pkSrc h)
     t.peer (pkSrc h) = if ∃ k ∈ q.held, heldSeq k = pkSeq h then q else { q with held := q.held ++ [i] })) ∧
  (4095 < ahead s h → exec i s = .next s)

/-- `n` bytes at `k` hold storage, and pass the check of the job's covering lease (R194). -/
def homed (a : State) (p j k n : Nat) : Prop :=
  n ≠ 0 ∧ isStorage k = true ∧ isStorage (k + n - 1) = true ∧ ∃ x, checkHome a p j k n = .ok x

/-- Bytes are written at their home; nothing else differs. The granules of `poison`, numbered from the first byte, are poisoned (R366). -/
structure Written (a u : State) (k : Nat) (bs : List Byte) (poison : List Nat) : Prop where
  rest : u = { a with mem := u.mem, poison := u.poison, stores := u.stores }
  bytes : ∀ i, (h : i < bs.length) → memByte u.mem (k + i) = bs[i]
  others : sameMemBut a u k bs.length
  hot : ∀ g ∈ poison, 64 * g < bs.length → u.poisoned (k + 64 * g) (min 64 (bs.length - 64 * g)) = true

/-- A response goes to the sender, with the request's number and with data; one that is refused has none (log 53). -/
def Responds (a t : State) (h : BitVec 512) (data : List Byte) (poison : List Nat) : Prop :=
  ∃ r : Packet, t = { a with outbox := a.outbox ++ [r] } ∧ r.payload = data ∧ r.poison = poison ∧
    pkType r.hdr = 8 ∧ pkSrc r.hdr = Config.chip % 4096 ∧ pkDst r.hdr = pkSrc h ∧ pkSeq r.hdr = pkSeq h ∧ bits r.hdr 436 16 = bits h 436 16

/-- Where a range is not the job's own, the request is refused; XPART is raised where it is another partition's (R334). -/
def Turned (a t : State) (h : BitVec 512) (k n : Nat) : Prop := ∃ u : State, (u = a ∨ u = a.xpart (pkJob h).1 (pkJob h).2) ∧
  ((∃ c v, n ≠ 0 ∧ isStorage k = true ∧ isStorage (k + n - 1) = true ∧ checkHome a (pkJob h).1 (pkJob h).2 k n = .error (.xparts c v)) ↔ u ≠ a) ∧
  Responds u t h [] []

/-- A reduce at its home (R200): the elements there, each reduced with a word of the payload; OP is the command's R plus 1, and the words are FP32, or INT32 for R 3 (log 53). -/
def intoHome (a : State) (h : BitVec 512) (data : List Byte) : List Byte :=
  let w := contBits (pkFmt h)
  let vs := unpackCodes 32 data
  packCodes w (((unpackCodes w (a.pubBytes (pkAddr h) (vs.length * w / 8))).zip vs).map (fun p =>
    if pkOp h = 4 then (p.1 + p.2) % 2 ^ 32 else (reduce1 (pkOp h - 1) (pkFmt h) p.1 (decodeF fmtFP32 p.2)).1))

/-- Elements of a packet's homes, one list for each entry (R277). -/
def columns (a : State) (p : Packet) (n : Nat) : List (List Nat) :=
  (pkEntries p).map (fun q => unpackCodes (contBits (pkFmt p.hdr)) (a.pubBytes (keyAtChip (pkAddr p.hdr) q.1) n))

/-- Element `i` of a REDUCE_LOAD (R277): the entries' elements in list order, modulo 2^32, or each sum rounded to FP32 with RNE. -/
def reduced (p : Packet) (cols : List (List Nat)) (i : Nat) : Nat :=
  let xs := cols.map (fun c => c.getD i 0)
  let val (c : Nat) : Machine.Num := decodeFmt (pkFmt p.hdr) c
  if pkOp p.hdr = 3 then xs.sum % 2 ^ 32
  else
    (roundRne (xs.tail.foldl
      (fun acc x => decodeF fmtFP32 (roundRne (if pkOp p.hdr = 0 then (nAdd false acc (val x)).1 else (nMinMax (pkOp p.hdr == 1) acc (val x)).1)).1)
      (val (xs.headD 0)))).1

end Claim

/-- R273, R274, R276, R277, R203, R206: what each packet of the Bexfer link does at this package. The layout of a response and of an ATOM's payload is the model's (log 53). -/
def Claim.sayFabricPackets : Prop :=
  (∀ (p : Packet) (s : State), pkType p.hdr ≠ 6 → pkColl p.hdr = false → p.payload ≠ [] → pkOp p.hdr = 0 →
    Claim.Arrives (.pktStore p) s p.hdr p.payload p.poison (fun a t =>
      let k := pkAddr p.hdr
      (Claim.homed a (pkJob p.hdr).1 (pkJob p.hdr).2 k p.payload.length →
        ∃ u, Claim.Written a u k p.payload p.poison ∧ t = u.objectAt (pkJob p.hdr).1 (pkJob p.hdr).2 (pkObj p.hdr) 1) ∧
      (¬ Claim.homed a (pkJob p.hdr).1 (pkJob p.hdr).2 k p.payload.length → Claim.Turned a t p.hdr k p.payload.length))) ∧
  (∀ (p : Packet) (s : State), pkType p.hdr ≠ 6 → pkColl p.hdr = false → p.payload ≠ [] → pkOp p.hdr ≠ 0 →
    Claim.Arrives (.pktStore p) s p.hdr p.payload p.poison (fun a t =>
      let k := pkAddr p.hdr
      let n := p.payload.length / 4 * contBits (pkFmt p.hdr) / 8
      (Claim.homed a (pkJob p.hdr).1 (pkJob p.hdr).2 k n →
        ∃ u, Claim.Written a u k (Claim.intoHome a p.hdr p.payload) [] ∧ t = u.objectAt (pkJob p.hdr).1 (pkJob p.hdr).2 (pkObj p.hdr) 1) ∧
      (¬ Claim.homed a (pkJob p.hdr).1 (pkJob p.hdr).2 k n → Claim.Turned a t p.hdr k n))) ∧
  (∀ (p : Packet) (s : State), pkType p.hdr ≠ 6 → pkColl p.hdr = false → p.payload = [] →
    Claim.Arrives (.pktStore p) s p.hdr p.payload p.poison (fun a t => t = a.objectAt (pkJob p.hdr).1 (pkJob p.hdr).2 (pkObj p.hdr) 1)) ∧
  (∀ (p : Packet) (s : State), pkType p.hdr = 6 →
    Claim.Arrives (.pktStore p) s p.hdr p.payload p.poison (fun a t =>
      t = a.addConsts { part := (pkJob p.hdr).1, job := (pkJob p.hdr).2, prog := pkFmt p.hdr % 16, tag := ofBytes p.payload / 2 ^ 1024 % 2 ^ 32, vals := (List.range 32).map (fun i => BitVec.ofNat 32 (ofBytes p.payload / 2 ^ (32 * i))), hot := decide (p.poison ≠ []) })) ∧
  (∀ (p : Packet) (s : State), pkType p.hdr ≠ 6 → pkColl p.hdr = true → p.payload ≠ [] →
    Claim.Arrives (.pktStore p) s p.hdr p.payload p.poison (fun a t =>
      t = { a with heldTransfers := a.heldTransfers ++ [⟨bits p.hdr 436 16, pkTag p.hdr, pkIter p.hdr, pkRank p.hdr, pkAddr p.hdr, pkObj p.hdr, p.payload, p.poison⟩] })) ∧
  (∀ (p : Packet) (s : State), Claim.Arrives (.pktLoad p) s p.hdr p.payload p.poison (fun a t =>
    let k := pkAddr p.hdr
    let n := 64 * pkLen p.hdr
    (Claim.homed a (pkJob p.hdr).1 (pkJob p.hdr).2 k n →
      ∃ gs, Claim.Responds a t p.hdr (a.pubBytes k n) gs ∧ ∀ g, g ∈ gs ↔ g < pkLen p.hdr ∧ a.poisoned (k + 64 * g) 64 = true) ∧
    (¬ Claim.homed a (pkJob p.hdr).1 (pkJob p.hdr).2 k n → Claim.Turned a t p.hdr k n))) ∧
  (∀ (p : Packet) (s : State), Claim.Arrives (.pktAtom p) s p.hdr p.payload p.poison (fun a t =>
    let k := pkAddr p.hdr
    let n := if pkFmt p.hdr / 2 % 2 = 1 then 8 else 4
    let op := pkOp p.hdr + 8 * (pkFmt p.hdr % 2)
    let old := a.homeNat k n
    let x := ofBytes (p.payload.take 8)
    let y := ofBytes ((p.payload.drop 8).take 8)
    (Claim.homed a (pkJob p.hdr).1 (pkJob p.hdr).2 k n → k % n = 0 → op ≤ 9 →
      ∃ u gs, Claim.Written a u k (toBytes n (if op < 9 then atomic op n old x else if old = y % 2 ^ (8 * n) then x % 2 ^ (8 * n) else old)) [] ∧
        Claim.Responds u t p.hdr (toBytes 8 old) gs ∧ (gs = [] ↔ a.poisoned k n = false)) ∧
    (Claim.homed a (pkJob p.hdr).1 (pkJob p.hdr).2 k n → k % n ≠ 0 ∨ 9 < op → Claim.Responds a t p.hdr [] []) ∧
    (¬ Claim.homed a (pkJob p.hdr).1 (pkJob p.hdr).2 k n → Claim.Turned a t p.hdr k n))) ∧
  (∀ (p : Packet) (s : State), Claim.Arrives (.pktSignal p) s p.hdr p.payload p.poison (fun a t =>
    let n := if p.payload = [] then 1 else ofBytes (p.payload.take 8)
    let k := pkAddr p.hdr
    (pkCancel p.hdr = false → k ≠ 0 → isStorage k = true → isStorage (k + 7) = true →
      ∀ u, a.increment (pkJob p.hdr).1 (pkJob p.hdr).2 k n [] 0 = some u → t = u) ∧
    (pkCancel p.hdr = true →
      t = { a with heldTransfers := a.heldTransfers ++ [⟨bits p.hdr 436 16, pkTag p.hdr, 0, pkRank p.hdr, 0, 0, [], []⟩] }))) ∧
  (∀ (p : Packet) (s : State), ∃ t, exec (.mcastStore p) s = .next t ∧
    (let h (n : Nat) : BitVec 512 := putBits (putBits p.hdr 452 32 n) 484 12 Config.chip
     let data := p.payload.drop (8 * pkList p.hdr)
     Claim.Chain (fun n v w => exec (.pktStore ⟨h n, data, p.poison⟩) v = .next w)
       (((pkEntries p).filter (fun e => e.1 == Config.chip)).map (·.2)) s t)) ∧
  (∀ (p : Packet) (s : State),
    ((∀ e ∈ pkEntries p, e.1 ≠ Config.chip) → exec (.reduceLoad p) s = .next s) ∧
    (∀ before after (n : Nat), pkEntries p = before ++ (Config.chip, n) :: after → (∀ e ∈ before, e.1 ≠ Config.chip) →
      let h := putBits p.hdr 452 32 n
      Claim.Arrives (.reduceLoad p) s h p.payload p.poison (fun a t =>
        let len := 64 * pkLen p.hdr
        let far := ((pkEntries p).map (·.1)).filter (fun c => decide (c ≠ Config.chip))
        let shut := a.portShut (bits h 436 16) = true
        -- a LOAD goes to each other entry, and the sum waits for the responses
        (Claim.homed a (pkJob h).1 (pkJob h).2 (pkAddr h) len → far ≠ [] → ¬ shut →
          ∃ (u : State) (codes : List Nat), Claim.Chain (fun c v w => w = v.sendPacket (bits h 436 16) c ⟨1, pkAddr h, 0, pkLen h, 0, [], []⟩) far a u ∧
            codes.length = far.length ∧ t = { u with reduces := u.reduces ++ [⟨p, h, pkAddr h, codes⟩] }) ∧
        (Claim.homed a (pkJob h).1 (pkJob h).2 (pkAddr h) len → far = [] ∨ shut →
          ∃ gs, Claim.Responds a t h
            ((List.range ((Claim.columns a p len).headD []).length).flatMap (fun i => toBytes 4 (Claim.reduced p (Claim.columns a p len) i))) gs) ∧
        (¬ Claim.homed a (pkJob h).1 (pkJob h).2 (pkAddr h) len → Claim.Turned a t h (pkAddr h) len))))

namespace Claim

/-- One more record of an event stands in ring `p`, with this code and this DETAIL, or is counted as dropped (R378, R380); nothing else differs. -/
def Noted (v t : State) (p code detail : Nat) : Prop :=
  t = { v with rings := t.rings } ∧ Recorded v t p code 0 0 ∧
  ((v.ring p).written - (v.ring p).read ≠ 4096 → bits (spGet 0 (t.ring p).recs ((v.ring p).written % 4096)) 130 64 = detail % 2 ^ 64)

/-- A port works: it is one of 32, and not down. -/
def portUp (s : State) (port : Nat) : Prop := port < 32 ∧ port ∉ s.platform.downPorts

end Claim

/-- R275, R271: a flit error changes no order, and the sixteenth of a port in a tick takes the port down; a port that goes down sends every unacknowledged packet again, with its number, and raises LINK_DOWN; a lost chip's packets are given up, its ranks are lost to every record that runs, and PEER_LOST is raised. -/
def Claim.sayLinkFailures : Prop :=
  ∀ (s : State),
    (∀ port, Claim.portUp s port → ∃ v t, exec (.linkDown port) s = .next t ∧ Claim.Noted v t 0 Cause.linkDown.code port ∧
      v = { s with
        platform := { s.platform with downPorts := s.platform.downPorts ++ [port] }
        outbox := s.outbox ++ (s.peers.filter (fun q => !q.lost)).flatMap (·.unacked) }) ∧
    (∀ port, Claim.portUp s port → ∃ t, exec (.flitCrcError port) s = .next t ∧
      (let n := spGet 0 s.platform.crcErrors port + 1
       t = { s with platform := t.platform, agenda := s.agenda ++ (if n < 16 then [] else [.occur (.linkDown port)]) } ∧
       t.platform = { s.platform with crcErrors := t.platform.crcErrors } ∧
       ∀ q, spGet 0 t.platform.crcErrors q = if q = port then n else spGet 0 s.platform.crcErrors q)) ∧
    (∀ port, ¬ Claim.portUp s port → exec (.linkDown port) s = .next s ∧ exec (.flitCrcError port) s = .next s) ∧
    (∀ chip, chip < 4096 → chip ≠ Config.chip → s.chipLost chip = false → ∃ v t, exec (.peerLost chip) s = .next t ∧
      Claim.Noted v { t with agenda := v.agenda, reduces := v.reduces, outbox := v.outbox } 0 Cause.peerLost.code chip ∧
      v = { s with peers := v.peers, colls := v.colls, cores := v.cores, saves := v.saves } ∧
      -- chunks that await it will park with PEER_LOST, and SIGOs that await it retire
      (∀ n, v.core n = { s.core n with copy := { (s.core n).copy with cmds := (s.core n).copy.cmds.map (fun x => { x with flight := x.flight.map (fun f =>
        if f.acks.any (fun z => z / 2 ^ 32 == chip) then { f with refused := some (f.refused.getD .peerLost) } else f) }) } }) ∧
      (s.reduces = [] → t.reduces = [] ∧ t.outbox = s.outbox ∧ t.agenda = s.agenda ++ s.cores.flatMap (fun e => e.2.flights.filterMap (fun f => match f.effects with
        | [.acked code _ _] => if v.unacked code = true then none else some (.occur (.instructionRetire e.1 f.eng f.id))
        | _ => none))) ∧
      v.peer chip = { s.peer chip with lost := true, unacked := [], held := [] } ∧
      (∀ c, c ≠ chip → v.peer c = s.peer c) ∧
      v.colls.length = s.colls.length ∧
      ∀ n, (h : n < s.colls.length) → ∃ k, v.colls[n]? = some k ∧
        k = { s.colls[n] with lost := k.lost } ∧
        ∀ r, r ∈ k.lost ↔ r ∈ s.colls[n].lost ∨ (s.colls[n].running = true ∧ s.colls[n].peers[r]? = some chip)) ∧
    (∀ chip, chip = Config.chip ∨ 4096 ≤ chip ∨ s.chipLost chip = true → exec (.peerLost chip) s = .next s)

end Sys2Proof

/-- R255 to R262, R270: packets between chips, and failing links. -/
def Obligations.Fabric : Prop :=
  Claim.sayFabricPackets ∧
  Claim.sayLinkFailures

namespace Sys2Proof

namespace Claim

/-! ## The graph unit (R37 to R39, R50) -/

/-- A graph record that R38 allows, of a job of partition `p`. -/
def graphOk (s : State) (p : Nat) (r : BitVec 512) : Prop :=
  bits r 448 2 = 0 ∧ bits r 0 344 = 0 ∧ bits r 396 52 % 64 = 0 ∧ bits r 344 52 % 8 = 0 ∧ bits r 464 16 < 1024 ∧ (s.job p (bits r 464 16)).valid = true

/-- A launch record that R38 allows. -/
def launchOk (r : BitVec 512) : Prop :=
  bits r 0 204 = 0 ∧ bits r 252 3 ≤ 4 ∧ 1 ≤ bits r 340 16 ∧ bits r 340 16 ≤ 16384 ∧ bits r 326 14 + bits r 340 16 ≤ 16384 ∧ bits r 356 52 % 8 = 0

/-- The host's write reaches a post window, of a job that does not run from a log (R37, R380, R382). -/
def posts (s : State) (part line : Nat) (bytes : List Byte) : Prop :=
  part < 64 ∧ line < 64 ∧ (part = 0 ∨ (s.part part).valid = true) ∧
  ∀ c ∈ s.captures, bytes.length = 64 → c.part = part → c.job = bits (BitVec.ofNat 512 (ofBytes bytes)) 464 16 → c.replay = false

/-- A launch is ready (R39): its NUNITS + 1 units wait for cores. -/
def ready (v w : State) (l : Launch) : Prop :=
  w = { v with units := v.units ++ (List.range (bits l.record 274 11 + 1)).map (fun n =>
    ⟨l.id, n, .waiting, 0, none, none, 0, bits l.record 326 14, bits l.record 340 16⟩) }

/-- A graph with incomplete launches, none of which is running or ready, is stuck (R39), and says so once, unless it is cancelled. -/
def unstuck (v w : State) (q : Nat) : Prop :=
  ∀ g, v.graph q = some g →
    let open_ (l : Launch) : Prop := l ∈ v.launches ∧ l.graph = q ∧ l.done = false
    (g.stuck = false → g.cancelled = false → (∃ l, open_ l) → (∀ l, open_ l → l.deps ≠ 0) →
      w = State.graphEvent { v with graphs := v.graphs.map (fun h => if h.seq = q then { h with stuck := true } else h) }
        g.part g.record .graphStuck (bits g.record 480 32)) ∧
    (g.stuck = true ∨ g.cancelled = true ∨ (∀ l, ¬ open_ l) ∨ (∃ l, open_ l ∧ l.deps = 0) → w = v)

/-- The counter of the launch with index `i` falls by one (R39); at 0 the launch is ready. One that does not exist, or is at 0, is RECORD_BAD and cancels the graph. -/
def falls (g : Graph) (q i : Nat) (v w : State) : Prop :=
  (∀ m, v.launches.find? (fun m => m.graph == q && m.index == i) = some m → m.deps ≠ 0 →
    let u : State := { v with launches := v.launches.map (fun x => if x.id = m.id then { x with deps := x.deps - 1 } else x) }
    if m.deps = 1 ∧ m.done = false ∧ m.cancelled = false then ready u w m else w = u) ∧
  ((∀ m, v.launches.find? (fun m => m.graph == q && m.index == i) = some m → m.deps = 0) →
    w = if (v.graph q).any (fun h => h.cancelled) then v
      else (v.graphEvent g.part g.record .recordBad (bits g.record 480 32)).cancelGraph q none)

/-- A unit that has halted or been cancelled (R50). -/
def gone (u : Unit_) : Prop := u.state = .halted ∨ u.state = .cancelled

/-- Every unit of a launch is gone, its placed units exist unless it was cancelled before it was ready, and every plain store that its X engines accepted has landed (R50, R56). -/
def launchEnds (s : State) (l : Launch) : Prop :=
  (∀ u ∈ s.units, u.launch = l.id → gone u) ∧
  (l.cancelled = true ∨ bits l.record 274 11 + 1 ≤ (s.units.filter (fun u => u.launch == l.id && u.block.isNone)).length) ∧
  s.plainLanded l.id = true

end Claim

/-- R37, R38, R39: a post is accepted, refused with RECORD_BAD, or discarded with POST_REFUSED; the launches of an accepted graph with NPRED 0 are ready. -/
def Claim.sayGraphPosts : Prop :=
  ∀ (part line : Nat) (bytes : List Byte) (s : State),
    (¬ Claim.posts s part line bytes → exec (.graphPost part line bytes) s = .next s) ∧
    (Claim.posts s part line bytes → ∃ v t, exec (.graphPost part line bytes) s = .next t ∧
      (let r := BitVec.ofNat 512 (ofBytes bytes)
       let room := (v.graphs.filter (fun g => g.part == part)).length < 256
       v = (if bytes.length = 64 then s.captureHost part (bits r 464 16) 0 (part * 4096 + line * 64) bytes else s) ∧
       (bytes.length ≠ 64 ∨ ¬ room → Claim.Noted v t part Cause.postRefused.code 0) ∧
       (bytes.length = 64 → room → ¬ Claim.graphOk v part r → t = v.graphEvent part r .recordBad (bits r 480 32)) ∧
       (bytes.length = 64 → room → Claim.graphOk v part r → ∀ va, launchArray v part r = .error va → t = v.graphEvent part r .recordBad va) ∧
       (bytes.length = 64 → room → Claim.graphOk v part r → ∀ ls, launchArray v part r = .ok ls → (∃ l ∈ ls, ¬ Claim.launchOk l) →
         t = v.graphEvent part r .recordBad (bits r 480 32)) ∧
       (bytes.length = 64 → room → Claim.graphOk v part r → ∀ ls, launchArray v part r = .ok ls → (∀ l ∈ ls, Claim.launchOk l) →
         let new (n : Nat) : Launch := ⟨v.nextLaunch + n, v.nextGraph, n, ls.getD n 0, bits (ls.getD n 0) 255 8, false, false, 0, 0, [], [], []⟩
         ∃ w, Claim.Chain (fun n a b => if bits (ls.getD n 0) 255 8 = 0 then Claim.ready a b (new n) else b = a) (List.range ls.length)
           { v with
             graphs := v.graphs ++ [⟨v.nextGraph, part, r, 0, false, false⟩]
             launches := v.launches ++ (List.range ls.length).map new
             nextGraph := v.nextGraph + 1, nextLaunch := v.nextLaunch + ls.length } w ∧
           Claim.unstuck w t v.nextGraph)))

/-- R50, R39, R37: a launch completes once its units are gone and its stores have landed: its stores are published, its DONEOBJ is incremented, only then its successors' counters fall; when every launch has completed, the graph's DONEOBJ is incremented, with cancelled status where it or the launch was cancelled (R51), and its entry is free. -/
def Claim.sayLaunchCompletion : Prop :=
  ∀ (id : Nat) (s : State) (l : Launch), s.launch id = some l →
    (l.done = false → Claim.launchEnds s l →
      ∃ u v t, exec (.launchComplete id) s = .next t ∧
        (let p := s.publish id
         let d : State := { p with launches := p.launches.map (fun x => if x.id = id then { x with done := true } else x) }
         let pj := d.jobOfLaunch id
         u = d.incrementDone pj.1 pj.2 (bits l.record 356 52) (d.joinOf id) l.cancelled) ∧
        v = { u with graphs := u.graphs.map (fun h => if h.seq = l.graph then { h with doneCount := h.doneCount + 1 } else h) } ∧
        ∀ g, v.graph l.graph = some g →
        ∃ w, Claim.Chain (fun n => Claim.falls g l.graph (bits l.record (240 - 12 * n) 12)) (List.range (bits l.record 252 3)) v w ∧
        ∀ h, w.graph l.graph = some h →
          (h.doneCount < bits h.record 450 12 + 1 → Claim.unstuck w t l.graph) ∧
          (bits h.record 450 12 + 1 ≤ h.doneCount →
            let x := w.incrementDone h.part (bits h.record 464 16) (bits h.record 344 52)
              ((w.launches.filter (fun m => m.graph == l.graph)).flatMap (·.pubs)) (h.cancelled || l.cancelled)
            let ix := h.part * 1024 + bits h.record 464 16
            -- the job's count of graphs done goes up (R35)
            (∀ i, spFind t.jobs i = if i = ix then (spFind x.jobs ix).map (fun j => { j with graphsDone := j.graphsDone + 1 }) else spFind x.jobs i) ∧
            t = { x with
              jobs := t.jobs
              graphs := x.graphs.filter (fun q => q.seq != l.graph)
              launches := x.launches.filter (fun m => m.graph != l.graph)
              units := x.units.filter (fun y => !(w.launches.filter (fun m => m.graph == l.graph)).any (fun m => m.id == y.launch)) })) ∧
    (l.done = true ∨ ¬ Claim.launchEnds s l → exec (.launchComplete id) s = .next s)

end Sys2Proof

/-- R33 to R50: posts of graphs and the end of a launch. -/
def Obligations.Graphs : Prop :=
  Claim.sayGraphPosts ∧
  Claim.sayLaunchCompletion

namespace Sys2Proof

namespace Claim

/-! ## Collectives (R262 to R272) -/

/-- Trips of level `l` (R263); one at a level that is not used. -/
def trip (r : BitVec 1024) (l : Nat) : Nat := if l ≤ (r.toNat / 2 ^ 980) % 4 then (r.toNat / 2 ^ (104 * l + 92)) % 4096 + 1 else 1
/-- Trips inside level `l`. -/
def tripsBelow (r : BitVec 1024) : Nat → Nat
  | 0 => 1
  | l + 1 => tripsBelow r l * trip r l
/-- `il` of iteration `t`, `i3` outermost. -/
def digit (r : BitVec 1024) (t l : Nat) : Nat := t / tripsBelow r l % trip r l
/-- A field of the record, signed. -/
def signedAt (r : BitVec 1024) (lo n : Nat) : Int := (BitVec.ofNat n (r.toNat / 2 ^ lo)).toInt
/-- A field of the record. -/
def fieldAt (r : BitVec 1024) (lo n : Nat) : Nat := r.toNat / 2 ^ lo % 2 ^ n
/-- The sum of `il` times the field `[lo + n - 1 : lo]` of level `l`, over the levels. -/
def affine (r : BitVec 1024) (t lo n : Nat) : Int :=
  digit r t 0 * signedAt r lo n + digit r t 1 * signedAt r (104 + lo) n + digit r t 2 * signedAt r (208 + lo) n + digit r t 3 * signedAt r (312 + lo) n
/-- The peer of iteration `t` for rank `me` (R265). -/
def peerOf (r : BitVec 1024) (t me : Nat) : Nat :=
  ((affine r t 80 12 + signedAt r 942 12 + (if fieldAt r 955 1 = 1 then (me : Int) else 0)) % ((fieldAt r 970 10 + 1 : Nat) : Int)).toNat
/-- Where iteration `t` reads, where rank `me` writes, and its object (R265): sums that may leave bits [51:0]. -/
def fromOf (r : BitVec 1024) (t : Nat) : Int := fieldAt r 874 52 + affine r t 48 32
/-- See `fromOf`. -/
def toOf (r : BitVec 1024) (t me : Nat) : Int := fieldAt r 822 52 + affine r t 16 32 + me * signedAt r 718 32
/-- See `fromOf`. -/
def objOf (r : BitVec 1024) (t : Nat) : Int := fieldAt r 770 52 + 8 * affine r t 0 16
/-- `i3` to `i0` of a key. -/
def iterOf (r : BitVec 1024) (t : Nat) : Nat := digit r t 0 + digit r t 1 * 2 ^ 12 + digit r t 2 * 2 ^ 24 + digit r t 3 * 2 ^ 36
/-- Bytes of a transfer. -/
def sizeOf (r : BitVec 1024) : Nat := (fieldAt r 926 16 + 1) * 64
/-- The record of the lowest die. -/
def lowest (k : Coll) : BitVec 1024 := match k.copies with
  | q :: _ => q.rec_
  | [] => 0
/-- Innermost iterations. -/
def iterations (k : Coll) : Nat := tripsBelow (lowest k) 4

/-- One packet of a transfer goes to its peer, or is held here where this package is the peer (R265, R266). -/
def goes (k : Coll) (chip addr obj : Nat) (data : List Byte) (bad : List Nat) (a b : State) : Prop :=
  let r := lowest k
  let fj := k.part * 1024 + k.job
  let t := k.emitted
  if chip = Config.chip then
    b = { a with heldTransfers := a.heldTransfers ++ [⟨fj, fieldAt r 990 16, iterOf r t, fieldAt r 960 10, addr, obj, data, bad⟩] }
  else
    b = a.sendPacket fj chip ⟨0, addr % 2 ^ 52, obj % 2 ^ 52, (data.length + 63) / 64,
      2 ^ 229 + fieldAt r 987 3 * 2 ^ 373 + fieldAt r 982 5 * 2 ^ 368 + fieldAt r 990 16 * 2 ^ 352 + iterOf r t * 2 ^ 304 + fieldAt r 960 10 * 2 ^ 294, data, bad⟩

/-- A package's element (R267): from the lowest die up, each sum rounded to FP32 with RNE, the last once to FMT; modulo 2^32 for IADD; one die's element as it is. -/
def gathered (r : BitVec 1024) (x : Nat) (rest : List Nat) : Nat :=
  let op := fieldAt r 987 3
  let fmt := fieldAt r 982 5
  if rest = [] then x
  else if op = 4 then (x + rest.sum) % 2 ^ 32
  else (encodeFmt fmt .rne false 0 (rest.foldl (fun acc y =>
    decodeF fmtFP32 (roundRne (if op = 1 then (nAdd false acc (decodeFmt fmt y)).1 else (nMinMax (op == 2) acc (decodeFmt fmt y)).1)).1)
    (decodeFmt fmt x))).1

/-- The bytes of a transfer: one die's as they are, or the dies' elements combined. -/
def contribution (r : BitVec 1024) (cols : List (List Byte)) : List Byte :=
  match cols with
  | [a] => a
  | _ =>
    let w := contBits (fieldAt r 982 5)
    let es := cols.map (unpackCodes w)
    packCodes w ((List.range (es.headD []).length).map (fun i => gathered r ((es.headD []).getD i 0) (es.tail.map (fun c => c.getD i 0))))

/-- Packet `(addr, n)` of a list goes after those before it, from byte `off` of the transfer on. -/
def goAll (k : Coll) (chip obj : Nat) (bytes : List Byte) (hot : Nat → Nat → List Nat) : Nat → List (Nat × Nat) → State → State → Prop
  | _, [], a, b => b = a
  | off, (addr, n) :: ps, a, b => ∃ c, goes k chip addr obj ((bytes.drop off).take n) (hot off n) a c ∧ goAll k chip obj bytes hot (off + n) ps c b

/-- Record `k` expects the transfer of iteration `t` from rank `m` (R266). -/
def expects (k : Coll) (t m : Nat) : Prop :=
  t < iterations k ∧ m < fieldAt (lowest k) 970 10 + 1 ∧ k.peers.getD (peerOf (lowest k) t m) 0 = Config.chip

/-- Key order of expected transfers: iteration, then rank. -/
def keyBefore (a b : Nat × Nat) : Prop := a.1 < b.1 ∨ (a.1 = b.1 ∧ a.2 < b.2)

/-- The transfer is still to be applied. -/
def pending (k : Coll) (e : Nat × Nat) : Prop := expects k e.1 e.2 ∧ e.1 * 1024 + e.2 ∉ k.applied

/-- The packets of an expected transfer have all come, in their order. -/
def hasCome (s : State) (k : Coll) (e : Nat × Nat) (hs : List HeldTransfer) : Prop :=
  hs <+: s.heldTransfers.filter (fun h => h.job == k.part * 1024 + k.job && h.ctag == fieldAt (lowest k) 990 16 &&
    h.iter == iterOf (lowest k) e.1 && h.rank == e.2 && !h.data.isEmpty) ∧
  (hs.map (fun h => h.data.length)).sum = sizeOf (lowest k)

/-- Two transfers share an element. -/
def shares (k : Coll) (a b : Nat × Nat) : Prop :=
  let r := lowest k
  toOf r a.1 a.2 < toOf r b.1 b.2 + sizeOf r ∧ toOf r b.1 b.2 < toOf r a.1 a.2 + sizeOf r

/-- Transfer `e` may be applied or resolved (R266, R271): it has come or its rank is lost, and every transfer before it in key order that shares an element is done. -/
def mayApply (s : State) (k : Coll) (e : Nat × Nat) : Prop :=
  pending k e ∧ (e.2 ∈ k.lost ∨ ∃ hs, hasCome s k e hs) ∧ ∀ b, pending k b → keyBefore b e → ¬ shares k b e

/-- Transfer `e` is the first that may. -/
def isNext (s : State) (k : Coll) (e : Nat × Nat) : Prop := mayApply s k e ∧ ∀ b, mayApply s k b → ¬ keyBefore b e

/-- One packet is applied at byte `va` of the destination (R266, R271): elements in a dead range keep their value; poison of the packet, and of a local value that is read, stays. -/
def applies (k : Coll) (va : Int) (h : HeldTransfer) (a b : State) : Prop :=
  let r := lowest k
  let fmt := fieldAt r 982 5
  let op := fieldAt r 987 3
  let w := contBits fmt
  let old := unpackCodes w (a.pubBytes h.addr h.data.length)
  let new := unpackCodes w h.data
  let at_ (i : Nat) : Nat :=
    let l := old.getD i 0
    let x := new.getD i 0
    let e : Int := va + (i * w / 8 : Nat)
    if ∃ d ∈ k.dead, d.1 ≤ e ∧ e < d.1 + d.2 then l
    else if op = 0 then x
    else if op = 4 then (l + x) % 2 ^ 32
    else (reduce1 (op - 1) fmt l (decodeFmt fmt x)).1
  Written a b h.addr (packCodes w ((List.range (min old.length new.length)).map at_)) h.poison ∧
  (op ≠ 0 → ∀ n, h.addr / 64 ≤ n → n * 64 < h.addr + h.data.length → n ∈ a.poison → n ∈ b.poison)

/-- Packets of a transfer in turn, from byte `va` of the destination on. -/
def applyAll (k : Coll) : Int → List HeldTransfer → State → State → Prop
  | _, [], a, b => b = a
  | va, h :: hs, a, b => ∃ c, applies k va h a c ∧ applyAll k (va + h.data.length) hs c b

/-- The only record of its number becomes `f` of itself. -/
def onColl (s : State) (k : Coll) (f : Coll → Coll) : State := { s with colls := s.colls.map (fun q => if q.id = k.id then f q else q) }

/-- A record runs, and its lowest copy's command is not parked (R272). -/
def runs (s : State) (k : Coll) : Prop := k.running = true ∧ k.cancelled = false ∧ s.collParked k = false

/-- A packet that a record holds here: of its job and tag. -/
def heldFor (k : Coll) (h : HeldTransfer) : Bool := h.job == k.part * 1024 + k.job && h.ctag == fieldAt (lowest k) 990 16

/-- The object of iteration `t` is due (R266, R271): it has one, no rank that the iteration expects is lost or was resolved, and with PERX 0 every other transfer of the iteration is done. -/
def bumps (k : Coll) (dead : List Nat) (e : Nat × Nat) (obj : Nat) : Prop :=
  obj ≠ 0 ∧ e.1 ∉ dead ∧
  (∀ m, expects k e.1 m → m ∈ k.lost → e.1 * 1024 + m ∈ k.applied) ∧
  (fieldAt (lowest k) 954 1 = 1 ∨ ∀ m, expects k e.1 m → m = e.2 ∨ e.1 * 1024 + m ∈ k.applied)

/-- A transfer that a record holds has a key outside the expected set. -/
def strange (k : Coll) (h : HeldTransfer) : Prop := heldFor k h = true ∧ h.data ≠ [] ∧ ∀ t, expects k t h.rank → iterOf (lowest k) t ≠ h.iter

/-- The copies agree but for SRC, and each keeps R268 (R267; log 107). -/
def sound (k : Coll) : Prop :=
  (∀ q ∈ k.copies, putBits (lowest k) 874 52 0 = putBits q.rec_ 874 52 0) ∧ ∀ q ∈ k.copies, collOk q.rec_ k.peers (dieOf q.core) Config.chip = true

/-- STATUS that a record completes with now (R269, R270). -/
def ends (s : State) (k : Coll) (st : Nat) : Prop :=
  if k.cancelled = true then st = 4
  else k.running = true ∧
    (¬ sound k → st = 3) ∧
    (sound k → s.collParked k = false ∧ (∀ h ∈ s.heldTransfers, ¬ strange k h) ∧ iterations k ≤ k.emitted ∧ s.collUnacked k = [] ∧ (∀ e, ¬ pending k e) ∧
      st = (if k.mismatch = true then 3 else if k.lost = [] then 1 else 2))

/-- A copy's command is complete (R269): STATUS and LOST stand in its record in SPM, and the command may retire; one of a saved unit has them in its image (R322). -/
def copyEnds (q : CollCopy) (st lost : Nat) (a b : State) : Prop :=
  ((a.core q.core).seat.unit = some (q.launch, q.unit) → ∀ x, (a.core q.core).cmd q.cmd = some x →
    let k := keySpm q.core (tBase x.ra)
    (∀ n, n ≠ q.core → b.core n = a.core n) ∧
    (∀ y, (b.core q.core).cmd q.cmd = some y → y = { x with acted := true }) ∧
    b = { a with cores := b.cores, mem := b.mem, poison := b.poison, stores := b.stores } ∧
    sameMemBut a b (k + 120) 8 ∧
    BitVec.ofNat 1024 (b.readNat k 128) = putBits (putBits (BitVec.ofNat 1024 (a.readNat k 128)) 1016 8 st) 1006 10 lost) ∧
  ((a.core q.core).seat.unit ≠ some (q.launch, q.unit) → ∀ v, a.copySaved q = some v →
    b = (a.modSavedCmd v q.cmd (fun y => { y with acted := true, data := [(putBits (putBits q.rec_ 1016 8 st) 1006 10 lost).toNat] })).writeCstat v q.cmd st)

end Claim

end Sys2Proof

/-- R265, R267: the arbiter grants one transfer to a job, whose earliest record emits its next one: read on each die of DIES, combined, addressed by the nest, and sent with its key; a check or a walk that fails parks the record (R272). -/
def Obligations.CollectiveEmission : Prop :=
  ∀ (s : State) (k : Coll) (arb : Arbiter),
    let may (q : Coll) : Prop := s.collReady q = true
    let w (n : Nat) : Nat := (s.job (n / 1024) (n % 1024)).wcoll.toNat
    let jobs := (s.colls.filter s.collReady).map (fun q => q.part * 1024 + q.job)
    let first (n : Nat) : Option Coll := (s.colls.filter s.collReady).find? (fun q => q.part * 1024 + q.job == n)
    (∀ q, may q ↔ Claim.runs s q ∧ Claim.sound q ∧ q.emitted < Claim.iterations q ∧
      ((s.collUnacked q).map (fun p => pkIter p.hdr)).eraseDups.length < 64) ∧
    (s.collArb.choose jobs ⟨fun n => (first n).map (fun q => Claim.sizeOf (Claim.lowest q) / 64), fun n => w n * 64, fun n => max (4 * w n * 64) 65536⟩ =
        some (k.part * 1024 + k.job, arb) → first (k.part * 1024 + k.job) = some k →
      ∃ t, exec (.collectiveEmit k.id) s = .next t ∧
        (let r := Claim.lowest k
         let n := Claim.sizeOf r
         let v : State := { s with collArb := arb }
         let rank := Claim.peerOf r k.emitted (Claim.fieldAt r 960 10)
         let passed (u : State) : State := Claim.onColl u k (fun q => { q with emitted := k.emitted + 1 })
         (∀ va m rd wr, va < 0 ∨ 2 ^ 52 < va + (m : Nat) → ∃ a, rangePieces v k.part k.job va m rd wr = .error (.parks .walk 0 a)) ∧
         (∀ (va m : Nat) rd wr ps, va + m ≤ 2 ^ 52 → (rangePieces v k.part k.job va m rd wr = .ok ps ↔ ioPieces v k.part k.job va m rd wr = some ps)) ∧
         (∀ (srcs : List (List (Nat × Nat))) dst os,
           k.copies.mapM (fun q => checkedPieces v k.part k.job (Claim.fromOf q.rec_ k.emitted) n) = .ok srcs →
           rangePieces v k.part k.job (Claim.toOf r k.emitted (Claim.fieldAt r 960 10)) n false true = .ok dst →
           (if Claim.fieldAt r 770 52 = 0 then .ok [] else rangePieces v k.part k.job (Claim.objOf r k.emitted) 8 true true) = .ok os →
           (rank ∈ k.lost → t = passed v) ∧
           (rank ∉ k.lost → ∃ u hot, t = passed u ∧
             (∀ off m g, g ∈ hot off m ↔ g < (m + 63) / 64 ∧ ∃ ps ∈ srcs, sidePoison v (ps.map (fun p => (some p.1, p.2))) (off + 64 * g) (min 64 (m - 64 * g)) = true) ∧
             Claim.goAll k (k.peers.getD rank 0) (os.headD (0, 0)).1 (Claim.contribution r (srcs.map v.pieceBytes)) hot 0 (cutPackets (n / 64 + dst.length) dst) v u)) ∧
         (∀ e, k.copies.mapM (fun q => checkedPieces v k.part k.job (Claim.fromOf q.rec_ k.emitted) n) = .error e → t = v.parkStop k e) ∧
         (∀ srcs, k.copies.mapM (fun q => checkedPieces v k.part k.job (Claim.fromOf q.rec_ k.emitted) n) = .ok srcs →
           ∀ e, rangePieces v k.part k.job (Claim.toOf r k.emitted (Claim.fieldAt r 960 10)) n false true = .error e → t = v.parkStop k e)))

namespace Sys2Proof

/-- R266, R271: a record hears that a peer's work was cancelled, discards a transfer outside the expected set (STATUS 3), or applies or resolves the first transfer that may be: in key order at each element, each application rounded once, then the object. -/
def Claim.sayCollectiveApplication : Prop :=
  ∀ (id : Nat) (s : State) (k : Coll), s.coll id = some k →
    (¬ Claim.runs s k → exec (.collectiveApply id) s = .next s) ∧
    (Claim.runs s k → ∀ h before after, s.heldTransfers = before ++ h :: after →
      (∀ x ∈ before, ¬ (Claim.heldFor k x = true ∧ x.data = [])) → Claim.heldFor k h = true → h.data = [] →
      ∃ t f, exec (.collectiveApply id) s = .next t ∧ (∀ q : Coll, f q = { q with lost := (f q).lost } ∧ ∀ m, m ∈ (f q).lost ↔ m ∈ q.lost ∨ m = h.rank) ∧
        t = Claim.onColl { s with heldTransfers := s.heldTransfers.filter (fun x => x ≠ h) } k f) ∧
    (Claim.runs s k → (∀ x ∈ s.heldTransfers, Claim.heldFor k x = true → x.data ≠ []) →
      (∀ h before after, s.heldTransfers = before ++ h :: after → (∀ x ∈ before, ¬ Claim.strange k x) → Claim.strange k h →
        ∃ t, exec (.collectiveApply id) s = .next t ∧
          t = Claim.onColl { s with heldTransfers := s.heldTransfers.filter (fun x => x ≠ h) } k (fun q => { q with mismatch := true })) ∧
      ((∀ x ∈ s.heldTransfers, ¬ Claim.strange k x) →
        ((∀ e, ¬ Claim.mayApply s k e) → exec (.collectiveApply id) s = .next s) ∧
        (∀ e, Claim.isNext s k e →
          let r := Claim.lowest k
          let va := Claim.toOf r e.1 e.2
          let n := Claim.sizeOf r
          (e.2 ∈ k.lost → ∃ t f, exec (.collectiveApply id) s = .next t ∧ t = Claim.onColl s k f ∧
            ∀ q, f q = { q with applied := q.applied ++ [e.1 * 1024 + e.2], dead := q.dead ++ [(va, n)], deadIters := (f q).deadIters } ∧
              ∀ x, x ∈ (f q).deadIters ↔ x ∈ q.deadIters ∨ x = e.1) ∧
          (e.2 ∉ k.lost → ∀ hs, Claim.hasCome s k e hs →
            ((∀ h ∈ hs, ∃ y, checkHome s k.part k.job h.addr h.data.length = .ok y) →
              ∃ u v t dead, exec (.collectiveApply id) s = .next t ∧ Claim.applyAll k va hs s u ∧
                (∀ x, x ∈ dead ↔ x ∈ k.deadIters ∨ (x = e.1 ∧ ∃ d ∈ k.dead, d.1 < va + n ∧ va < d.1 + d.2)) ∧
                v = Claim.onColl { u with heldTransfers := u.heldTransfers.filter (fun h => !hs.contains h) } k
                  (fun q => { q with applied := q.applied ++ [e.1 * 1024 + e.2], deadIters := dead }) ∧
                (let obj := (hs.map (·.obj)).headD 0
                 let drop (id : Nat) : State := v.eventColl k { Report.of .objDrop with lease := id }
                 (Claim.bumps k dead e obj →
                   (syncLease v k.part k.job obj 8 = none → t = drop 0) ∧
                   (∀ id l, syncLease v k.part k.job obj 8 = some (id, l) →
                     (l.stowed = true → t = (v.increment k.part k.job obj 1 [] 0).getD (drop id)) ∧
                     (l.stowed = false → t = if (leaseCheck v k.part k.job id).isOk then v.addObject obj 1 [] else drop id))) ∧
                 (¬ Claim.bumps k dead e obj → t = v))) ∧
            (∀ h before after y, hs = before ++ h :: after → (∀ x ∈ before, ∃ z, checkHome s k.part k.job x.addr x.data.length = .ok z) →
              checkHome s k.part k.job h.addr h.data.length = .error y → exec (.collectiveApply id) s = .next (s.parkStop k y))))))

/-- R268 to R271: a record completes when it is cancelled, when its copies disagree, or when all it emitted is acknowledged and all it expects is applied or resolved; STATUS goes into every copy, and every copy's command may retire together; a cancelled record tells every peer that is alive. -/
def Claim.sayCollectiveCompletion : Prop :=
  ∀ (id : Nat) (s : State) (k : Coll), s.coll id = some k →
    ((∀ st, ¬ Claim.ends s k st) → exec (.collectiveComplete id) s = .next s) ∧
    (∀ st, Claim.ends s k st → ∃ u w t, exec (.collectiveComplete id) s = .next t ∧
      (let r := Claim.lowest k
       let lost := if st = 2 then k.lost.foldl min 1023 else 0
       let told := if st = 4 then (k.peers.filter (fun c => c != Config.chip && !s.chipLost c)).eraseDups else []
       let known (h : HeldTransfer) : Prop := h.data = [] ∨ ∃ t, Claim.expects k t h.rank ∧ Claim.iterOf r t = h.iter
       Claim.Chain (fun c a b => b = a.sendPacket (k.part * 1024 + k.job) c
         ⟨3, 0, 0, 0, 2 ^ 230 + Claim.fieldAt r 990 16 * 2 ^ 352 + Claim.fieldAt r 960 10 * 2 ^ 294, [], []⟩) told s u ∧
       ∃ v : State, v = { u with colls := u.colls.filter (fun q => q.id != k.id), heldTransfers := v.heldTransfers } ∧
         v.heldTransfers.Sublist u.heldTransfers ∧
         (∀ h, h ∈ v.heldTransfers ↔ h ∈ u.heldTransfers ∧ (st = 1 ∨ Claim.heldFor k h = false ∨ ¬ known h)) ∧
         Claim.Chain (fun n => Claim.copyEnds (k.copies.getD n default) st lost) (List.range k.copies.length) v w ∧
         t = w.startColls))

end Sys2Proof

/-- R263 to R275: arriving contributions and completion. -/
def Obligations.CollectiveEnds : Prop :=
  Claim.sayCollectiveApplication ∧
  Claim.sayCollectiveCompletion

namespace Sys2Proof

namespace Claim

/-! ## The keeper: what arrives (R281 to R289, R295) -/

/-- A block or command reaches the keeper (R274, R282). `body` says what becomes of it, for the chunk of this package that it is, or for none. One from another chip follows the sequence rule, and is acknowledged unless it meets back-pressure; a chunk of this package lands once it is taken. -/
def Reaches (i : Instr) (s : State) (b : KBlock) (body : Option (Nat × Nat × Nat) → State → KTaken → Prop) : Prop :=
  (∀ core cmd chunk, ownChunk s b = some (core, cmd, chunk) → ∃ r, body (some (core, cmd, chunk)) s r ∧
    match r with
    | .took u => exec i s = .next (u.takenBlock core cmd chunk)
    | .waits u => exec i s = .next u
    | .back u => exec i s = .next u) ∧
  (ownChunk s b = none →
    (¬ forMe s b.hdr → exec i s = .next s) ∧
    (forMe s b.hdr → ahead s b.hdr ≠ 0 → ∃ t, exec i s = .next t ∧ t = { s with peers := t.peers } ∧
      (∀ chip, chip ≠ pkSrc b.hdr → t.peer chip = s.peer chip) ∧
      (let q := s.peer (pkSrc b.hdr)
       t.peer (pkSrc b.hdr) = if ahead s b.hdr ≤ 4095 ∧ ∀ k ∈ q.held, heldSeq k ≠ pkSeq b.hdr then { q with held := q.held ++ [i] } else q)) ∧
    (forMe s b.hdr → ahead s b.hdr = 0 →
      let log := toBytes 64 b.kh.toNat ++ b.payload
      let hot := b.poison.map (· + 1)
      ((s.job (pkJob b.hdr).1 (pkJob b.hdr).2).valid = false → ∃ t, exec i s = .next t ∧ Accepted s t b.hdr log hot) ∧
      ((s.job (pkJob b.hdr).1 (pkJob b.hdr).2).valid = true → ∃ r, body none s r ∧
        match r with
        | .took u => ∃ t, exec i s = .next t ∧ Accepted u t b.hdr log hot
        | .waits u => ∃ t, exec i s = .next t ∧ Accepted u t b.hdr log hot
        | .back u => exec i s = .next u)))

/-- A field of a keeper header. -/
def khField (b : KBlock) (lo n : Nat) : Nat := b.kh.toNat / 2 ^ lo % 2 ^ n

/-- An event of a keeper to the job's supervisor unit and the ring, which names group, block and step in DETAIL (R378). -/
def tells (s : State) (p j : Nat) (c : Cause) (group block step lease count : Nat) : State :=
  s.eventJob p j ⟨c, .c, 0, 0, 0, 0, 0, 0, 0, lease, count, group * 2 ^ 52 + block * 2 ^ 32 + step, none⟩

/-- KCMD_DONE (R283). -/
def finished (s : State) (p j num kind count : Nat) : State :=
  s.eventJob p j ⟨.kcmdDone, .c, 0, 0, 0, 0, 0, 0, 0, 0, count, num + kind * 2 ^ 8 + Config.chip * 2 ^ 16, none⟩

/-- A command of the job's supervisor unit acts, and any other is discarded with KCMD_DENIED (R282). `act` says what it does and whether it is refused, or that it is not finished yet. -/
def Orders (i : Instr) (s : State) (b : KBlock) (num kind : Nat) (act : Nat → Nat → State → State → Option Bool → Prop) : Prop :=
  Reaches i s b (fun _ s r =>
    let p := (pkJob b.hdr).1
    let j := (pkJob b.hdr).2
    (bits b.hdr 231 1 = 0 → r = .took (tells s p j .kcmdDenied (khField b 230 6) 0 0 0 0)) ∧
    (bits b.hdr 231 1 = 1 → ∃ u refused, act p j s u refused ∧
      match refused with
      | some x => r = .took (finished u p j num kind x.toNat)
      | none => r = .took u))

/-- A GRAD block that R282 takes. -/
def gradOk (g : KGroup) (b : KBlock) : Prop :=
  g.lost = false ∧ g.retiring = 0 ∧ khField b 210 20 < bits g.setup 488 20 + 1 ∧ khField b 173 5 ≤ 4 ∧
  khField b 129 12 = bits g.setup 467 12 ∧ khField b 0 73 = 0 ∧ b.poison = []

/-- The deadline of a step starts when the group first sees it (R293). -/
def sees (s v : State) (g : KGroup) (step : Nat) : Prop :=
  let d := bits g.setup 443 24
  if d = 0 ∨ ∃ e ∈ g.deadlines, e.1 = step then v = s
  else v = (s.modGroup g.part g.job g.group (fun k => { k with deadlines := k.deadlines ++ [(step, s.tick + d, false)] })).atTick (s.tick + d)
    (.missing g.part g.job g.group step)

/-- The block of this step is being applied, or is held (R287). -/
def busyWith (s : State) (g : KGroup) (n step : Nat) : Prop :=
  (∃ a, s.kApplying g.part g.job g.group n = some a ∧ a.step = step) ∨
  ∃ h ∈ g.held, h.block = n ∧ h.step = step

/-- The applied step of a block: its own, or INITSTEP. -/
def appliedStep (g : KGroup) (n : Nat) : Nat := match g.blocks.find? (fun k => k.block == n) with
  | some k => k.applied
  | none => bits g.setup 198 32

/-- A request waits for an update unit, once. -/
def queues (u v : State) (r : Nat × Nat × Nat × Nat) : Prop :=
  v = if r ∈ u.keeper.queue then u else { u with keeper := { u.keeper with queue := u.keeper.queue ++ [r] } }

/-- Slot `i` is the lowest free one of the stage, which lies under open leases of HBM's tier (R287, R289). -/
def slotFree (s : State) (g : KGroup) (i : Nat) : Prop :=
  i < bits g.setup 346 40 / 4160 ∧ (∀ h ∈ g.held, h.slot ≠ some i) ∧ (∀ m, m < i → ∃ h ∈ g.held, h.slot = some m) ∧
  ∃ ls, vaLeases s g.part g.job (some 2) (bits g.setup 386 52) (bits g.setup 346 40) = .ok ls

/-- A slot of the stage holds the flit of the keeper header, then the data (R279; log 100). -/
def staged (s : State) (g : KGroup) (i : Nat) (b : KBlock) : State :=
  s.writePieces ((ioPieces s g.part g.job (bits g.setup 386 52 + 4160 * i) 4160 true true).getD []) (toBytes 64 b.kh.toNat ++ b.payload)

/-- `m` duplicates of block `n` are discarded and counted, for the group and for the block (R287). -/
def counted (g : KGroup) (n m : Nat) : KGroup :=
  if m = 0 then g
  else
    let k := (g.blocks.find? (fun k => k.block == n)).getD ⟨n, bits g.setup 198 32, bits g.setup 198 32, 0⟩
    { g with blocks := g.blocks.filter (fun q => q.block != n) ++ [{ k with dups := k.dups + m }], dups := g.dups + m }

/-- The fate of block `n` at step `st` is known (R287): its waiting duplicates are discarded, and the `XKSEND` chunks among them land. -/
def fateKnown (s : State) (p j gn n st : Nat) : State :=
  match s.kgroup p j gn with
  | none => s
  | some k =>
    let ds := k.waiting.filter (fun d => d.block == n && d.step == st)
    (ds.filterMap (·.chunk)).foldl (fun v c => v.takenBlock c.1 c.2.1 c.2.2)
      (s.modGroup p j gn (fun k => { counted k n ds.length with waiting := k.waiting.filter (fun d => !(d.block == n && d.step == st)) }))

/-- `n` RESUMEs of a group are finished (R283). -/
def resumed (s : State) (p j gn n : Nat) : State :=
  (List.range n).foldl (fun v _ => finished v p j gn 3 0) (s.modGroup p j gn (fun g => { g with resuming := 0 }))

/-- Every held block of a group is dropped (R284, R289): no request of it waits, the fate of each is known, and its RESUMEs are finished (log 101). -/
def unheld (s : State) (g : KGroup) : State :=
  let v := s.modGroup g.part g.job g.group (fun k => { k with held := [] })
  let w : State := { v with keeper := { v.keeper with queue := v.keeper.queue.filter (fun q => !(q.1 == g.part && q.2.1 == g.job && q.2.2.1 == g.group)) } }
  resumed (g.held.foldl (fun v h => fateKnown v g.part g.job g.group h.block h.step) w) g.part g.job g.group g.resuming

/-- Another partition's storage lies in one of these virtual ranges of a job: XPART is raised (R331, R334). -/
def foreign (s v : State) (p j : Nat) (rs : List (Nat × Nat)) : Prop :=
  let alien : Prop := ∃ r ∈ rs, ∃ pc ∈ cutPages r.1 r.2, strays s p j pc.1 = true ∨ ∃ k q, ioHome s p j pc.1 false false = some k ∧ s.keyPart k = some q ∧ q ≠ p
  (alien → v = s.xpart p j) ∧ (¬ alien → v = s)

/-- `id` is the first lease at fault in a list of checks. -/
def firstFault (l : List (Except Nat (List Nat))) (id : Nat) : Prop := ∃ before after, l = before ++ .error id :: after ∧ ∀ x ∈ before, ∃ ls, x = .ok ls

/-- SETUP's fields are in order (R284). -/
def setupLegal (f : BitVec 3072) : Prop :=
  bits f 0 198 = 0 ∧ bits f 480 5 < 0x14 ∧ bits f 438 5 ≤ 16 ∧ bits f 346 40 % 4160 = 0 ∧ bits f 230 52 % 64 = 0 ∧
  (∀ n, n < 8 → bits f (512 + 64 * n + 52) 12 = 0) ∧ (∀ n, n < bits f 485 3 + 1 → bits f (512 + 64 * n) 52 % 4096 = 0)

/-- The slot length of an emission format (R279): 1,024 elements, and 32 scales for a block format, in whole granules. -/
def slotLength (fmt : Nat) : Nat := (1024 * contBits fmt / 8 + (if isBlock fmt then 32 * scaleBytes fmt else 0) + 63) / 64 * 64

/-- The virtual ranges of a group's arrays, and of its emission area. -/
def cabinet (f : BitVec 3072) : List (Nat × Nat) :=
  (List.range (bits f 485 3 + 1)).map (fun i => (bits f (512 + 64 * i) 52, 4096 * (bits f 488 20 + 1))) ++
    [(bits f 230 52, slotLength (bits f 480 5) * (bits f 488 20 + 1))]

/-- The checks of the leases of a group's arrays and emission area (R284, R289). -/
def cabinetChecks (s : State) (p j : Nat) (f : BitVec 3072) : List (Except Nat (List Nat)) := (cabinet f).map (fun r => vaLeases s p j (some 3) r.1 r.2)

/-- They all pass. -/
def cabinetOk (s : State) (p j : Nat) (f : BitVec 3072) : Prop := ∀ x ∈ cabinetChecks s p j f, ∃ ls, x = .ok ls

/-- The groups of a keeper but one. -/
def without (s : State) (p j n : Nat) : List KGroup := s.keeper.groups.filter (fun g => !(g.part == p && g.job == j && g.group == n))

/-- An application of the group runs. -/
def running (s : State) (p j n : Nat) : Prop := ∃ a ∈ s.keeper.apps, a.part = p ∧ a.job = j ∧ a.group = n

/-- A word of an update program that R285 refuses. -/
def wordRefused (len n : Nat) (w : W64) : Prop :=
  let op := w.toNat / 2 ^ 40 % 256
  decodeWord true .v w = .illop ∨ (0x40 ≤ op ∧ op ≤ 0x44) ∨ op ∈ [0x4A, 0x4C, 0x2B, 0x51, 0x54, 0x55, 0x59] ∨
  (∃ f l k b, decodeWord true .v w = .ok f (.vloop l k b) ∧ len - 1 < n + b.toNat) ∨ ∃ f l b, decodeWord true .v w = .ok f (.vloopQ l b)

end Claim

/-- R282, R287, R293: a GRAD block for step s meets its group: refused with KBLOCK_BAD, a duplicate discarded and counted, a duplicate whose fate is awaited, applied now, held in the stage, or met with back-pressure, in this order. -/
def Claim.sayGradientBlocks : Prop :=
  ∀ (b : KBlock) (s : State),
    let p := (pkJob b.hdr).1
    let j := (pkJob b.hdr).2
    let gn := Claim.khField b 230 6
    let n := Claim.khField b 210 20
    let st := Claim.khField b 178 32
    Claim.Reaches (.kGrad b) s b (fun own s r =>
      (∀ g, s.kgroup p j gn = some g → Claim.gradOk g b → ∃ v, Claim.sees s v g st ∧
        let a := Claim.appliedStep g n
        (st ≤ a → r = .took (v.modGroup p j gn (fun g => Claim.counted g n 1))) ∧
        (a < st → Claim.busyWith s g n st →
          r = .waits (if ∃ d ∈ g.waiting, own ≠ none ∧ d.chunk = own then v else v.modGroup p j gn (fun g => { g with waiting := g.waiting ++ [⟨n, st, own⟩] }))) ∧
        (a < st → ¬ Claim.busyWith s g n st → st = a + 1 → g.frozen = false →
          ∃ w, r = .took w ∧ Claim.queues (v.modGroup p j gn (fun g => { g with held := g.held ++ [⟨n, st, b, none⟩] })) w (p, j, gn, n)) ∧
        (a < st → ¬ Claim.busyWith s g n st → (st ≠ a + 1 ∨ g.frozen = true) →
          (∀ m, Claim.slotFree v g m → r = .took (Claim.staged (v.modGroup p j gn (fun g => { g with held := g.held ++ [⟨n, st, b, some m⟩] })) g m b)) ∧
          ((∀ m, ¬ Claim.slotFree v g m) → r = .back v))) ∧
      ((∀ g, s.kgroup p j gn = some g → ¬ Claim.gradOk g b) → r = .took (Claim.tells s p j .kblockBad gn n st 0 0)))

/-- R282 to R285, R289, R295: SETUP, PROMOTE, RESUME, RETIRE and PROGRAM, from the job's supervisor unit; each is refused with its own event where its group or its words do not allow it, and raises KCMD_DONE once it has finished. -/
def Claim.sayKeeperCommands : Prop :=
  ∀ (b : KBlock) (s : State),
    let gn := Claim.khField b 230 6
    let bad (s : State) (p j : Nat) : State := Claim.tells s p j .kblockBad gn 0 0 0 0
    Claim.Orders (.kSetup b) s b gn 1 (fun p j s u refused =>
      let f := BitVec.ofNat 3072 (ofBytes (b.payload.take 384))
      let busy := Claim.running s p j gn ∨ ∃ g, s.kgroup p j gn = some g ∧ g.held ≠ []
      let stage := ∃ ls, vaLeases s p j (some 2) (bits f 386 52) (bits f 346 40) = .ok ls
      (busy ∨ ¬ Claim.setupLegal f ∨ b.poison ≠ [] → u = bad s p j ∧ refused = some true) ∧
      (¬ busy → Claim.setupLegal f → b.poison = [] → Claim.cabinetOk s p j f ∧ stage →
        refused = some false ∧
        (let v := s.captureKey p j 1 gn (BitVec.ofNat 64 (bits f 282 64))
         u = { v with keeper := { v.keeper with groups := Claim.without v p j gn ++
          [⟨p, j, gn, Claim.khField b 85 12 == Config.chip, Claim.khField b 73 12, f, [], [], [], 0, 0, [], false, false, 0, 0, []⟩] } })) ∧
      (¬ busy → Claim.setupLegal f → b.poison = [] → ¬ (Claim.cabinetOk s p j f ∧ stage) →
        refused = some true ∧ ∃ id x, Claim.firstFault (Claim.cabinetChecks s p j f ++ [vaLeases s p j (some 2) (bits f 386 52) (bits f 346 40)]) id ∧
          Claim.foreign s x p j (Claim.cabinet f ++ [(bits f 386 52, bits f 346 40)]) ∧ (let v := Claim.tells x p j .expiry gn 0 0 id 0
          u = { v with keeper := { v.keeper with groups := Claim.without v p j gn } }))) ∧
    Claim.Orders (.kPromote b) s b gn 2 (fun p j s u refused =>
      (∀ g, s.kgroup p j gn = some g → g.lost = false → refused = some false ∧
        Claim.Chain (fun n v w =>
          let slot := ioOpen v p j (bits g.setup 230 52 + n * Claim.slotLength (bits g.setup 480 5)) (Claim.slotLength (bits g.setup 480 5)) false false
          (∀ ps, slot = some ps → w = v.sendWeights g n (Claim.appliedStep g n) ps false) ∧ (slot = none → w = v)) (List.range (bits g.setup 488 20 + 1))
          (s.modGroup p j gn (fun g => { g with primary := true })) u) ∧
      ((∀ g, s.kgroup p j gn = some g → g.lost = true) → u = bad s p j ∧ refused = some true)) ∧
    Claim.Orders (.kResume b) s b gn 3 (fun p j s u refused =>
      (∀ g, s.kgroup p j gn = some g → g.lost = false →
        let next := (g.held.filter (fun h => h.step == Claim.appliedStep g h.block + 1)).map (·.block)
        (Claim.cabinetOk s p j g.setup →
          (refused = if next = [] then some false else none) ∧
          Claim.Chain (fun n v w => Claim.queues v w (p, j, gn, n)) next
            (s.modGroup p j gn (fun g => { g with frozen := false, resuming := g.resuming + (if next = [] then 0 else 1) })) u) ∧
        (¬ Claim.cabinetOk s p j g.setup → refused = some true ∧
          ∃ id, Claim.firstFault (Claim.cabinetChecks s p j g.setup) id ∧ u = Claim.tells s p j .expiry gn 0 0 id 0)) ∧
      ((∀ g, s.kgroup p j gn = some g → g.lost = true) → u = bad s p j ∧ refused = some true)) ∧
    Claim.Orders (.kRetire b) s b gn 4 (fun p j s u refused =>
      (∀ g, s.kgroup p j gn = some g → refused = none ∧
        (let v := Claim.unheld (s.modGroup p j gn (fun g => { g with retiring := g.retiring + 1 })) g
         (Claim.running s p j gn → u = v) ∧
         -- its waiting duplicates end with it, and every RETIRE of it is finished
         (¬ Claim.running s p j gn → ∃ k, v.kgroup p j gn = some k ∧
          (let w := (k.waiting.filterMap (·.chunk)).foldl (fun v c => v.takenBlock c.1 c.2.1 c.2.2) { v with keeper := { v.keeper with groups := Claim.without v p j gn } }
           u = (List.range (g.retiring + 1)).foldl (fun v _ => Claim.finished v p j gn 4 0) w)))) ∧
      (s.kgroup p j gn = none → u = bad s p j ∧ refused = some true)) ∧
    Claim.Orders (.kProgram b) s b (Claim.khField b 230 4) 5 (fun p j s u refused =>
      let len := Claim.khField b 210 8 + 1
      let word (n : Nat) : W64 := BitVec.ofNat 64 (ofBytes ((b.payload.drop (8 * n)).take 8))
      (∀ n, n < len → Claim.wordRefused len n (word n) → (∀ m, m < n → ¬ Claim.wordRefused len m (word m)) →
        refused = some true ∧ u = Claim.tells s p j .kprogBad (Claim.khField b 230 4) 0 0 0 n) ∧
      ((∀ n, n < len → ¬ Claim.wordRefused len n (word n)) → refused = some false ∧
        (let others := s.keeper.progs.filter (fun q => !(q.part == p && q.job == j && q.no == Claim.khField b 230 4))
         u = { s with keeper := { s.keeper with progs := others ++ [⟨p, j, Claim.khField b 230 4, (List.range len).map word⟩] } })))

end Sys2Proof

/-- R279 to R287: blocks that arrive, and the keeper commands of the host. -/
def Obligations.KeeperBlocks : Prop :=
  Claim.sayGradientBlocks ∧
  Claim.sayKeeperCommands

namespace Sys2Proof

namespace Claim

/-! ## The keeper at work (R288 to R293, R301, R375) -/

/-- The program of a group; of no words where it has never been loaded (R288). -/
def programOf (s : State) (g : KGroup) : List W64 :=
  match s.keeper.progs.find? (fun q => q.part == g.part && q.job == g.job && q.no == bits g.setup 508 4) with
  | some q => q.words
  | none => []

/-- An application is over: it leaves its unit, and its holds end (R288). -/
def leaves (s : State) (a : App) : State :=
  State.hold { s with keeper := { s.keeper with apps := s.keeper.apps.filter (fun q => q.unit != a.unit) } } a.leases false

/-- The homes of a block's emission slot. -/
def slotHome (s : State) (g : KGroup) (n : Nat) (ps : List (Nat × Nat)) : Prop :=
  ioPieces s g.part g.job (bits g.setup 230 52 + n * slotLength (bits g.setup 480 5)) (slotLength (bits g.setup 480 5)) false false = some ps

/-- Application `a` starts with block `h` of `g` (R288): on the lowest free unit, from word 0, with every tile zero and every mask but `K0` too. A block of a stage slot is what the slot holds now (R279). -/
structure Starts (a : App) (s : State) (g : KGroup) (h : KHeld) (ls : List Nat) : Prop where
  unit : a.unit < 16 ∧ (∀ q ∈ s.keeper.apps, q.unit ≠ a.unit) ∧ ∀ n, n < a.unit → ∃ q ∈ s.keeper.apps, q.unit = n
  what : a.part = g.part ∧ a.job = g.job ∧ a.group = g.group ∧ a.block = h.block ∧ a.step = h.step
  grad : (h.slot = none → a.grad = h.grad) ∧
    ∀ i ps, h.slot = some i → ioPieces s g.part g.job (bits g.setup 386 52 + 4160 * i) 4160 true true = some ps →
      (let bs := s.pieceBytes ps
       let n := h.grad.payload.length
       a.grad = ⟨h.grad.hdr, BitVec.ofNat 256 (ofBytes (bs.take 32)), (bs.drop 64).take n,
         (pieceHot s ps).filter (fun i => i = 0 || i ≤ (n + 63) / 64)⟩)
  homes : a.arrays.length = bits g.setup 485 3 + 1 ∧
    (∀ i ps, i < bits g.setup 485 3 + 1 → ioPieces s g.part g.job (bits g.setup (512 + 64 * i) 52 + 4096 * h.block) 4096 true true = some ps → a.arrays[i]? = some ps) ∧
    ∀ ps, slotHome s g h.block ps → a.slot = ps
  prog : a.prog = programOf s g ∧ a.pc = 0 ∧ a.loops = List.replicate 4 .zero
  tiles : ∀ n i, lane (a.vec.V n) i = 0
  masks : ∀ n, a.vec.K n = if n = 0 then BitVec.allOnes 1024 else 0
  clean : a.flags = 0 ∧ a.stores = [] ∧ a.emit = none ∧ a.aborted = false ∧ a.leases = ls

/-- Held blocks of frozen groups that failed their check and have no stage slot (R289). -/
def slotless (s : State) : Nat :=
  (s.keeper.groups.flatMap (fun g => g.held.filter (fun h => g.frozen && h.slot.isNone && h.step == appliedStep g h.block + 1))).length

/-- The step that a block's slot holds: its own, or INITSTEP. -/
def emittedStep (g : KGroup) (n : Nat) : Nat := match g.blocks.find? (fun k => k.block == n) with
  | some k => k.emitted
  | none => bits g.setup 198 32

/-- The results of a fetch stand in its record (R290), and its command may retire. -/
def fetchEnds (a b : State) (core : Nat) (x : XCmd) (got flags dups : Nat) : Prop :=
  let k := keySpm core (tBase x.rb)
  let old := BitVec.ofNat 128 (a.readNat k 16)
  (∀ n, n ≠ core → b.core n = a.core n) ∧ sameMemBut a b k 16 ∧
  b.readNat k 16 = (putBits (putBits (putBits old 64 32 got) 33 5 flags) 6 27 (min dups (2 ^ 27 - 1))).toNat ∧
  b.keeper = { a.keeper with fetches := a.keeper.fetches.filter (fun f => !(f.core == core && f.cmd == x.id)) } ∧
  ∀ y, (a.core core).cmd x.id = some y → (b.core core).cmd x.id = some { y with acted := true }

/-- Blocks of a fetch command. -/
def fetchCount (x : XCmd) : Nat := match x.instr with
  | .xkfetch _ _ _ _ n => n.toNat + 1
  | _ => 1

/-- R291's grounds to refuse a fetch. -/
def fetchRefused (x : XCmd) (g : KGroup) : Prop :=
  g.lost = true ∨ bits g.setup 488 20 + 1 < (x.data.headD 0) / 2 ^ 38 % 2 ^ 20 + fetchCount x ∨
  tExtent x.ra < fetchCount x * slotLength (bits g.setup 480 5)

end Claim

/-- R288, R289, R301: a request that the arbiter grants starts on an update unit, where its leases pass, and else freezes its group with EXPIRY, its block held; an application that has come to its end without `KSTEP` raises KPROG_ABORT, and nothing of it is written. -/
def Claim.sayBlockApplications : Prop :=
  ∀ (p j gn n : Nat) (s : State),
    (∀ a, s.kApplying p j gn n = some a →
      (a.aborted = false → a.pc < a.prog.length → exec (.blockApplication p j gn n) s = .next s) ∧
      (a.aborted = true ∨ a.prog.length ≤ a.pc → ∀ g, (Claim.leaves s a).kgroup a.part a.job a.group = some g →
        ∃ v w t, exec (.blockApplication p j gn n) s = .next t ∧
          v = Claim.tells (Claim.leaves s a) a.part a.job .kprogAbort g.group a.block a.step 0 0 ∧
          w = Claim.fateKnown v a.part a.job a.group a.block a.step ∧ t = w.kRetired a.part a.job a.group)) ∧
    (s.kApplying p j gn n = none →
      let may (q : Nat × Nat × Nat × Nat) : Prop := q ∈ s.keeper.queue ∧ s.kApplying q.1 q.2.1 q.2.2.1 q.2.2.2 = none ∧
        ∃ g, s.kgroup q.1 q.2.1 q.2.2.1 = some g ∧ g.frozen = false ∧ g.lost = false ∧
          ∃ h ∈ g.held, h.block = q.2.2.2 ∧ h.step = Claim.appliedStep g q.2.2.2 + 1
      (16 ≤ s.keeper.apps.length ∨ (∀ q, ¬ may q) → exec (.blockApplication p j gn n) s = .next s) ∧
      (s.keeper.apps.length < 16 → ∀ arb,
        let w (n : Nat) : Nat := (s.job (n / 1024) (n % 1024)).wkeep.toNat
        s.keeper.arb.choose (s.kStartable.map (fun q => q.1 * 1024 + q.2.1))
          ⟨fun n => if s.kStartable.any (fun q => q.1 * 1024 + q.2.1 == n) then some 1 else none, w, fun n => max (4 * w n) 1⟩ = some (p * 1024 + j, arb) →
        s.kStartable.find? (fun q => q.1 * 1024 + q.2.1 == p * 1024 + j) = some (p, j, gn, n) →
        ∀ g h, s.kgroup p j gn = some g → g.held.find? (fun h => h.block == n && h.step == Claim.appliedStep g n + 1) = some h →
        let v : State := { s with keeper := { s.keeper with arb := arb } }
        (∀ ls, appLeases v g n = .ok ls → ∃ a u t, exec (.blockApplication p j gn n) s = .next t ∧ Claim.Starts a v g h ls ∧
          (let x := Claim.resumed ((v.hold ls true).modGroup p j gn (fun g => { g with held := g.held.filter (fun k => k ≠ h) })) p j gn g.resuming
           u = { x with keeper := { x.keeper with apps := x.keeper.apps ++ [a], queue := x.keeper.queue.filter (fun q => q ≠ (p, j, gn, n)) } }) ∧
          t = if Claim.programOf s g = [] then { u with agenda := u.agenda ++ [.occur (.blockApplication p j gn n)] } else u) ∧
        -- a block that fails its check goes first, into a stage slot if one is free; with 16 that have none it waits on (R289)
        (∀ id, appLeases v g n = .error id →
          let first (x : State) (i : Option Nat) : State := Claim.tells (x.modGroup p j gn (fun g => { g with
            frozen := true, held := { h with slot := i } :: g.held.filter (fun k => k ≠ h) })) p j .expiry gn n h.step id 0
          ∃ x, Claim.foreign v x p j ((List.range (bits g.setup 485 3 + 1)).map (fun i => (bits g.setup (512 + 64 * i) 52 + 4096 * n, 4096)) ++
              [(bits g.setup 230 52 + n * Claim.slotLength (bits g.setup 480 5), Claim.slotLength (bits g.setup 480 5))]) ∧
          (h.slot ≠ none → exec (.blockApplication p j gn n) s = .next (first x h.slot)) ∧
          (h.slot = none → (∀ m, Claim.slotFree v g m → exec (.blockApplication p j gn n) s = .next (first (Claim.staged x g m h.grad) (some m))) ∧
            ((∀ m, ¬ Claim.slotFree v g m) → (16 ≤ Claim.slotless v → exec (.blockApplication p j gn n) s = .next v) ∧
              (Claim.slotless v < 16 → exec (.blockApplication p j gn n) s = .next (first x none))))))) ∧
    (∀ q, q ∈ s.kStartable ↔ q ∈ s.keeper.queue ∧ s.kApplying q.1 q.2.1 q.2.2.1 q.2.2.2 = none ∧
      ∃ g, s.kgroup q.1 q.2.1 q.2.2.1 = some g ∧ g.frozen = false ∧ g.lost = false ∧
        ∃ h ∈ g.held, h.block = q.2.2.2 ∧ h.step = Claim.appliedStep g q.2.2.2 + 1)

/-- R290, R291: a block of a fetch is delivered once its applied step has reached STEP: the slot to the command's destination, and its step into GOT, as one access; it is refused with GOT all ones where R291 refuses; else it waits, as it does for a frozen group (R289), a parked command, a unit that leaves, and where its chunk would pass the limits of R194 and R195. -/
def Claim.sayFetches : Prop :=
  ∀ (i n : Nat) (s : State) (f : KFetch) (x : XCmd),
    s.keeper.fetches[i]? = some f → (s.core f.core).cmd f.cmd = some x → x.id = f.cmd → f.block = n →
    (x.parked ≠ none ∨ (s.core f.core).seat.stopping = true → exec (.fetchServe i n) s = .next s) ∧
    (x.parked = none → (s.core f.core).seat.stopping = false →
    (s.kgroup f.part f.job f.group = none → ∃ t, exec (.fetchServe i n) s = .next t ∧ Claim.fetchEnds s t f.core x (2 ^ 32 - 1) 0 0) ∧
    (∀ g, s.kgroup f.part f.job f.group = some g →
      (Claim.fetchRefused x g → ∃ t, exec (.fetchServe i n) s = .next t ∧ Claim.fetchEnds s t f.core x (2 ^ 32 - 1) g.flags.toNat g.dups) ∧
      (¬ Claim.fetchRefused x g →
        let slot := Claim.slotLength (bits g.setup 480 5)
        let c := n - x.data.headD 0 / 2 ^ 38 % 2 ^ 20
        let held := g.frozen = true ∨ Claim.appliedStep g n < f.step ∨ c < x.pp ∨ x.pp + 4 < c ∨ 32 ≤ (s.core f.core).inFlight
        let from_ := ioOpen s f.part f.job (bits g.setup 230 52 + n * slot) slot false false
        let to_ := resolveSpans s f.core x.ra true true (spansOf x.ra (c * slot) slot)
        (held ∨ from_ = none → exec (.fetchServe i n) s = .next s) ∧
        (¬ held → ∀ ps, from_ = some ps →
          (∀ e, to_ = .error e → exec (.fetchServe i n) s = .next (s.parkFor f.core x e (xNums x.instr).1)) ∧
          (∀ d, to_ = .ok d →
            let hot := sidePoison s (ps.map (fun p => (some p.1, p.2)))
            let bytes := s.pieceBytes ps
            ∃ u spoiled v sent, landSide s f.core x false false d.pieces hot bytes = (u, spoiled) ∧
              u.sendAll (u.fjob f.core) (storeCargo (farPieces d.pieces) 0 ⟨bytes, hot, [], x⟩) = (v, sent) ∧
              -- the object, unless the command asks for none or repeats one that it has raised
              (let up := if x.ob = true ∧ x.again = false then v.bumpObject f.core x x.obj 1 else .ok (v, [])
               (∀ e, up = .error e → exec (.fetchServe i n) s = .next (s.parkCmd f.core x e 0 0 0)) ∧
               (∀ w sig, up = .ok (w, sig) → ∃ y z, exec (.fetchServe i n) s = .next z ∧
                 (let got := min (x.data.getD 1 (2 ^ 32 - 1)) (Claim.emittedStep g n)
                  (let m := w.modCmd f.core x.id (fun q => { (q.landed c) with data := [x.data.headD 0, got], poison := q.poison || spoiled, acks := q.acks ++ sent ++ sig })
                   y = { m with keeper := { m.keeper with fetches := m.keeper.fetches.filter (fun q => q ≠ f) } }) ∧
                  ((∃ q ∈ y.keeper.fetches, q.core = f.core ∧ q.cmd = f.cmd) → z = y) ∧
                  ((∀ q ∈ y.keeper.fetches, ¬ (q.core = f.core ∧ q.cmd = f.cmd)) → Claim.fetchEnds y z f.core x got g.flags.toNat g.dups)))))))))

end Sys2Proof

/-- R284 to R291: applications of blocks, and fetches. -/
def Obligations.KeeperUpdates : Prop :=
  Claim.sayBlockApplications ∧
  Claim.sayFetches

namespace Sys2Proof

namespace Claim

/-- A slot at its subscriber (R292): a packet of a later step is written, then its tag, and the object is incremented; any other is discarded; one that rewrites a copy of the same step (R375) only writes. -/
def Delivers (s t : State) (b : KBlock) : Prop :=
  let p := (pkJob b.hdr).1
  let j := (pkJob b.hdr).2
  let step := khField b 178 32
  let regen := khField b 0 1 = 1
  let spoiled (v w : State) : Prop := Chain (fun g a c => ∀ k, ioHome a p j (pkAddr b.hdr + 64 + 64 * g) false true = some k → c = a.poisonAt k 64) b.poison v w
  (ioPieces s p j (pkAddr b.hdr) (64 + b.payload.length) false true = none ∨ ioHome s p j (pkObj b.hdr) true true = none →
    ∃ x, foreign s x p j [(pkAddr b.hdr, 64 + b.payload.length), (pkObj b.hdr, 8)] ∧
      t = tells x p j .ksubLost (khField b 230 6) (khField b 210 20) step 0 0) ∧
  ∀ ps ko, ioPieces s p j (pkAddr b.hdr) (64 + b.payload.length) false true = some ps → ioHome s p j (pkObj b.hdr) true true = some ko →
    (∀ ls, pieceLease s p j none (ps ++ [(ko, 8)]) = .ok ls →
      let old := s.pieceBytes ps
      let tag := ofBytes (old.take 4)
      ((regen ∧ tag ≠ step) ∨ (¬ regen ∧ step ≤ tag) → t = s) ∧
      (¬ regen → tag < step → ∃ u, spoiled (s.writePieces ps (toBytes 4 step ++ (old.take 64).drop 4 ++ b.payload)) u ∧
        t = (u.increment p j ko 1 [] 0).getD u) ∧
      (regen → tag = step → spoiled (s.writePieces ps (old.take 64 ++ b.payload)) t)) ∧
    (∀ id, pieceLease s p j none (ps ++ [(ko, 8)]) = .error id →
      ((∃ l, s.lease id = some l ∧ l.part = p ∧ l.job = j ∧ (l.state = .lapsed ∨ l.state = .open_) ∧ l.vacating = false ∧ l.stowed = false) →
        t = s.atTick (s.tick + 1) (.kweights { b with hdr := putBits b.hdr 496 12 Config.chip })) ∧
      ((∀ l, s.lease id = some l → ¬ (l.part = p ∧ l.job = j ∧ (l.state = .lapsed ∨ l.state = .open_) ∧ l.vacating = false ∧ l.stowed = false)) →
        ∃ x, foreign s x p j [(pkAddr b.hdr, 64 + b.payload.length), (pkObj b.hdr, 8)] ∧
          t = tells x p j .ksubLost (khField b 230 6) (khField b 210 20) step id 0))

/-- Pieces written one after the other. -/
def kTile (bs : List Byte) : Tile := tileOf 1024 (fun n => BitVec.ofNat 32 (ofBytes ((bs.drop (4 * n)).take 4)))

end Claim

/-- R292, R274, R289: a KWEIGHTS packet of another chip follows the sequence rule and is then delivered; one of this package is delivered at once. A lapsed lease makes it try again at the next tick. -/
def Claim.sayWeightPackets : Prop :=
  ∀ (b : KBlock) (s : State),
    (pkSrc b.hdr = Config.chip → ∃ t, exec (.kweights b) s = .next t ∧ Claim.Delivers s t b) ∧
    (pkSrc b.hdr ≠ Config.chip → Claim.Arrives (.kweights b) s b.hdr (toBytes 64 b.kh.toNat ++ b.payload) (b.poison.map (· + 1)) (fun a t => Claim.Delivers a t b))

/-- R293, R375: the blocks that a passed deadline finds below its step are named once, at most 64, in block order, each with the count of all; a primary that has lost a slot forms it again from the cabinet, with the mirror's arrays where its own are poisoned, and sends it to every subscriber, or the group is lost. -/
def Claim.sayMissingAndRegeneration : Prop :=
  ∀ (p j gn : Nat) (s : State) (g : KGroup), s.kgroup p j gn = some g →
    (∀ step d, g.deadlines.find? (fun e => e.1 == step) = some d →
      (d.2.2 = true ∨ s.tick < d.2.1 → exec (.missing p j gn step) s = .next s) ∧
      (d.2.2 = false → d.2.1 ≤ s.tick →
        let late := (List.range (bits g.setup 488 20 + 1)).filter (fun n => decide (Claim.appliedStep g n < step))
        ∃ t, exec (.missing p j gn step) s = .next t ∧
          Claim.Chain (fun n v w => w = Claim.tells v p j .missing gn n step 0 late.length) (late.take 64)
            (s.modGroup p j gn (fun g => { g with deadlines := g.deadlines.map (fun e => if e.1 = step then (e.1, e.2.1, true) else e) })) t)) ∧
    -- storage under no open lease is not touched (log 103), and a slot is formed by a primary alone
    (∀ n, g.primary = false ∨ g.lost = true → exec (.keeperRegen p j gn n) s = .next s) ∧
    (∀ n, (∀ src, emitSource (Claim.programOf s g) = some src → ioOpen s p j (bits g.setup (512 + 64 * src) 52 + 4096 * n) 4096 true true = none) →
      exec (.keeperRegen p j gn n) s = .next s) ∧
    (∀ n, ioOpen s p j (bits g.setup 230 52 + n * Claim.slotLength (bits g.setup 480 5)) (Claim.slotLength (bits g.setup 480 5)) false false = none →
      exec (.keeperRegen p j gn n) s = .next s) ∧
    (∀ n src ps qs, emitSource (Claim.programOf s g) = some src →
      ioOpen s p j (bits g.setup (512 + 64 * src) 52 + 4096 * n) 4096 true true = some ps →
      ioOpen s p j (bits g.setup 230 52 + n * Claim.slotLength (bits g.setup 480 5)) (Claim.slotLength (bits g.setup 480 5)) false false = some qs →
      g.primary = true → g.lost = false →
      let hot := ∃ q ∈ ps, s.poisoned q.1 q.2 = true
      let helped := g.mirror ≠ 0xFFF ∧ g.mirror ≠ Config.chip ∧ (s.peer g.mirror).lost = false
      (hot → ¬ helped → exec (.keeperRegen p j gn n) s = .next (Claim.tells (Claim.unheld (s.modGroup p j gn (fun g => { g with lost := true })) g) p j .kcabinetLost gn n (Claim.appliedStep g n) 0 0)) ∧
      (¬ hot ∨ helped → ∃ u v w t, exec (.keeperRegen p j gn n) s = .next t ∧
        (¬ hot → u = s) ∧ (hot → u = Claim.tells (s.writePieces ps (s.pieceBytes ps)) p j .mirrorUsed gn n (Claim.appliedStep g n) 0 0) ∧
        v = u.writePieces qs (emitBytes g n (Claim.emittedStep g n) (Claim.kTile (u.pieceBytes ps))).1 ∧
        w = v.sendWeights g n (Claim.emittedStep g n) qs true ∧
        t = Claim.tells w p j .regen gn n (Claim.emittedStep g n) 0 0))

end Sys2Proof

/-- R289 to R294: weight packets, missing blocks and regeneration. -/
def Obligations.KeeperOutput : Prop :=
  Claim.sayWeightPackets ∧
  Claim.sayMissingAndRegeneration

namespace Sys2Proof

namespace Claim

/-! ## Scheduling (R301 to R305, R311, R40) -/

/-- The head of an arbiter's ring after its visit (R301): D takes W × Q up to Cap at a fresh visit of a backlogged job; an idle one keeps no surplus. -/
def visited (q : Demand) (a : Arbiter) (j : Nat) : Int :=
  let d := spGet 0 a.d j
  if a.fresh then (if q.cost j = none then min d 0 else min (d + q.quantum j) (q.cap j)) else d

/-- `Arbitrate()` of R301: the head is served where D covers its cost; else the ring moves on. -/
inductive Serves (q : Demand) : Arbiter → Nat → Arbiter → Prop where
  | head (a : Arbiter) (j c : Nat) : a.ring[a.h]? = some j → q.cost j = some c → (c : Int) ≤ visited q a j →
      ∀ b : Arbiter, b = { a with fresh := false, d := b.d } →
      (∀ k, spGet 0 b.d k = if k = j then visited q a j - c else spGet 0 a.d k) → Serves q a j b
  | next (a : Arbiter) (j k : Nat) (b : Arbiter) : a.ring[a.h]? = some j → (∀ c, q.cost j = some c → visited q a j < c) →
      ∀ m : Arbiter, m = { a with h := (a.h + 1) % a.ring.length, fresh := true, d := m.d } →
      (∀ k, spGet 0 m.d k = if k = j then visited q a j else spGet 0 a.d k) → Serves q m k b → Serves q a k b

/-- A core that takes no unit: it has one, it is suspect, or it has no partition to take one from (R330, R333, R376). -/
def freeOf (s : State) (core p : Nat) : Prop :=
  core < 2048 ∧ (s.core core).seat.unit = none ∧ (s.core core).health.suspect = false ∧ s.partOfCore core = some p ∧ (s.part p).valid = true ∧
  ∀ m ∈ s.mail, match m with
    | .shrink q qs => ¬ (q = p ∧ core / 4 ∈ qs)
    | .destroy q => q ≠ p
    | .retire .. => True

/-- The order of R304 within a job: PRIO from the highest, the graph accepted earliest, the lowest launch index, a pre-empted unit first, the lowest `UNITID`. -/
def comesFirst (s : State) (a b : Ready_) : Prop :=
  let l (r : Ready_) := s.launch r.ids.1
  let g (r : Ready_) := (l r).bind (fun x => s.graph x.graph)
  let prio (r : Ready_) : Nat := match g r with
    | some x => bits x.record 462 2
    | none => 0
  let seq (r : Ready_) : Nat := match g r with
    | some x => x.seq
    | none => 0
  let ix (r : Ready_) : Nat := match l r with
    | some x => x.index
    | none => 0
  let new (r : Ready_) : Nat := match r with
    | .saved _ => 0
    | _ => 1
  prio b < prio a ∨ (prio a = prio b ∧ (seq a < seq b ∨ (seq a = seq b ∧ (ix a < ix b ∨ (ix a = ix b ∧
    (new a < new b ∨ (new a = new b ∧ a.ids.2 < b.ids.2)))))))

/-- A unit that a free core may take (R304): waiting, at the head of this core's queue, or pre-empted on its die and fitting (R316); of this partition, of a job that its purse's cap does not hold (R356). -/
def mayTake (s : State) (p core : Nat) (r : Ready_) : Prop :=
  (match r with
   | .new u => u ∈ s.units ∧ u.state = .waiting
   | .head u => ∃ b rest, (∃ e ∈ s.cores, e.1 = core ∧ e.2.seat.queue = b :: rest) ∧ s.unit b.2.1 b.2.2 = some u
   | .saved v => v ∈ s.saves ∧ v.part = p ∧ v.cancelled = false ∧ s.fits v core = true) ∧
  (match r with
   | .saved _ => True
   | r => (s.jobOfLaunch r.ids.1).1 = p) ∧
  (let j := s.jobOfLaunch r.ids.1
   (s.purse j.1 j.2).capped = false)

/-- The dispatcher gives a free core unit `r` (R301 to R304): its job is the arbiter's choice, and no ready unit of that job comes before it; `arb` is the arbiter after. -/
def Chosen (s : State) (core : Nat) (r : Ready_) (arb : Arbiter) : Prop := ∃ p, freeOf s core p ∧
  let rs := s.readyUnits p (core / 512) (some core)
  let jobOf (r : Ready_) : Nat := (s.jobOfLaunch r.ids.1).2
  let sl := (s.part p).slice.toNat
  (spGet Arbiter.zero s.placers (p * 4 + core / 512)).choose (rs.map jobOf)
    ⟨fun j => if rs.any (fun r => jobOf r == j) then some sl else none, fun j => (s.job p j).wdisp.toNat * sl, fun j => max (4 * (s.job p j).wdisp.toNat * sl) sl⟩
    = some (jobOf r, arb) ∧
  ∃ before after, rs.filter (fun q => jobOf q == jobOf r) = before ++ r :: after ∧
    (∀ q ∈ before, comesFirst s r q) ∧ ∀ q ∈ after, ¬ comesFirst s q r

/-- The placer of the core's die after a choice. -/
def chargedTo (s : State) (core : Nat) (arb : Arbiter) : State :=
  match s.partOfCore core with
  | some p => { s with placers := spSet s.placers (p * 4 + core / 512) arb }
  | none => s

/-- The launch record or the block that a unit starts from. -/
def recordOf (s : State) (u : Unit_) : BitVec 512 := match u.block with
  | some b => b
  | none => match s.launch u.launch with
    | some l => l.record
    | none => 0

/-- A unit is on a core (R40): registers and tables at reset, `S1` its ARG, C at ENTRY and running, the other streams ended; its first slice begins. -/
structure Seated (s t : State) (core : Nat) (u : Unit_) (r : BitVec 512) (lease : Option Nat) : Prop where
  rest : t = { s with cores := t.cores, timers := t.timers, units := t.units }
  cores : ∀ n, n ≠ core → t.core n = s.core n
  timers : t.timers = s.timers ++ [⟨.tick, s.tick + (s.part (s.jobOfLaunch u.launch).1).slice.toNat, none, .sliceEnd core⟩]
  units : t.units = s.units.map (fun v => if v.launch = u.launch ∧ v.no = u.no then { v with state := .resident, core := core, imgLease := lease } else v)
  regs : (∀ n, (t.core core).S n = if n = 1 then BitVec.ofNat 64 (bits r 408 52) else 0) ∧ (t.core core).regs.t = [] ∧ (t.core core).regs.i = [] ∧
    (t.core core).regs.g = [] ∧ (t.core core).regs.h = [] ∧ (t.core core).regs.o = [] ∧ (t.core core).csr = Core.reset.csr ∧ (t.core core).vec = Core.reset.vec
  flow : (t.core core).c.run = .running ∧ (t.core core).c.pc.toNat = bits r 309 17 ∧ (t.core core).c.nextAc = s.acOf core ∧
    (t.core core).v.run = .ended ∧ (t.core core).m.run = .ended ∧ (t.core core).x.run = .ended
  seat : (t.core core).seat.unit = some (u.launch, u.no) ∧ (t.core core).seat.sliceTick = s.tick ∧ (t.core core).seat.sliceAc = s.acOf core ∧
    (t.core core).seat.view = s.pubCount ∧
    (t.core core).seat.queue = (s.core core).seat.queue.filter (fun q => !(q.2.1 == u.launch && q.2.2 == u.no))

/-- A unit that could not start counts as cancelled, with PLACE_FAIL to its supervisor unit (R40). -/
def placeFails (s t : State) (core : Nat) (u : Unit_) (lease : Option Nat) : Prop :=
  let pj := s.jobOfLaunch u.launch
  ∃ v w : State, v = (match lease with
      | some id => s.vacateNow id
      | none => s) ∧
    w = v.post pj.1 (v.launchSuper u.launch) (.of .placeFail) ⟨pj.1, pj.2, core, u.launch, u.no⟩ false ∧
    (let x := w.setCore core { w.core core with seat := { (w.core core).seat with
       queue := (w.core core).seat.queue.filter (fun q => !(q.2.1 == u.launch && q.2.2 == u.no)) } }
     let y : State := { x with units := x.units.map (fun v => if v.launch = u.launch ∧ v.no = u.no then { v with state := .cancelled } else v) }
     t = match u.block with
       | some b => y.incrementDone (y.jobOfLaunch u.launch).1 (y.jobOfLaunch u.launch).2 (bits b 356 52) [] true
       | none => y)

/-- The image header of a region (R74, R75): its bits [511:0] at `base`, for IMGOFF, IMGLEN and ENTRY of a record. -/
def headerGood (s : State) (base off len entry : Nat) : Prop :=
  let h := BitVec.ofNat 512 (s.readNat base 64)
  let entryAt (i : Nat) : BitVec 128 := BitVec.ofNat 128 (s.readNat (base + 8 * bits h 425 17 + 16 * i) 16)
  8 ≤ entry ∧ bits h 480 32 = 0x42583949 ∧ bits h 472 8 = 1 ∧ bits h 458 14 = off ∧ 1 ≤ bits h 442 16 ∧ bits h 442 16 ≤ len ∧
  (bits h 425 17 = 0 → bits h 413 12 = 0) ∧ 8 * bits h 425 17 + 16 * bits h 413 12 ≤ 64 * bits h 442 16 ∧ bits h 0 413 = 0 ∧
  ∀ i, i < bits h 413 12 → bits (entryAt i) 92 2 ≤ 1

/-- From a region that holds its image, a unit starts, or fails where the header is not in order. -/
def startsOrFails (s t : State) (core : Nat) (u : Unit_) (r : BitVec 512) (lease : Option Nat) : Prop :=
  let good := headerGood s (keySpm core (64 * bits r 326 14)) (bits r 326 14) (bits r 340 16) (bits r 309 17)
  (good → Seated s t core u r lease) ∧ (¬ good → placeFails s t core u lease)

end Claim

/-- R301: each shared resource is arbitrated by deficit counters: what the arbiter grants is what `Arbitrate()` returns, with the counters that it leaves. -/
def Claim.sayArbitration : Prop :=
  ∀ (a b : Arbiter) (jobs : List Nat) (q : Demand) (j : Nat), a.choose jobs q = some (j, b) →
    Claim.Serves q { a with ring := a.ring ++ (jobs.filter (fun j => !a.ring.contains j)).eraseDups } j b ∧ 0 ≤ spGet 0 b.d j

/-- R303: an arbiter with a backlogged job answers, however deep in debt its jobs are. -/
def Claim.sayArbiterProgress : Prop :=
  ∀ (a : Arbiter) (jobs : List Nat) (q : Demand), jobs ≠ [] → a.h < max 1 a.ring.length →
    (∀ j ∈ jobs, ∃ c, q.cost j = some c ∧ 0 < q.quantum j ∧ (c : Int) ≤ q.cap j) → (∀ j c, q.cost j = some c → j ∈ jobs) → (a.choose jobs q).isSome = true

/-- R40, R74, R304: the unit that the dispatcher gives a free core is placed: from a region that its job holds where IMAGE is 0, or else from one that is rented for it and filled; one that cannot start is cancelled, with PLACE_FAIL. -/
def Claim.sayUnitPlacement : Prop :=
  (∀ (s : State) (p core : Nat) (r : Ready_), r ∈ s.readyUnits p (core / 512) (some core) ↔ Claim.mayTake s p core r) ∧
  ∀ (core : Nat) (s : State) (u : Unit_) (r : Ready_) (arb : Arbiter), Claim.Chosen s core r arb → (r = .new u ∨ r = .head u) →
    ∃ t, exec (.unitPlace core) s = .next t ∧
      (let v := Claim.chargedTo s core arb
       let rec_ := Claim.recordOf s u
       let pj := v.jobOfLaunch u.launch
       let base := keySpm core (64 * bits rec_ 326 14)
       let len := bits rec_ 340 16
       (bits rec_ 460 52 = 0 → checkCovering v pj.1 pj.2 base (64 * len) = none → Claim.startsOrFails v t core u rec_ none) ∧
       (bits rec_ 460 52 = 0 → checkCovering v pj.1 pj.2 base (64 * len) ≠ none → Claim.placeFails v t core u none) ∧
       (bits rec_ 460 52 ≠ 0 → bits rec_ 285 24 = 0 → Claim.placeFails v t core u none) ∧
       (bits rec_ 460 52 ≠ 0 → bits rec_ 285 24 ≠ 0 → ∀ w st id,
         v.rent pj.1 pj.2 core 1 (64 * bits rec_ 326 14) (64 * len) (bits rec_ 285 24) false = (w, st, id) →
         (st ≠ 0 → Claim.placeFails w t core u none) ∧
         (st = 0 → w.copyImage pj.1 pj.2 (bits rec_ 460 52) base len = none → Claim.placeFails w t core u (some id)) ∧
         (st = 0 → ∀ x, w.copyImage pj.1 pj.2 (bits rec_ 460 52) base len = some x → Claim.startsOrFails x t core u rec_ (some id))))

/-- R305, R311, R313: at a slice's end, or after 256 ticks in which every stream was held, the unit is pre-empted if a ready unit waits for a core of its die (or, at the slice's end, if its purse is capped), and else a new slice begins and is charged; a wait of STALLT ticks is reported once; a pre-emption stops issue in all four streams at once. -/
def Claim.saySlices : Prop :=
  ∀ (core : Nat) (s : State),
    let pj := s.jobOf core
    let q := (s.core core).seat
    let sl := (s.part pj.1).slice.toNat
    let waits := s.readyUnits pj.1 (core / 512) none ≠ []
    let live := q.unit ≠ none ∧ q.stopping = false ∧ q.leaving = false
    let evicted : State := { s.setCore core { s.core core with seat := { q with leaving := true } } with agenda := s.agenda ++ [.occur (.preempt core)] }
    (live → q.sliceTick + sl ≤ s.tick → (s.purse pj.1 pj.2).capped = true ∨ waits → exec (.sliceEnd core) s = .next evicted) ∧
    (live → q.sliceTick + sl ≤ s.tick → (s.purse pj.1 pj.2).capped = false → ¬ waits → ∃ t, exec (.sliceEnd core) s = .next t ∧
      t = { s.setCore core { s.core core with seat := { q with sliceTick := s.tick, sliceAc := s.acOf core, leaving := false, stopping := false } } with
        placers := t.placers, timers := s.timers ++ [⟨.tick, s.tick + sl, none, .sliceEnd core⟩] } ∧
      (∀ j, spGet 0 (Claim.placer t pj.1 core).d j = spGet 0 (Claim.placer s pj.1 core).d j - (if j = pj.2 then sl else 0)) ∧
      ∀ ix, ix ≠ pj.1 * 4 + core / 512 → spGet Arbiter.zero t.placers ix = spGet Arbiter.zero s.placers ix) ∧
    (¬ live ∨ s.tick < q.sliceTick + sl → exec (.sliceEnd core) s = .next s) ∧
    -- every stream has been held at issue, without a break, since 256 ticks or more
    (let idle := ∀ e, (let st := (s.core core).stream e
       st.run = .running ∧ st.wait.kind ≠ .none ∧ ∃ f, st.heldFrom = some f ∧ f + 256 ≤ s.tick)
     (live → idle → waits → exec (.idleSliceEnd core) s = .next evicted) ∧
     (¬ live ∨ ¬ idle ∨ ¬ waits → exec (.idleSliceEnd core) s = .next s)) ∧
    (∀ e : Engine,
      let st := (s.core core).stream e
      let due := q.unit ≠ none ∧ st.run = .running ∧ st.wait.kind ≠ .none ∧ st.wait.stalled = false ∧ st.wait.since + (s.part pj.1).stallt.toNat ≤ s.tick
      (due → ∃ t, exec (.stall core e) s = .next t ∧
        t = (s.setCore core ((s.core core).setStream e { st with wait := { st.wait with stalled := true } })).eventAt core
          ⟨.stall, e, st.pc, if st.packed then st.codePos else 0, 0, 0, 0, 0, 0, 0, 0, st.wait.kind.code, none⟩) ∧
      (¬ due → exec (.stall core e) s = .next s)) ∧
    (let may := q.unit ≠ none ∧ q.leaving = true ∧ q.stopping = false ∧ (s.core core).health.recovering = none
     (may → exec (.preempt core) s = .next (s.setCore core { s.core core with seat := { q with stopping := true } })) ∧
     (¬ may → exec (.preempt core) s = .next s))

end Sys2Proof

/-- R299 to R307: the arbiters of the I/O die, placement of units, and slices. -/
def Obligations.Scheduling : Prop :=
  Claim.sayArbitration ∧
  Claim.sayArbiterProgress ∧
  Claim.sayUnitPlacement ∧
  Claim.saySlices

namespace Sys2Proof

namespace Claim

/-! ## The saved context (R313 to R323) -/

/-- The image of a pre-empted unit, `word o n` its `n` bytes from `o` on. -/
def imageWord (img : List Byte) (o n : Nat) : Nat := ofBytes ((img.drop o).take n)

/-- The lease that a save area is rented under (R317): of HBM, of the job, OPEN, never paid ahead. -/
def areaLease (s : State) (p j slot : Nat) (pages : List Nat) (l : Lease) : Prop :=
  l.state = .open_ ∧ l.tier = 3 ∧ l.sync = false ∧ l.part = p ∧ l.job = j ∧ l.stowed = false ∧ l.holds = 0 ∧
  l.base = (s.job p j).savewin.toNat + slot * 2 ^ 21 ∧ l.len = pages.length * 2 ^ 18 ∧ l.ranges = joinRanges (pages.map (fun k => (k, 2 ^ 18)))

/-- A unit on a core is to be saved, and what it had in flight has come to rest (R313). -/
def atRest (s : State) (core : Nat) : Prop :=
  (s.core core).seat.leaving = true ∧ (s.core core).seat.stopping = true ∧ (s.core core).seat.cancelling = false ∧ (s.core core).quiet = true ∧
  (s.core core).c.wait.kind ≠ .cancel ∧ (s.core core).health.recovering = none

/-- A core has, at their places in the image as its pages hold it now, the registers of sections 1 and 2, the CSRs, the queues, the dictionary and the masks (R319, R323). -/
structure Loaded (s : State) (v : Saved) (c : Core) : Prop where
  live : ∀ i n, ((List.range 32).filter (fun n => v.sMask.testBit n))[i]? = some n → n ≠ 0 → (c.S n).toNat = s.imageNat v (s.sectionAt v 1 + 8 * i) 8
  dead : ∀ n, n < 32 → v.sMask.testBit n = false → c.S n = 0
  regs : let o := s.sectionAt v 2
    (∀ n, n < 12 → (c.G n).toNat = s.imageNat v (o + 4 * n) 4) ∧ (∀ n, n < 64 → (c.T n).toNat = s.imageNat v (o + 576 + 32 * n) 32) ∧
    (∀ n, n < 16 → (c.I n).toNat = s.imageNat v (o + 2624 + 16 * n) 16) ∧ (∀ n, n < 32 → (c.O n).toNat = s.imageNat v (o + 2880 + 8 * n) 8)
  csrs : let o := s.sectionAt v 3
    c.csr.fflags.toNat = s.imageNat v o 4 ∧ c.csr.amax.toNat = s.imageNat v (o + 4) 4 ∧ c.csr.srkey.toNat = s.imageNat v (o + 8) 8 ∧
    c.csr.offcutb.toNat = s.imageNat v (o + 16) 4 ∧ c.csr.trapx.toNat = s.imageNat v (o + 40) 8 ∧ c.csr.tol.toNat = s.imageNat v (o + 52) 4
  dict : ∀ n, n < 4096 → (spGet 0 c.dict n).toNat = s.imageNat v (s.sectionAt v 7 + 8 * n) 8
  masks : ∀ n, n < 7 → (c.vec.K (n + 1)).toNat = s.imageNat v (s.sectionAt v 8 + 128 * n) 128

/-- A pre-empted unit is on a core again (R316, R323): its registers and streams as its image holds them, its first slice, its handles to be walked again, its leases bound to the core with the image's granules there; its fetches ask again for the blocks that they have not had. -/
structure Restored (s u : State) (core : Nat) (v : Saved) : Prop where
  cores : ∀ n, n ≠ core → u.core n = s.core n
  loaded : Loaded s v (u.core core)
  others : let l := s.loadImage v
    (u.core core).vec = l.vec ∧ (u.core core).mat = l.mat ∧ (u.core core).cqv = l.cqv ∧ (u.core core).cqm = l.cqm ∧ (u.core core).dowel = l.dowel ∧
    (u.core core).copy = l.copy ∧ (u.core core).snap = l.snap
  handles : ∀ n, n < 32 → (u.core core).H n =
    (let h := BitVec.ofNat 128 (s.imageNat v (s.sectionAt v 2 + 64 + 16 * n) 16)
     if (bits h 126 2 = 1 ∨ bits h 126 2 = 2) ∧ bits h 125 1 = 1 then putBits h 126 2 1 else h)
  flow : ∀ e, (u.core core).stream e = { (s.loadImage v).stream e with nextAc := s.acOf core }
  granules : ∀ g ∈ s.imageGranules v, overlaps (v.stowed.flatMap (fun id => match s.lease id with
      | some l => l.ranges
      | none => [])) g.1 64 = true → ∀ i, (h : i < g.2.1.length) → memByte u.mem (movedKey v.core core g.1 + i) = g.2.1[i]
  fetches : u.keeper.fetches = s.keeper.fetches ++ (s.loadImage v).copy.cmds.flatMap (fetchesOf core v.part v.job)
  seat : (u.core core).seat.unit = some (v.launch, v.unit) ∧ (u.core core).seat.sliceTick = s.tick ∧ (u.core core).seat.view = v.ctx.seat.view
  units : u.units = s.units.map (fun w => if w.launch = v.launch ∧ w.no = v.unit then { w with state := .resident, core := core } else w)
  saves : u.saves = s.saves.map (fun w => if w.lease = v.lease then { w with cancelled := true, stowed := [] } else w)
  leases : (∀ id ∈ v.stowed, ∀ l, s.lease id = some l → v.stowed.Nodup →
      u.lease id = some { l with stowed := false, core := core, ranges := l.ranges.map (movedRange v.core core) }) ∧
    ∀ id, id ∉ v.stowed → u.lease id = s.lease id

end Claim

/-- R318, R319: what the image of a pre-empted unit holds, and where: its header, and the offsets and lengths of its sections, with the registers, the CSRs and the masks at their places. -/
def Claim.saySaveImage : Prop :=
  ∀ (s : State) (core : Nat) (c : Core) (sMask vMask lease : Nat) (gs : List (Nat × List Byte × Bool)),
    let img := saveImage s core c sMask vMask lease gs
    let word := Claim.imageWord img
    let off (n : Nat) := word (8 * n + 4) 4
    let len (n : Nat) := word (8 * n) 4
    img.length < 2 ^ 32 →
    word 252 4 = 0x42585356 ∧ word 251 1 = 1 ∧ word 249 2 = (s.jobOf core).2 % 2 ^ 16 ∧
    word 245 4 = (c.seat.unit.getD (0, 0)).2 % 2 ^ 32 ∧ word 241 4 = (c.seat.unit.getD (0, 0)).1 % 2 ^ 32 ∧ word 231 2 = lease % 2 ^ 16 ∧
    off 1 = 256 ∧ (∀ n, 1 ≤ n → n < 15 → off (n + 1) = off n + len n) ∧ off 15 + len 15 = img.length ∧
    (let live := (List.range 32).filter (fun n => sMask.testBit n)
     len 1 = (8 * live.length + 63) / 64 * 64 ∧ ∀ i, (h : i < live.length) → word (off 1 + 8 * i) 8 = (c.S live[i]).toNat) ∧
    (len 2 = 3136 ∧ (∀ n, n < 12 → word (off 2 + 4 * n) 4 = (c.G n).toNat) ∧ (∀ n, n < 32 → word (off 2 + 64 + 16 * n) 16 = (c.H n).toNat) ∧
      (∀ n, n < 64 → word (off 2 + 576 + 32 * n) 32 = (c.T n).toNat) ∧ (∀ n, n < 16 → word (off 2 + 2624 + 16 * n) 16 = (c.I n).toNat) ∧
      ∀ n, n < 32 → word (off 2 + 2880 + 8 * n) 8 = (c.O n).toNat) ∧
    (len 3 = 64 ∧ word (off 3) 4 = c.csr.fflags.toNat ∧ word (off 3 + 4) 4 = c.csr.amax.toNat ∧ word (off 3 + 8) 8 = c.csr.srkey.toNat ∧
      word (off 3 + 16) 4 = c.csr.offcutb.toNat ∧ word (off 3 + 20) 4 = c.csr.offcutn.toNat ∧ word (off 3 + 24) 4 = c.csr.trapv.toNat ∧
      word (off 3 + 28) 4 = c.csr.trapc.toNat ∧ word (off 3 + 32) 8 = c.csr.trappc.toNat ∧ word (off 3 + 40) 8 = c.csr.trapx.toNat ∧
      word (off 3 + 48) 4 = c.csr.trapret.toNat ∧ word (off 3 + 52) 4 = c.csr.tol.toNat) ∧
    (len 7 = 32768 ∧ ∀ n, n < 4096 → word (off 7 + 8 * n) 8 = (spGet 0 c.dict n).toNat) ∧
    (len 8 = 896 ∧ ∀ n, n < 7 → word (off 8 + 128 * n) 128 = (c.vec.K (n + 1)).toNat)

/-- R313, R315, R317: when the unit that leaves a core is at rest, its image is written to the lowest free pages, under a lease of HBM, its leases of the core are stowed, PREEMPTED is raised, the core is free and its released storage is scrubbed; with no slot, page or lease free it begins a new slice. -/
def Claim.sayContextSaves : Prop :=
  ∀ (core : Nat) (s : State) (u : Unit_), s.unitOf core = some u →
    (¬ Claim.atRest s core → exec (.contextSave core) s = .next s) ∧
    (Claim.atRest s core →
      let pj := s.jobOf core
      let a := s.withdrawSends core
      let c := a.core core
      let masks := (a.liveMask (keySpm core (a.imgBase core)) 0 c.c.pc.toNat, a.liveMask (keySpm core (a.imgBase core)) 1 c.v.pc.toNat % 2 ^ 16)
      let ids := a.stowable core
      let ranges := ids.flatMap (fun id => match a.lease id with
        | some l => l.ranges
        | none => [])
      let gs := savedGranules a core ranges
      let img := saveImage a core c masks.1 masks.2 ((a.freeSlot 4).getD 0) gs
      let count := (img.length + 2 ^ 18 - 1) / 2 ^ 18
      (∀ slot pages id, a.saveSlot pj.1 pj.2 = some slot → a.savePages pj.1 core count = some pages → a.freeSlot 4 = some id →
        ∃ (l : Lease) (b d e f g h t : State), exec (.contextSave core) s = .next t ∧
          Claim.areaLease a pj.1 pj.2 slot pages l ∧
          b = ((c.mat.ops.filter (fun o => o.check != 1 && o.check != 2)).foldl (fun s o => s.hold o.leases false) a).setLease id l ∧
          d = { b with mem := d.mem, poison := d.poison, stores := d.stores } ∧
          (∀ i, (hi : i < img.length) → memByte d.mem (pages.getD (i / 2 ^ 18) 0 + i % 2 ^ 18) = img[i]) ∧
          e = { d with poison := e.poison } ∧
          f = e.eventAt core ⟨.preempted, .c, 0, 0, 0, 0, 0, 0, 0, id, slot, 0, none⟩ ∧
          Claim.Chain (fun i v w => w = v.modLease i (fun l => { l with stowed := true })) ids f g ∧
          Claim.Left { g with
            mem := g.mem.filter (fun q => !overlaps ranges q.1 1)
            poison := g.poison.filter (fun n => !overlaps ranges (n * 64) 1)
            saves := g.saves ++ [⟨slot, pj.1, pj.2, u.launch, u.no, core, id, pages, img.length, masks.1, (c.keepLive masks.1 masks.2).atRest a.tick, ids, [], false, c.c.wait.held.bind (fun h => waitoDest? h.2)⟩] } h core ∧
          t = { h with units := h.units.map (fun w => if w.launch = u.launch ∧ w.no = u.no then { w with state := .saved } else w) }) ∧
      ((a.saveSlot pj.1 pj.2 = none ∨ a.savePages pj.1 core count = none ∨ a.freeSlot 4 = none) →
        ∃ t, exec (.contextSave core) s = .next t ∧ (t.core core).seat.leaving = false ∧ (t.core core).seat.stopping = false ∧
          (t.core core).seat.unit = c.seat.unit ∧ (t.core core).seat.sliceTick = s.tick ∧ t.saves = s.saves ∧ t.mem = s.mem ∧ t.keeper = s.keeper ∧
          (t.core core).copy = (s.core core).copy ∧
          t.agenda = s.agenda ++ ([Instr.trapEntry core, .waitoTimeout core, .enqrTimeout core] ++ (List.range 4).map (Instr.mOperationStart core)).map .occur))

/-- R22, R304, R316, R323: the pre-empted unit that the dispatcher gives a free core is restored there; then the increments held for its leases are performed, its parked commands raise their faults again, and its save area is vacated. -/
def Claim.sayRestores : Prop :=
  ∀ (core : Nat) (s : State) (v : Saved) (arb : Arbiter), Claim.Chosen s core (.saved v) arb →
    ∃ u w x t, exec (.restore core) s = .next t ∧ Claim.Restored (Claim.chargedTo s core arb) u core v ∧
      Claim.Chain (fun id a b => b = a.applyHeld v.core core id) (v.stowed.filter (fun id => (s.lease id).isSome)) u w ∧
      -- a collective record that is complete has STATUS and LOST written (R323)
      (let cmds := (s.loadImage v).copy.cmds
       Claim.Chain (fun i a b => ∀ q, cmds[i]? = some q →
        (let rec_ := BitVec.ofNat 1024 (q.data.headD 0)
         let ended := q.acted = true ∧ ∃ r p o, q.instr = .xcoll r p o
         (¬ ended → b = a.raisePark core q.id) ∧ (ended → b = (a.writeStatus core q (bits rec_ 1016 8) (bits rec_ 1006 10)).raisePark core q.id)))
        (List.range cmds.length) w x) ∧
      t = State.vacateNow { x with agenda := x.agenda ++ ((List.range 4).map (fun n => .occur (.mOperationStart core n)) ++ [.occur (.trapEntry core)]) } v.lease

end Sys2Proof

/-- R313 to R324: the save image, the save and the restore. -/
def Obligations.Preemption : Prop :=
  Claim.saySaveImage ∧
  Claim.sayContextSaves ∧
  Claim.sayRestores

namespace Sys2Proof

namespace Claim

/-! ## Rent by the tick (R33, R354 to R360) -/

/-- An OPEN lease whose paid-until is now. -/
def falling (s : State) (id : Nat) (l : Lease) : Prop := s.lease id = some l ∧ l.state = .open_ ∧ l.paid = s.tick

/-- Its escrow buys its STEP (R354). -/
def covered (s : State) (l : Lease) : Prop := l.parent = 0 ∧ 0 < l.step ∧ cost s l.part l.len l.tier l.step ≤ l.escrow

/-- `Overdraft` of R355: the part that the cap admits is billed, the rest goes to UNPAID; the first time, the purse is CAPPED and says so; a LAPSED lease is then due for reclaim. -/
def billed (s t : State) (p j id c : Nat) : Prop :=
  let q := s.purse p j
  let paid := min c (q.bal + q.cap).toNat
  let q' : Purse := { q with bal := q.bal - paid, burning := q.burning + c }
  (c ≤ paid → t = s.setPurse p j q') ∧
  (paid < c → ∃ v : State, v = s.setPurse p j { q' with unpaid := q.unpaid + (c - paid), capped := true } ∧
    ∃ w : State, w = (if q.capped then v else v.eventJob p j ⟨.purseCap, .c, 0, 0, 0, 0, 0, 0, 0, id, 0, 0, none⟩) ∧
    (∀ l, w.lease id = some l → l.state = .lapsed → t = w.setLease id { l with rdue := true }) ∧
    (∀ l, w.lease id = some l → l.state ≠ .lapsed → t = w.setLease id l) ∧ (w.lease id = none → t = w))

/-- A lease and its OPEN subleases lapse in turn; groups whose cabinet it covers freeze (R354, R289). -/
def lapses (id : Nat) (s t : State) : Prop :=
  (∀ l, s.lease id = some l → l.state = .open_ →
    let u := s.keeperLapse id
    ∀ m, u.lease id = some m → m.state = .open_ → t = u.setLease id { m with state := .lapsed, lapseAt := s.tick, arrears := false }) ∧
  (∀ l, s.lease id = some l → l.state ≠ .open_ → t = s.setLease id l) ∧ (s.lease id = none → t = s)

/-- The subleases of a lease. -/
def subsOf (s : State) (id : Nat) : List (Nat × Lease) := s.leases.filter (fun e => e.2.parent == id && id != 0)

/-- Ticks of a scrub (R360). -/
def scrubTime (tier len : Nat) : Nat := if tier ≤ 1 then 1 else (len + 2 ^ 30 - 1) / 2 ^ 30 + 1

/-- A lease ends (R357, R360): its escrow returns; a sublease or a stowed lease frees its slot, and any other is scrubbed first. `u` is the state once the keeper has lost its regions in it (R289), and, where it is reclaimed, the offcut queue too (R158, R359). -/
def leaseEnds (s t : State) (id : Nat) (st : LeaseState) : Prop :=
  ∀ l, s.lease id = some l →
    let u := if st = .reclaimed then (s.keeperEnd id).loseOffcut l else s.keeperEnd id
    let v : State := if l.escrow = 0 then u else u.credit l.part l.job l.escrow
    (l.parent = 0 → l.stowed = false →
      let w := v.setLease id { l with state := st, vacating := false, escrow := 0, arrears := false, rdue := false }
      let due := s.tick + scrubTime l.tier l.len
      t = { w with scrubs := w.scrubs ++ [⟨id, l.ranges, due⟩], timers := w.timers ++ [⟨.tick, due, none, .scrubComplete id⟩] }) ∧
    (l.parent ≠ 0 ∨ l.stowed = true → ∃ w x : State,
      w = { v with saves := v.saves.map (fun q => { q with
        stowed := q.stowed.filter (· != id), lost := if st = .reclaimed ∧ id ∈ q.stowed then q.lost ++ [id] else q.lost }) } ∧
      Chain (fun _ a b => b = a.eventJob l.part l.job ⟨.objDrop, .c, 0, 0, 0, 0, 0, 0, 0, id, 0, 0, none⟩)
        (List.range (w.heldIncs.filter (fun h => h.lease == id)).length) w x ∧
      t = { x with heldIncs := x.heldIncs.filter (fun h => h.lease != id), leases := spDel x.leases id })

/-- A lease is reclaimed (R354): it ends, and the job that held it has the event. -/
def reclaims (id : Nat) (s t : State) : Prop :=
  (∀ l, s.lease id = some l → ∃ v, leaseEnds s v id .reclaimed ∧ t = v.eventJob l.part l.job ⟨.reclaim, .c, 0, 0, 0, 0, 0, 0, 0, id, 0, 0, none⟩) ∧
  (s.lease id = none → t = s)

end Claim

end Sys2Proof

/-- R354, R355, R357: at the tick of its paid-until an OPEN lease is renewed from escrow, or stays OPEN in arrears while a party waits in it, or lapses with its subleases; a LAPSED lease is billed at each tick's end, and reclaimed once its grace is over, or it is due at the cap, with no holds on it or on a sublease. -/
def Obligations.LeaseTicks : Prop :=
  ∀ (id : Nat) (s : State),
    ((∀ l, ¬ Claim.falling s id l) →
      exec (.escrowRenewal id) s = .next s ∧ exec (.arrears id) s = .next s ∧ exec (.lapse id) s = .next s) ∧
    (∀ l, Claim.falling s id l →
      (Claim.covered s l →
        exec (.escrowRenewal id) s = .next (s.setLease id { l with
          escrow := l.escrow - Claim.cost s l.part l.len l.tier l.step, paid := s.tick + l.step, arrears := false }) ∧
        exec (.arrears id) s = .next s ∧ exec (.lapse id) s = .next s) ∧
      (¬ Claim.covered s l → l.sync = true → l.waiters ≠ 0 →
        exec (.escrowRenewal id) s = .next s ∧ exec (.lapse id) s = .next s ∧
        ∃ v t, exec (.arrears id) s = .next t ∧
          v = (if l.arrears then s else s.eventJob l.part l.job ⟨.arrears, .c, 0, 0, 0, 0, 0, 0, 0, id, 0, 0, none⟩) ∧
          Claim.billed (v.setLease id { l with arrears := true, paid := s.tick + 1 }) t l.part l.job id (Claim.cost s l.part l.len l.tier 1)) ∧
      (¬ Claim.covered s l → l.sync = false ∨ l.waiters = 0 →
        exec (.escrowRenewal id) s = .next s ∧ exec (.arrears id) s = .next s ∧
        ∃ t, exec (.lapse id) s = .next t ∧ Claim.Chain Claim.lapses (id :: (Claim.subsOf s id).map (·.1)) s t)) ∧
    (∀ l, s.lease id = some l →
      let due := l.state = .lapsed ∧ l.vacating = false ∧ (l.rdue = true ∨ l.lapseAt + (s.part l.part).grace.toNat ≤ s.tick) ∧ l.holds = 0 ∧
        ∀ e ∈ Claim.subsOf s id, e.2.holds = 0
      (due → ∃ u t, exec (.reclaim id) s = .next t ∧
        Claim.Chain Claim.reclaims (((Claim.subsOf s id).filter (fun e => e.2.state == .open_ || e.2.state == .lapsed)).map (·.1)) s u ∧
        Claim.reclaims id u t) ∧
      (¬ due → exec (.reclaim id) s = .next s) ∧
      (l.state = .lapsed → ∃ t, exec (.overdraft id) s = .next t ∧ Claim.billed s t l.part l.job id (Claim.cost s l.part l.len l.tier 1)) ∧
      (l.state ≠ .lapsed → exec (.overdraft id) s = .next s)) ∧
    (s.lease id = none → exec (.reclaim id) s = .next s ∧ exec (.overdraft id) s = .next s)

/-- R33, R317, R355, R360, R117, R357: the seat of each resident unit whose pre-emption is not complete is billed once a tick, then each save area, and BURN is what the tick billed; a scrub that is complete has zeroed its bytes and freed its slot; a lease that was VACATING ends with its last hold, after its subleases, and a sublease that vacates with its parent ends by itself. -/
def Obligations.SeatsAndScrubs : Prop :=
  ∀ (s : State),
    (∃ u v t, exec (.seatBilling s.tick) s = .next t ∧
      Claim.Chain (fun n a b => Claim.billed a b (a.jobOf n).1 (a.jobOf n).2 0 4096) ((s.cores.filter (fun e => e.2.seat.unit.isSome &&
          !(e.2.seat.stopping && !e.2.seat.cancelling && e.2.quiet))).map (·.1)) s u ∧
      Claim.Chain (fun i a b => ∀ w, u.saves[i]? = some w →
        (∀ l, a.lease w.lease = some l → l.state = .open_ →
          let c := Claim.cost a l.part l.len l.tier 1
          let short := ((a.purse l.part l.job).bal + (a.purse l.part l.job).cap).toNat < c
          ∃ d e, Claim.billed a d l.part l.job w.lease c ∧
            (short → l.arrears = false → e = d.eventJob l.part l.job ⟨.arrears, .c, 0, 0, 0, 0, 0, 0, 0, w.lease, 0, 0, none⟩) ∧
            (¬ short ∨ l.arrears = true → e = d) ∧ ∃ f : Bool, (f = true ↔ short) ∧ b = e.modLease w.lease (fun l => { l with arrears := f })) ∧
        ((∀ l, a.lease w.lease = some l → l.state ≠ .open_) → b = a)) (List.range u.saves.length) u v ∧
      t = { v with purses := v.purses.map (fun e => (e.1, { e.2 with burn := e.2.burning, burning := 0 })) }) ∧
    (∀ n, n ≠ s.tick → exec (.seatBilling n) s = .next s) ∧
    (∀ id c, s.scrubs.find? (fun c => c.id == id) = some c → (∀ d ∈ s.scrubs, d.id = id → d = c) →
      (c.due ≤ s.tick → ∃ t, exec (.scrubComplete id) s = .next t ∧
        t = { s with mem := t.mem, poison := t.poison, stores := t.stores, scrubs := s.scrubs.filter (fun d => d.id != id), leases := t.leases } ∧
        (∀ k, memByte t.mem k = if overlaps c.ranges k 1 then 0 else memByte s.mem k) ∧
        (∀ n, n ∈ t.poison ↔ n ∈ s.poison ∧ overlaps c.ranges (n * 64) 1 = false) ∧
        (∀ i, t.lease i = if i = id then none else s.lease i)) ∧
      (s.tick < c.due → exec (.scrubComplete id) s = .next s)) ∧
    (∀ id, (∀ c ∈ s.scrubs, c.id ≠ id) → exec (.scrubComplete id) s = .next s) ∧
    (∀ id l, s.lease id = some l →
      (l.vacating = false ∨ l.holds ≠ 0 → exec (.vacateComplete id) s = .next s) ∧
      (l.vacating = true → l.holds = 0 → (l.parent ≠ 0 ∧ ∃ q, s.lease l.parent = some q ∧ q.vacating = true) →
        ∃ u, Claim.leaseEnds s u id .vacated ∧ exec (.vacateComplete id) s = .next { u with agenda := u.agenda ++ [.occur (.vacateComplete l.parent)] }) ∧
      (l.vacating = true → l.holds = 0 → (l.parent = 0 ∨ ∀ q, s.lease l.parent = some q → q.vacating = false) →
        (∃ e ∈ Claim.subsOf s id, (e.2.state = .open_ ∨ e.2.state = .lapsed) ∧ e.2.holds ≠ 0) → exec (.vacateComplete id) s = .next s) ∧
      (l.vacating = true → l.holds = 0 → (l.parent = 0 ∨ ∀ q, s.lease l.parent = some q → q.vacating = false) →
        (∀ e ∈ Claim.subsOf s id, e.2.state = .open_ ∨ e.2.state = .lapsed → e.2.holds = 0) → ∃ a u t, exec (.vacateComplete id) s = .next t ∧
        Claim.Chain (fun i a b => Claim.leaseEnds a b i .vacated) ((Claim.subsOf s id).map (·.1)) s a ∧ Claim.leaseEnds (a.clearSlot id) u id .vacated ∧
        ((∀ e ∈ u.cores, e.2.c.wait.kind ≠ .lease) → t = u) ∧
        (∀ n c cur d r, u.cores = [(n, c)] → Claim.Waits u n .lease cur (.vacate d r) → c.c.wait.obj = 1 → (c.S r.toNat).toNat = id →
          Claim.answers u cur d.toNat (Claim.word 0 id) t))) ∧
    (∀ id, s.lease id = none → exec (.vacateComplete id) s = .next s)

namespace Sys2Proof

namespace Claim

/-! ## The hypervisor's mailbox (R333, R350, R376, R381, R382) -/

/-- An answer to a command. -/
def answered (s : State) (r : Response) : State := { s with responses := s.responses ++ [r] }

/-- A mailbox command acts on the physical function alone (R333), and not in recovery state (R383). -/
def Mails (i : Instr) (s : State) (fn : Nat) (act : State → Prop) : Prop :=
  (fn ≠ 0 → exec i s = .next (answered s .unsupported)) ∧
  (fn = 0 → s.platform.recovery = true → exec i s = .next s) ∧
  (fn = 0 → s.platform.recovery = false → ∃ t, exec i s = .next t ∧ act t)

/-- A mailbox command that is done at once, unless it is refused and changes no table. -/
def Does (i : Instr) (s : State) (fn : Nat) (refused : Prop) (act : State → Prop) : Prop :=
  Mails i s fn (fun t => (refused → t = answered s .refused) ∧ (¬ refused → ∃ u, act u ∧ t = answered u .done))

/-- The partition entry that PART_CREATE writes, from its bits (R330): the default rates, and VF p. -/
def newPart (p : Nat) (e : BitVec 128) : Partition :=
  ⟨true, BitVec.ofNat 6 p, BitVec.ofNat 16 (bits e 105 16), BitVec.ofNat 24 (bits e 81 24), BitVec.ofNat 16 (bits e 65 16),
   BitVec.ofNat 22 (bits e 43 22), BitVec.ofNat 21 (bits e 22 21), [32 * 65536, 6 * 65536, 65536, 4096, 1024], none⟩

/-- The job entry that JOB_CREATE writes, from its bits (R332, R299). -/
def newJob (p : Nat) (e : BitVec 384) : Job :=
  { valid := true, part := BitVec.ofNat 6 p, asid := BitVec.ofNat 16 (bits e 233 16), super := BitVec.ofNat 11 (bits e 222 11),
    root := BitVec.ofNat 52 (bits e 170 52), savewin := BitVec.ofNat 52 (bits e 118 52), cap := BitVec.ofNat 48 (bits e 70 48),
    wdisp := BitVec.ofNat 8 (bits e 56 8), whbm := BitVec.ofNat 8 (bits e 48 8), wfab := BitVec.ofNat 8 (bits e 40 8),
    wcoll := BitVec.ofNat 8 (bits e 32 8), wkeep := BitVec.ofNat 8 (bits e 24 8), graphsDone := 0 }

/-- Two partitions' HBM pages meet. -/
def meets_ (a b : Partition) : Prop :=
  ∃ n, (a.hbase.toNat ≤ n ∧ n < a.hbase.toNat + a.hpages.toNat) ∧ b.hbase.toNat ≤ n ∧ n < b.hbase.toNat + b.hpages.toNat

/-- A quad's owner entry (R330). -/
def ownerOf (s : State) (q : Nat) : BitVec 7 := spGet 0 s.owners q

/-- A core of a quad holds a region that is leased or is still being scrubbed. -/
def unscrubbed (s : State) (q : Nat) : Prop := ∃ c, 4 * q ≤ c ∧ c < 4 * q + 4 ∧ s.taken [(keySpm c 0, 0x100000), (keyMsm c 0, 0x40000)] = true

/-- Nothing of a partition is left on its quads: no unit, no lease of their SPM and MSM that is not stowed, no scrub. -/
def emptied (s : State) (p : Nat) (quads : List Nat) : Prop :=
  (∀ q ∈ quads, (ownerOf s q).toNat = 64 + p → (∀ c, 4 * q ≤ c → c < 4 * q + 4 → (s.core c).seat.unit = none ∧
    ∀ e ∈ s.leases, e.2.tier ≤ 1 → e.2.stowed = false → e.2.parent = 0 → e.2.core ≠ c)) ∧
  ∀ q ∈ quads, ∀ c ∈ s.scrubs, ∀ r ∈ quadRanges q, overlaps c.ranges r.1 r.2 = false

/-- Quads of a partition leave it: ASSIGNED is 0, and PARTID stays. -/
def released_ (s t : State) (p : Nat) (quads : List Nat) : Prop :=
  t = { s with owners := t.owners } ∧
  ∀ q, ownerOf t q = if q ∈ quads ∧ (ownerOf s q).toNat = 64 + p then BitVec.ofNat 7 p else ownerOf s q

/-- A command that is not complete is kept, and goes on at the next tick. -/
def keptMail (u : State) (m : Mail) (i : Instr) : State :=
  { u with mail := (if m ∈ u.mail then u.mail else u.mail ++ [m]), timers := u.timers ++ [⟨.tick, u.tick + 1, none, i⟩] }

/-- A kept command is complete. -/
def overWith (u : State) (m : Mail) : State := answered { u with mail := u.mail.filter (fun x => x ≠ m) } .done

/-- Residents of a partition's quads are pre-empted, and its leases there are vacated where no unit stands any more (R333). -/
def clears (s u : State) (p : Nat) (quads : List Nat) : Prop :=
  let cores := (quads.filter (fun q => (ownerOf s q).toNat == 64 + p)).flatMap (fun q => [4 * q, 4 * q + 1, 4 * q + 2, 4 * q + 3])
  ∃ v : State, Chain (fun c a b =>
      (((a.core c).seat.unit ≠ none ∧ (a.core c).seat.leaving = false ∧ (a.core c).seat.stopping = false) →
        b = { a.setCore c { a.core c with seat := { (a.core c).seat with leaving := true } } with agenda := a.agenda ++ [.occur (.preempt c)] }) ∧
      (¬ ((a.core c).seat.unit ≠ none ∧ (a.core c).seat.leaving = false ∧ (a.core c).seat.stopping = false) → b = a)) cores s v ∧
    Chain (fun id a b => b = a.vacateNow id)
      ((v.leases.filter (fun e => e.2.tier ≤ 1 && !e.2.stowed && e.2.parent == 0 && cores.contains e.2.core && (v.core e.2.core).seat.unit.isNone)).map (·.1)) v u

end Claim

end Sys2Proof

/-- R330, R333: PART_CREATE writes a partition entry, PART_GROW assigns quads, RATE_SET replaces the rates from the next tick; a refused command changes no table. SLICE and STALLT below R300's least values are refused. -/
def Obligations.PartitionCommands : Prop :=
  (∀ (fn p : Nat) (e : BitVec 128) (s : State),
    Claim.Does (.partCreate fn p e) s fn
      (64 ≤ p ∨ (s.part p).valid = true ∨ (∃ q ∈ s.parts, q.1 ≠ p ∧ q.2.valid = true ∧ Claim.meets_ (Claim.newPart p e) q.2) ∨
        bits e 105 16 < 100 ∨ bits e 81 24 < 1000)
      (fun u => (∀ q, u.part q = if q = p then Claim.newPart p e else s.part q) ∧
        (p ≠ 0 → u.ring p = ⟨[], 0, 0, 0, false⟩) ∧ (∀ q, q ≠ p ∨ p = 0 → u.ring q = s.ring q) ∧
        -- the digest of the entry as it stands, its reserved bits 0, and its rates (R330, R3)
        spGet [] u.platform.measured (partMeasure p) = (2 ^ 127 + p % 64 * 2 ^ 121 + bits e 22 99 * 2 ^ 22) :: [32 * 65536, 6 * 65536, 65536, 4096, 1024] ∧
        u = { s with parts := u.parts, rings := u.rings, platform := { s.platform with measured := u.platform.measured } })) ∧
  (∀ (fn p : Nat) (quads : List Nat) (s : State),
    Claim.Does (.partGrow fn p quads) s fn
      (64 ≤ p ∨ ∃ q ∈ quads, 512 ≤ q ∨ 64 ≤ (Claim.ownerOf s q).toNat ∨ Claim.unscrubbed s q)
      (fun u => u = { s with owners := u.owners } ∧ ∀ q, Claim.ownerOf u q = if q ∈ quads then BitVec.ofNat 7 (64 + p) else Claim.ownerOf s q)) ∧
  (∀ (fn p : Nat) (quads : List Nat) (s : State),
    Claim.Mails (.partShrink fn p quads) s fn (fun t =>
      let m := Mail.shrink p quads
      (m ∉ s.mail → s.strands p quads = true → t = Claim.answered s .refused) ∧
      (m ∈ s.mail ∨ s.strands p quads = false → ∃ u, Claim.clears s u p quads ∧
        (Claim.emptied u p quads → ∃ v, Claim.released_ u v p quads ∧ t = Claim.overWith v m) ∧
        (¬ Claim.emptied u p quads → t = Claim.keptMail u m (.partShrink fn p quads))))) ∧
  (∀ (fn p : Nat) (s : State),
    Claim.Mails (.partDestroy fn p) s fn (fun t =>
      let m := Mail.destroy p
      ∃ a : State, (m ∈ s.mail → a = s) ∧
        (m ∉ s.mail → Claim.Chain (fun j x y => y = x.cancelJob p j none) (((s.jobs.filter (fun e => e.1 / 1024 == p && e.2.valid)).map (fun e => e.1 % 1024))) s a) ∧
        (let quads := (List.range 512).filter (fun q => (Claim.ownerOf a q).toNat == 64 + p)
         ((∃ g ∈ a.graphs, g.part = p) → t = Claim.keptMail a m (.partDestroy fn p)) ∧
         ((∀ g ∈ a.graphs, g.part ≠ p) → ∃ u, Claim.clears a u p quads ∧
           (Claim.emptied u p quads → ∃ v w, Claim.released_ u v p quads ∧ t = Claim.overWith w m ∧ w = { v with parts := w.parts } ∧
             (w.part p).valid = false ∧ ∀ q, q ≠ p → w.part q = v.part q) ∧
           (¬ Claim.emptied u p quads → t = Claim.keptMail u m (.partDestroy fn p)))))) ∧
  (∀ (fn p : Nat) (rates : List Nat) (s : State),
    Claim.Does (.rateSet fn p rates) s fn (64 ≤ p ∨ rates.length ≠ 5 ∨ 0 ∈ rates)
      (fun u => u = { s with parts := u.parts } ∧ ∀ q, u.part q = if q = p then { s.part p with nextRates := some rates } else s.part q))

namespace Sys2Proof

namespace Claim

/-- A retired job has no work and no lease left (R333). -/
def workOver (s : State) (p j : Nat) : Prop :=
  (∀ g ∈ s.graphs, ¬ (g.part = p ∧ bits g.record 464 16 = j)) ∧ (∀ e ∈ s.leases, ¬ (e.2.part = p ∧ e.2.job = j)) ∧
  (∀ a ∈ s.keeper.apps, ¬ (a.part = p ∧ a.job = j)) ∧ ∀ k ∈ s.colls, ¬ (k.part = p ∧ k.job = j)

/-- The job has left (R332, R333): its entry is not valid, its purse is gone, its ASID's generation has risen, and no keeper group, program or capture of it is left. -/
structure Dropped (s t : State) (p j : Nat) : Prop where
  jobs : ∀ q, spGet Job.reset t.jobs q = if q = p * 1024 + j then { s.job p j with valid := false } else spGet Job.reset s.jobs q
  gen : ∀ a, spGet 0 t.asidGen a = spGet 0 s.asidGen a + (if a = (s.job p j).asid.toNat then 1 else 0)
  keeper : (∀ g ∈ t.keeper.groups, ¬ (g.part = p ∧ g.job = j)) ∧ (∀ g ∈ t.keeper.progs, ¬ (g.part = p ∧ g.job = j)) ∧
    ∀ f ∈ t.keeper.fetches, ¬ (f.part = p ∧ f.job = j)
  captures : ∀ c, c ∈ t.captures ↔ c ∈ s.captures ∧ ¬ (c.part = p ∧ c.job = j)

/-- A range of a job lies under its OPEN leases of HBM. -/
def underHbm (s : State) (p j va n : Nat) : Prop :=
  ∃ ps ls, vaPieces s p j va n false true = some ps ∧ pieceLease s p j (some 3) ps = .ok ls

/-- The job exists. -/
def jobThere (s : State) (p j : Nat) : Prop := p < 64 ∧ j < 1024 ∧ (s.job p j).valid = true

end Claim

end Sys2Proof

/-- R299, R332, R333, R350, R376, R381, R382: JOB_CREATE writes a job entry and starts the generation of its ASID at 0, JOB_RETIRE cancels the job, vacates its leases, invalidates its ASID and drops it once nothing of it is left; PURSE_CREDIT, CORE_CLEAR, CAPTURE_SET and REPLAY_SET. -/
def Obligations.JobCommands : Prop :=
  (∀ (fn p j : Nat) (e : BitVec 384) (s : State),
    Claim.Does (.jobCreate fn p j e) s fn
      (64 ≤ p ∨ 1024 ≤ j ∨ (s.job p j).valid = true ∨ (∃ q ∈ s.jobs, q.2.valid = true ∧ q.2.asid.toNat = bits e 233 16) ∨
        bits e 56 8 = 0 ∨ bits e 48 8 = 0 ∨ bits e 40 8 = 0 ∨ bits e 32 8 = 0 ∨ bits e 24 8 = 0 ∨ s.partOfCore (bits e 222 11) ≠ some p)
      (fun u => (∀ q, spGet Job.reset u.jobs q = if q = p * 1024 + j then Claim.newJob p e else spGet Job.reset s.jobs q) ∧
        u.purse p j = { s.purse p j with cap := bits e 70 48 } ∧
        (∀ a, spGet 0 u.asidGen a = if a = bits e 233 16 then 0 else spGet 0 s.asidGen a) ∧
        u = { s with jobs := u.jobs, asidGen := u.asidGen, purses := u.purses, placers := u.placers, collArb := u.collArb, keeper := { s.keeper with arb := u.keeper.arb } } ∧
        p * 1024 + j ∈ u.collArb.ring ∧ p * 1024 + j ∈ u.keeper.arb.ring ∧ ∀ d, d < 4 → j ∈ (spGet Arbiter.zero u.placers (p * 4 + d)).ring)) ∧
  (∀ (fn p j : Nat) (s : State),
    Claim.Mails (.jobRetire fn p j) s fn (fun t =>
      let m := Mail.retire p j
      (¬ Claim.jobThere s p j → t = Claim.overWith s m) ∧
      (Claim.jobThere s p j → ∃ a u : State, a = (if m ∈ s.mail then s else s.cancelJob p j none) ∧
        Claim.Chain (fun id x y => y = x.vacateNow id) ((a.leases.filter (fun e => e.2.part == p && e.2.job == j)).map (·.1)) a u ∧
        (Claim.workOver u p j → ∃ v, Claim.Dropped u v p j ∧ t = Claim.overWith v m) ∧
        (¬ Claim.workOver u p j → t = Claim.keptMail u m (.jobRetire fn p j))))) ∧
  (∀ (fn p j n : Nat) (s : State),
    Claim.Does (.purseCredit fn p j n) s fn (¬ Claim.jobThere s p j) (fun u =>
      let q := s.purse p j
      let b := min (q.bal + n) (2 ^ 63 - 1)
      u = s.setPurse p j { q with bal := b, capped := q.capped && decide (b ≤ -(q.cap : Int)) })) ∧
  (∀ (fn c : Nat) (s : State),
    Claim.Does (.coreClear fn c) s fn ((s.core c).health.suspect = false)
      (fun u => u = s.setCore c { s.core c with health := { (s.core c).health with suspect := false } })) ∧
  (∀ (fn p j va n : Nat) (s : State),
    Claim.Does (.captureSet fn p j va n) s fn (¬ Claim.jobThere s p j ∨ va % 262144 ≠ 0 ∨ n % 262144 ≠ 0 ∨ ¬ Claim.underHbm s p j va n)
      (fun u => u = { s with captures := u.captures } ∧
        ∀ c, c ∈ u.captures ↔ c = ⟨p, j, va, n, 0, false, s.tick⟩ ∨ (c ∈ s.captures ∧ ¬ (c.part = p ∧ c.job = j ∧ c.replay = false)))) ∧
  (∀ (fn p j va n : Nat) (s : State),
    Claim.Does (.replaySet fn p j va n) s fn (¬ Claim.jobThere s p j)
      (fun u => u = { s with captures := u.captures } ∧
        ∀ c, c ∈ u.captures ↔ c = ⟨p, j, va, n, 0, true, s.tick⟩ ∨ (c ∈ s.captures ∧ ¬ (c.part = p ∧ c.job = j ∧ c.replay = true))))

namespace Sys2Proof

namespace Claim

/-! ## The platform (R335 to R337, R366 to R369, R380, R383 to R387) -/

/-- A firmware command of the physical function, which recovery state answers too (R383, R384). -/
def Firmware (i : Instr) (s : State) (fn : Nat) (act : State → Prop) : Prop :=
  (fn ≠ 0 → exec i s = .next (answered s .unsupported)) ∧ (fn = 0 → ∃ t, exec i s = .next t ∧ act t)

/-- Steps 2 and 3 of the boot succeed: both signatures verify. -/
def signed (r : BootReport) : Bool := r.sigOk.firmware && r.sigOk.tables
/-- Step 4 too. -/
def scrubs (r : BootReport) : Bool := signed r && r.hbmOk

/-- The package after a reset (R383, R384): every register and table at reset, its storage scrubbed where steps 2 to 4 succeed; the image to activate is verified and measured part by part (the parts are free, log 13), and one that fails leaves the slot before it active; the fabric reports its ports and what its switches execute (R278). -/
structure Booted (s t : State) (r : BootReport) : Prop where
  rest : t = { State.reset with mem := t.mem, poison := t.poison, platform := t.platform, responses := s.responses, script := s.script, fresh := s.fresh }
  scrubbed : ∀ k, memByte t.mem k = if scrubs r = true ∧ k < 2 ^ 64 then 0 else memByte s.mem k
  poison : ∀ g, g ∈ t.poison ↔ g ∈ s.poison ∧ ¬ (scrubs r = true ∧ g * 64 < 2 ^ 64)
  active : t.platform.active = (if signed r then s.platform.pending.getD s.platform.active else s.platform.active) ∧ t.platform.failed = !signed r
  recovery : t.platform.recovery = !(scrubs r && r.cxlOk)
  slots : t.platform.slots = s.platform.slots ∧ t.platform.pending = none ∧ t.platform.transferring = none
  ports : ∀ n, n ∈ t.platform.downPorts ↔ n ∈ r.fabric.down ∧ n < 32 ∧ scrubs r = true
  switches : t.platform.mcast = (scrubs r && r.fabric.mcast) ∧ t.platform.rload = (scrubs r && r.fabric.rload)
  measured : let m (ix : Nat) := spGet [] t.platform.measured ix
    let part (ix : Nat) := Config.fwPart ix ((s.platform.slots.getD (s.platform.pending.getD s.platform.active) []).map BitVec.toNat)
    m 1 = (if r.sigOk.firmware then part 1 else []) ∧ m 2 = (if signed r then part 2 else []) ∧ m 3 = (if signed r then part 3 else [])
  limit : t.platform.powerLimit = 2400 ∧ t.platform.thermal = false

/-- What a measured index of a function holds (R337). -/
def measured (s : State) (fn ix : Nat) : Option (List Nat) :=
  if 1 ≤ ix ∧ ix ≤ 3 then some (spGet [] s.platform.measured ix)
  else if ix = 16 ∧ fn < 64 then some (spGet [] s.platform.measured (1024 + fn))
  else none

/-- One die becomes `d`. -/
def withDie (s t : State) (n : Nat) (d : Die) : Prop := t = { s with dies := t.dies } ∧ ∀ m, m < 4 → t.die m = if m = n then d else s.die m

end Claim

/-- R383, R384, R387: a package reset, or its wait for a firmware transfer in progress; Get FW Info, Transfer FW and Activate FW, on the physical function. -/
def Claim.sayFirmwareAndReset : Prop :=
  (∀ (mgmt : Bool) (a : Signatures) (b c : Bool) (down : FabricReport) (s : State),
    (mgmt = true → s.platform.transferring ≠ none →
      exec (.packageReset mgmt a b c down) s = .next { s with platform := { s.platform with resetWaiting := some ⟨a, b, c, down⟩ } }) ∧
    (mgmt = false ∨ s.platform.transferring = none → ∃ t, exec (.packageReset mgmt a b c down) s = .next t ∧ Claim.Booted s t ⟨a, b, c, down⟩)) ∧
  (∀ (fn : Nat) (s : State), Claim.Firmware (.getFwInfo fn) s fn (fun t =>
    t = Claim.answered s (.firmware s.platform.active s.platform.pending s.platform.failed))) ∧
  (∀ (fn slot : Nat) (image : List Byte) (last : Bool) (s : State), s.platform.slots.length = 2 →
    Claim.Firmware (.transferFw fn slot image last) s fn (fun t =>
      let other := ∃ n, s.platform.transferring = some n ∧ n ≠ slot
      (2 ≤ slot ∨ other → t = Claim.answered s .refused) ∧
      (slot < 2 → ¬ other → ∃ u : State,
        (let p := u.platform
         u = Claim.answered { s with platform := p } .done ∧
         p = { s.platform with slots := p.slots, transferring := if last then none else some slot, resetWaiting := if last then none else s.platform.resetWaiting } ∧
         p.slots.length = 2 ∧ p.slots.getD (1 - slot) [] = s.platform.slots.getD (1 - slot) [] ∧
         p.slots.getD slot [] = (if s.platform.transferring = some slot then s.platform.slots.getD slot [] else []) ++ image) ∧
        (∀ r, s.platform.resetWaiting = some r → last = true → Claim.Booted u t r) ∧
        (s.platform.resetWaiting = none ∨ last = false → t = u)))) ∧
  (∀ (fn slot : Nat) (s : State), Claim.Firmware (.activateFw fn slot) s fn (fun t =>
    (2 ≤ slot → t = Claim.answered s .refused) ∧
    (slot < 2 → t = Claim.answered { s with platform := { s.platform with pending := some slot } } .done)))

/-- R337, R386, R387: telemetry by the physical function or by the board controller, measurements that a function may see, and the power limit. Digests, signatures and sensors are free (log 13). -/
def Claim.sayManagement : Prop :=
  (∀ (fn n : Nat) (s : State),
    (fn ≠ 0 → fn ≠ 64 → exec (.telemRead fn n) s = .next (Claim.answered s .unsupported)) ∧
    (fn = 0 → s.platform.recovery = true → exec (.telemRead fn n) s = .next s) ∧
    ((fn = 0 ∧ s.platform.recovery = false) ∨ fn = 64 →
      (4 ≤ n → exec (.telemRead fn n) s = .next (Claim.answered s .refused)) ∧
      (n < 4 → ∃ r, exec (.telemRead fn n) s = .next (Claim.answered s (.telemetry r)) ∧
        bits r 448 64 = (s.die n).acAtTick % 2 ^ 64 ∧ bits r 400 48 = (s.die n).throttleTicks % 2 ^ 48 ∧ bits r 368 32 = (s.die n).droopCount.toNat ∧
        bits r 365 3 = (if s.platform.thermal then 5 else (s.die n).droop % 8) ∧ bits r 288 32 = (s.die n).corrections.toNat ∧
        bits r 256 32 = (s.cores.filter (fun e => decide (e.1 / 512 = n) && e.2.health.suspect)).length % 2 ^ 32))) ∧
  (∀ (w : Nat) (s : State),
    (1200 ≤ w → w ≤ 2400 → exec (.powerLimit w) s = .next (Claim.answered { s with platform := { s.platform with newLimit := some w } } .done)) ∧
    (w < 1200 ∨ 2400 < w → exec (.powerLimit w) s = .next (Claim.answered s .refused))) ∧
  (∀ (fn : Nat) (ixs : List Nat) (s : State),
    let sees := fn ≤ 64 ∧ (fn = 0 ∨ fn = 64 ∨ (s.part fn).valid = true) ∧ (fn = 64 ∨ s.platform.recovery = false)
    (¬ sees → exec (.getMeasurements fn ixs) s = .next s) ∧
    (sees → ((∃ ix ∈ ixs, Claim.measured s fn ix = none) → exec (.getMeasurements fn ixs) s = .next (Claim.answered s .refused)) ∧
      ((∀ ix ∈ ixs, Claim.measured s fn ix ≠ none) → ∃ ds sig, exec (.getMeasurements fn ixs) s = .next (Claim.answered s (.digests ds sig)) ∧
        ds.length = ixs.length ∧ ∀ i m, (h : i < ixs.length) → Claim.measured s fn ixs[i] = some m → ds[i]? = some (Config.digest ixs[i] m))))

end Sys2Proof

/-- R383 to R387: firmware, reset and the management interface. -/
def Obligations.Platform : Prop :=
  Claim.sayFirmwareAndReset ∧
  Claim.sayManagement

/-- R385, R386: a thermal limit that is passed asks for step 5 until 1,000 cool ticks in a row; a droop raises its die's step by one for 100 ticks after the last detection, then it falls a step at a time; DROOPN counts the steps that droops have raised. -/
def Obligations.ClockSteps : Prop :=
  ∀ (s : State),
    (∀ tj w, (105 ≤ tj ∨ s.platform.powerLimit < w → exec (.thermalThrottle tj w) s = .next { s with platform := { s.platform with thermal := true } }) ∧
      (tj < 105 → w ≤ s.platform.powerLimit → exec (.thermalThrottle tj w) s = .next s)) ∧
    (∀ n, (1000 ≤ n → exec (.throttleExit n) s = .next { s with platform := { s.platform with thermal := false } }) ∧
      (n < 1000 → exec (.throttleExit n) s = .next s)) ∧
    (∀ n, (4 ≤ n → exec (.droopDetect n) s = .next s ∧ exec (.droopStepDown n) s = .next s) ∧
      (n < 4 → s.dies.length = 4 →
        let d := s.die n
        let step := if s.platform.thermal then 5 else d.droop
        (∃ u t, exec (.droopDetect n) s = .next t ∧
          Claim.withDie s u n { d with droop := min 5 (step + 1), droopTick := s.tick
                                       droopCount := BitVec.ofNat 32 (if step = 5 then d.droopCount.toNat else min (d.droopCount.toNat + 1) (2 ^ 32 - 1)) } ∧
          t = { u with timers := u.timers ++ [⟨.tick, s.tick + 100, none, .droopStepDown n⟩] }) ∧
        (d.droop ≠ 0 → d.droopTick + 100 ≤ s.tick → ∃ u t, exec (.droopStepDown n) s = .next t ∧
          Claim.withDie s u n { d with droop := d.droop - 1, droopTick := s.tick } ∧
          t = (if d.droop = 1 then u else { u with timers := u.timers ++ [⟨.tick, s.tick + 100, none, .droopStepDown n⟩] })) ∧
        (d.droop = 0 ∨ s.tick < d.droopTick + 100 → exec (.droopStepDown n) s = .next s)))

namespace Sys2Proof

namespace Claim

/-- A time of a core that has not passed moves by 12 ac (R368). -/
def shifted (now n : Nat) : Nat := if now < n then n + 12 else n

/-- A core whose engines are frozen for 12 ac more, counted from the end of a freeze that runs (R368): its clocks' times to come are 12 ac later, and the distances between those that have passed stay. -/
structure Freezes (s t : State) (core : Nat) : Prop where
  rest : t = { s with cores := t.cores, timers := t.timers }
  others : ∀ n, n ≠ core → t.core n = s.core n
  health : (t.core core).health = { (s.core core).health with
    frozenUntil := max (s.acOf core) (s.core core).health.frozenUntil + 12, foundAc := s.acOf core + 1 }
  state : (t.core core).seat = (s.core core).seat ∧ (t.core core).csr = (s.core core).csr ∧ (t.core core).vec = (s.core core).vec ∧
    (t.core core).regs.s = (s.core core).regs.s ∧ (t.core core).regs.t = (s.core core).regs.t ∧ (t.core core).flights = (s.core core).flights
  flow : ∀ e, (t.core core).stream e = (let st := (s.core core).stream e
    { st with nextAc := shifted (s.acOf core) st.nextAc, wait := { st.wait with ac := st.wait.ac + 12 } })
  board : ∀ n, let d := spGet (0, 0) (s.core core).regs.due n
    spGet (0, 0) (t.core core).regs.due n = d ∨ spGet (0, 0) (t.core core).regs.due n = (d.1 + 12, d.2)
  timers : t.timers = s.timers.map (fun x => if x.core = some core ∧ s.acOf core < x.due then { x with due := x.due + 12 } else x) ++
    (if (s.core core).health.frozenUntil ≤ s.acOf core then [⟨.ac (dieOf core), s.acOf core + 12, some core, .freezeEnd core⟩] else [])

/-- The streams stop, M's operations wait for its release, and the fault goes to the supervisor unit (R374); a pre-emption that waited follows. -/
def handsOver (s t : State) (core : Nat) (r : Report) : Prop :=
  let c := s.core core
  ∃ d : Core, (∀ e, d.stream e = (let st := c.stream e
      { st with run := if st.run = .running then .frozen else st.run })) ∧
    d = { c with
      c := d.c, v := d.v, m := d.m, x := d.x
      health := { c.health with recovering := none, refetching := false }
      mat := { c.mat with ops := c.mat.ops.map (fun o => if o.check = 0 then { o with check := 3 } else o) } } ∧
    t = State.toSuper { s.setCore core d with agenda := s.agenda ++ [.occur (.preempt core)] } core r

/-- The core at the snapshot of its phase (R371, R372): flow and index counters are the snapshot's, no entry, token or operation is left, commands push no tokens until their words issue again, and nothing else has changed. -/
structure AtSnapshot (c d : Core) : Prop where
  flow : ∀ e, d.stream e = (let p := c.snap.streams.getD e.num .zero
    { c.stream e with pc := p.pc, codePos := p.codePos, packed := p.packed, loops := p.loops, run := p.run, stop := p.stop, wait := .idle, heldFrom := none, broken := none })
  idx : ∀ n, d.I n = if n < 16 then putBits (c.I n) 48 48 (spGet 0 c.snap.idx n).toNat else c.I n
  copy : d.copy = { c.copy with cmds := c.copy.cmds.map (fun x => { x with signal := 0 }), replay := c.copy.log ++ c.copy.replay, log := [] }
  rest : d = { c with
    regs := { c.regs with i := d.regs.i }
    c := d.c, v := d.v, m := d.m, x := d.x
    cqv := [], cqm := [], dowel := [], sweep := none, vtarget := none
    mat := { c.mat with ops := [] }
    copy := d.copy
    snap := { c.snap with rollbacks := c.snap.rollbacks + 1 } }

/-- All four streams of a core resume issue, and ROLLBACK is raised (R371). -/
def resumes (s t : State) (core : Nat) (d : Core) (r : Report) : Prop :=
  let now := s.acOf core
  let u := State.eventAt (s.setCore core { d with
    c := { d.c with nextAc := now }, v := { d.v with nextAc := now }, m := { d.m with nextAc := now }, x := { d.x with nextAc := now }
    health := { d.health with recovering := none, refetching := false } }) core ⟨.rollback, r.eng, r.pc, 0, 0, 0, 0, 0, 0, 0, 0, d.snap.tag.toNat, none⟩
  t = { u with agenda := u.agenda ++ [.occur (.trapEntry core), .occur (.preempt core)] }

end Claim

end Sys2Proof

/-- R368, R367, R369, R371, R373, R374: a corrected error freezes its core for 12 ac, and one in the same ac shares the freeze; an uncorrectable one poisons its granule; a freeze ends. A stream that consumes poison in a replayable phase stops its core; once what has issued is complete, the streams take the snapshot's flow, what wrote the poisoned granules is fetched again, and issue resumes; the supervisor unit has the fault where the phase cannot be run again. -/
def Obligations.DetectedErrors : Prop :=
  ∀ (s : State),
    (∀ core n, n ≠ 0 → core < 2048 → ∃ u t, exec (.correctable core n) s = .next t ∧
      ((s.core core).health.foundAc = s.acOf core + 1 → u = s) ∧ ((s.core core).health.foundAc ≠ s.acOf core + 1 → Claim.Freezes s u core) ∧
      (∀ m, m ≠ core → t.core m = u.core m) ∧
      t.core core = { u.core core with health := { (u.core core).health with fixedThisTick := (u.core core).health.fixedThisTick + n } } ∧
      (s.dies.length = 4 → ∀ m, m < 4 → t.die m = if m = core / 512 then
        { s.die m with corrections := BitVec.ofNat 32 (min ((s.die m).corrections.toNat + n) (2 ^ 32 - 1)) } else s.die m)) ∧
    (∀ core n, n ≠ 0 → 2048 ≤ core → exec (.correctable core n) s = .next { s with platform := { s.platform with ioFixed := s.platform.ioFixed + n } }) ∧
    (∀ core, exec (.correctable core 0) s = .next s) ∧
    (∀ core, let h := (s.core core).health
      (h.frozenUntil ≠ 0 → h.frozenUntil ≤ s.acOf core → exec (.freezeEnd core) s = .next
        { s.setCore core { s.core core with health := { h with frozenUntil := 0 } } with
          agenda := s.agenda ++ (List.range 4).map (fun n => .occur (.mOperationStart core n)) }) ∧
      (h.frozenUntil = 0 ∨ s.acOf core < h.frozenUntil → exec (.freezeEnd core) s = .next s)) ∧
    (∀ k, let inside := (k < 2 ^ 52 ∧ isStorage k = true) ∨ (2 ^ 52 ≤ k ∧ k < keyMsm 2048 0)
      (inside → ∃ t, exec (.uncorrectableError k) s = .next t ∧ t = { s with poison := t.poison } ∧
        (∀ g, g ∈ t.poison ↔ g ∈ s.poison ∨ g = k / 64)) ∧
      (2 ^ 53 ≤ k → k < 2 ^ 53 + 2 ^ 26 → ∃ c, exec (.uncorrectableError k) s = .next (s.setCore ((k - 2 ^ 53) / 2 ^ 15) c) ∧
        c = { s.core ((k - 2 ^ 53) / 2 ^ 15) with hot := c.hot } ∧ ∀ g, g ∈ c.hot ↔ g ∈ (s.core ((k - 2 ^ 53) / 2 ^ 15)).hot ∨ g = k % 2 ^ 15 / 64) ∧
      (¬ inside → ¬ (2 ^ 53 ≤ k ∧ k < 2 ^ 53 + 2 ^ 26) → exec (.uncorrectableError k) s = .next s)) ∧
    (∀ core (r : Report),
      let c := s.core core
      let r' : Report := { r with cause := .poison }
      c.health.recovering = none →
      (c.snap.replayable = true → c.snap.rollbacks < 2 → s.consume core r =
        { s.setCore core { c with health := { c.health with recovering := some r', refetching := false } } with
          agenda := s.agenda ++ [.occur (.instructionRetire core .c 0)]
          timers := s.timers ++ (if c.copy.issuing = none then [] else [⟨.ac (dieOf core), s.acOf core + 8, some core, .instructionRetire core .c 0⟩]) }) ∧
      (c.snap.replayable = false ∨ 2 ≤ c.snap.rollbacks → Claim.handsOver s (s.consume core r) core r')) ∧
    (∀ core (r : Report),
      let c := s.core core
      let hot (g : Nat) : Prop := g ∈ s.poison ∧ isOwnKey core (g * 64) = true
      let writes (g : Nat) (e : XCmd × List Nat) : Prop := e ∈ c.copy.kept ∧ g ∈ e.2
      let twice : Prop := ∃ w x, (w, x, true) ∈ c.copy.log ∧ x.poison = true ∧ ((∃ a b o m d, x.instr = .xred a b o m d) ∨ ∃ a b m z, x.instr = .xatom a b m z)
      c.health.recovering = some r → c.health.refetching = false → c.seat.cancelling = false → c.c.wait.due = none →
      (c.calm = false → exec (.instructionRetire core .c 0) s = .next s) ∧
      (c.calm = true →
        (twice ∨ (∃ g, hot g ∧ ∀ e, ¬ writes g e) → ∃ t, exec (.instructionRetire core .c 0) s = .next t ∧ Claim.handsOver s t core r) ∧
        (¬ twice → (∀ g, hot g → ∃ e, writes g e) → ∃ (u t : State) (d : Core), exec (.instructionRetire core .c 0) s = .next t ∧
          u = (c.mat.ops.filter (fun o => o.check != 1 && o.check != 2)).foldl (fun s o => s.hold o.leases false) s ∧ Claim.AtSnapshot c d ∧
          ((∀ g, ¬ hot g) → Claim.resumes u t core d r) ∧
          ((∃ g, hot g) → ∃ (a : Core) (again : List (XCmd × List Nat)), (∀ e, e ∈ again ↔ e ∈ c.copy.kept ∧ ∃ g, hot g ∧ g ∈ e.2) ∧
            t = { u.setCore core a with keeper := { u.keeper with fetches := t.keeper.fetches } } ∧
            a = { d with
              nextId := c.nextId + again.length
              health := { c.health with refetching := true }
              copy := { d.copy with cmds := d.copy.cmds ++ (List.range again.length).map (fun i =>
                let x := (again.map (·.1)).getD i default
                { x with
                  id := c.nextId + i, again := true, refetch := true, signal := 0, started := 0, pp := 0, lb := 0, ents := [], flight := []
                  parked := none, poison := false, acted := false, bumped := false, acks := [] }) } }))))

/-- R335, R336, R37, R380, R381: the host writes READ of an event ring, and no other register of it; a write to the window of HBM that the hypervisor has set in steps of 256 MiB reaches a post window, whose aligned lines are posts and whose lines read as the free intake entries, or the HBM, unless a job there runs from a log; beyond the window there is no storage. That the window is all of HBM at reset is the model's choice (log 59). -/
def Obligations.HostWrites : Prop :=
  ∀ (s : State),
    (∀ p off v, (p < 64 → off = 0x40008 → p = 0 ∨ (s.part p).valid = true →
        ∃ t, exec (.registerWrite p off v) s = .next t ∧ t = { s with rings := t.rings } ∧
          ∀ q, t.ring q = if q = p then { s.ring p with read := v.toNat } else s.ring q) ∧
      (64 ≤ p ∨ off ≠ 0x40008 ∨ (p ≠ 0 ∧ (s.part p).valid = false) → exec (.registerWrite p off v) s = .next s)) ∧
    (∀ b l, (b + l ≤ 2048 → s.setHdm b l = { s with platform := { s.platform with hdm := (b, l) } }) ∧ (2048 < b + l → s.setHdm b l = s)) ∧
    (∀ p, s.windowRead p = 256 - s.intake p) ∧
    (∀ a bs, let n := bs.length
      let home := s.platform.hdm.1 * 2 ^ 28 + a
      let size := s.platform.hdm.2 * 2 ^ 28
      let there := a / 4096 = 0 ∨ (s.part (a / 4096)).valid = true
      let jobs := ((s.leases.filter (fun e => overlaps e.2.ranges home n)).map (fun e => (e.2.part, e.2.job))).eraseDups
      let withheld := ∃ q ∈ jobs, ∃ c ∈ s.captures, c.part = q.1 ∧ c.job = q.2 ∧ c.replay = true
      (n = 0 → exec (.hostCxlMemWrite a bs) s = .next s) ∧
      (n ≠ 0 → size < a + n → exec (.hostCxlMemWrite a bs) s = .fault .noStorage) ∧
      (n ≠ 0 → a + n ≤ size → a < 2 ^ 18 →
        (¬ there → exec (.hostCxlMemWrite a bs) s = .next s) ∧
        (there → a % 64 = 0 → n = 64 → exec (.hostCxlMemWrite a bs) s = exec (.graphPost (a / 4096) (a % 4096 / 64) bs) s) ∧
        (there → a % 64 ≠ 0 ∨ n ≠ 64 → ∃ t, exec (.hostCxlMemWrite a bs) s = .next t ∧ Claim.Noted s t (a / 4096) Cause.postRefused.code 0)) ∧
      (n ≠ 0 → a + n ≤ size → 2 ^ 18 ≤ a → withheld → exec (.hostCxlMemWrite a bs) s = .next s) ∧
      (n ≠ 0 → a + n ≤ size → 2 ^ 18 ≤ a → ¬ withheld → ∃ u t, exec (.hostCxlMemWrite a bs) s = .next t ∧
        Claim.Chain (fun i v w => ∀ q, jobs[i]? = some q → w = v.captureHost q.1 q.2 1 home bs) (List.range jobs.length) s u ∧
        Claim.Written u t home bs []))

namespace Sys2Proof

namespace Claim

/-- The wait of a core's X is counted on the lease of the object at `k`, and on no other (R358). -/
def countingX (s : State) (core k : Nat) : State :=
  let pj := s.jobOf core
  let u := match (s.core core).ctl.countedX with
    | some old => s.waiter pj.1 pj.2 old false
    | none => s
  { s.setCore core { s.core core with ctl := { (s.core core).ctl with countedX := some k } } with leases := (u.waiter pj.1 pj.2 k true).leases }

end Claim

/-- R206, R358: `XWAIT` holds X's issue until its object is at least v, and looks at once; the wait ends 4 ac after, or with a cancel, joins the publications that the increments follow, and X goes on from the next word. -/
def Claim.sayCopyWaits : Prop :=
  (∀ (o : BitVec 5) (v : BitVec 18) (s : State), Claim.ReadyX s →
    (∀ k, Claim.ObjectAt s o.toNat k → ∃ t, exec (.xwait o v) s = .next t ∧
      Claim.Parked (Claim.countingX s s.cur.core k) t .xwait (.xwait o v) k v.toNat []
        (if v.toNat ≤ s.homeNat k 8 then [⟨.ac (dieOf s.cur.core), Claim.now s + 4, some s.cur.core, .xwaitEnd s.cur.core⟩] else [])) ∧
    ((∀ k, ¬ Claim.ObjectAt s o.toNat k) → ∃ t c, exec (.xwait o v) s = .next t ∧ Claim.Trapped s t .x c ∧ (c = .objEmpty ∨ c = .objLease))) ∧
  (∀ (core : Nat) (s : State) (cur : Cursor) (i : Instr), (s.core core).x.wait.kind = .xwait → (s.core core).x.wait.held = some (cur, i) → cur.core = core →
    let w := (s.core core).x.wait
    let may := (s.core core).paused = false ∧ (w.cancelled = true ∨ w.goal ≤ s.homeNat w.obj 8)
    (may → ∃ u k, exec (.xwaitEnd core) s = .next (Claim.with_ u k) ∧ u = { s with cur := cur, leases := u.leases } ∧
      u.leases = (s.waiter (s.jobOf core).1 (s.jobOf core).2 w.obj false).leases ∧
      (let c := s.core core
       Claim.XPassed u { c with
         ctl := { c.ctl with countedX := none }
         seat := { c.seat with joined := if w.cancelled = true then c.seat.joined.eraseDups else (c.seat.joined ++ spGet [] s.joins w.obj).eraseDups } } k 1 true)) ∧
    (¬ may → exec (.xwaitEnd core) s = .next s)) ∧
  -- R206: an `XDRAIN` goes on once no command is left
  (∀ (core : Nat) (s : State) (cur : Cursor) (i : Instr), (s.core core).x.wait.kind = .xdrain → (s.core core).x.wait.held = some (cur, i) → cur.core = core → (s.core core).seat.cancelling = false → (s.core core).health.recovering = none →
    let ended := (s.core core).xcmds = [] ∧ (s.core core).paused = false
    (ended → ∃ k, exec (.instructionRetire core .x 0) s = .next (Claim.with_ { s with cur := cur } k) ∧ Claim.XPassed { s with cur := cur } (s.core core) k 0 true) ∧
    (¬ ended → exec (.instructionRetire core .x 0) s = .next s))

end Sys2Proof

/-- R194 to R205: what happens to accepted commands of X, and its waits. -/
def Obligations.CopyEvents : Prop :=
  Claim.sayCopyEvents ∧
  Claim.sayCopyWaits

namespace Sys2Proof

namespace Claim

/-! ## Encoding and issue (R57 to R65, R73, R164) -/

/-- The WAIT and SIGNAL bytes that a word of `i` on engine `e` may carry (R58, R59, R62, R65), and whether it may stand in an update program (R164, R285) or only there (R70). -/
structure FrameFits (keeper : Bool) (e : Engine) (f : Frame) (i : Instr) : Prop where
  wait : ∀ p n, f.wait = some (p, n) → p ≠ e ∧ 1 ≤ n ∧ n ≤ 16
  signal : f.signal.toNat.testBit e.num = false
  bare : (keeper = true ∨ (∃ x, i = .immx x) ∨ ∃ n c0 c1 c2, i = .packed n c0 c1 c2) → f = ⟨none, 0⟩
  unpacked : keeper = true → ∀ n c0 c1 c2, i ≠ .packed n c0 c1 c2
  only : keeper = false → (∀ t n, i ≠ .klds t n) ∧ (∀ t n, i ≠ .ksts t n) ∧ (∀ t n m, i ≠ .kemit t n m) ∧ i ≠ .kstep

/-- Engine `e` has an instruction `i`: the opcode is one of its table's, or the word is packed, as any engine's may be. -/
def on (e : Engine) (i : Instr) : Prop :=
  match i with
  | .packed _ _ _ _ => True
  | _ => ∃ op, opOf i = some (e, op)

/-- A stream that may try its word (R60, R81, R124, R190): it runs, its time has come, its core neither recovers nor stops, C has no load under way, and X none that is issuing. -/
structure Awake (s : State) (core : Nat) (e : Engine) : Prop where
  runs : ((s.core core).stream e).run = .running
  due : ((s.core core).stream e).nextAc ≤ s.acOf core
  thawed : (s.core core).health.frozenUntil ≤ s.acOf core ∧ (s.core core).health.recovering = none
  going : (s.core core).seat.stopping = false ∧ (s.core core).seat.unit ≠ none
  inside : e ≠ .c → ((s.core core).stream e).pc ≠ ((s.core core).stream e).stop
  free : ((s.core core).stream e).wait.held = none
  copies : e = .x → (s.core core).copy.issuing = none
  loads : e = .c → ∀ l ∈ (s.core core).ctl.loads, l.1 ≠ .c
  sweep : e = .v → (s.core core).sweep = none

/-- The word at the stream's PC is there to be read (R41, R74, R113, R369): inside the image region, under a lease, and not poisoned; it is the little-endian number of its eight bytes (R57). -/
structure Word (s : State) (core : Nat) (e : Engine) (w : W64) : Prop where
  region : 8 ≤ ((s.core core).stream e).pc.toNat ∧ ((s.core core).stream e).pc.toNat < 8 * s.imgLen core
  lease : checkCovering s (s.jobOf core).1 (s.jobOf core).2 (keySpm core (s.imgBase core + 8 * ((s.core core).stream e).pc.toNat)) 8 = none
  clean : s.poisoned (keySpm core (s.imgBase core + 8 * ((s.core core).stream e).pc.toNat)) 8 = false
  value : w.toNat = ofBytes (memBytes s.mem (keySpm core (s.imgBase core + 8 * ((s.core core).stream e).pc.toNat)) 8)

/-- The next step is an issue turn of a stream. -/
def turnsTo (s u : State) (core : Nat) (e : Engine) : Prop :=
  s.agenda = [] ∧ s.script = .issue core e :: u.script ∧ u = { s with script := u.script }

end Claim

end Sys2Proof

/-- R57 to R73 and the entries' encodings: the word that `encode` writes for a well-formed instruction in a frame that fits its engine decodes to that instruction and frame, with every operand at every value that the encoding admits. -/
def Obligations.EncodeDecode : Prop :=
  ∀ (keeper : Bool) (e : Engine) (f : Frame) (i : Instr), i.wf = true → Claim.on e i → (keeper = true → e = .v) → Claim.FrameFits keeper e f i →
    decodeWord keeper e (encode f i) = .ok f i

/-- R57 to R73: what decodes is well formed, belongs to its engine, carries a frame that fits, and is encoded by no other word. -/
def Obligations.DecodedWellFormed : Prop :=
  ∀ (keeper : Bool) (e : Engine) (w : W64) (f : Frame) (i : Instr), (keeper = true → e = .v) → decodeWord keeper e w = .ok f i →
    i.wf = true ∧ Claim.on e i ∧ Claim.FrameFits keeper e f i ∧ encode f i = w

/-- Words of the manual's own examples decode to what they stand for (R58 to R63, R71, R84 to R103, R125 to R165, R171 to R188, R190 to R211). -/
def Obligations.DecodeWords : Prop :=
  decodeWord false .c 0x0000011844000000#64 = .ok ⟨none, 0⟩ (.add 3 1 2) ∧
  decodeWord false .c 0x0000302229800000#64 = .ok ⟨none, 0⟩ (.cmp 2 2 5 6) ∧
  decodeWord false .c 0x0000370600000005#64 = .ok ⟨none, 0⟩ (.loop 0 3 5) ∧
  decodeWord false .v 0x0000580C20080000#64 = .ok ⟨none, 0⟩ (.vmov 0 6 1 2) ∧
  decodeWord false .v 0x0000504000640007#64 = .ok ⟨none, 0⟩ (.vloop 1 100 7) ∧
  decodeWord false .m 0xB000060000000000#64 = .ok ⟨some (.x, 1), 0⟩ (.mgo 0) ∧
  decodeWord false .m 0x0082081180000000#64 = .ok ⟨none, 2⟩ (.mdrain 1 6 0 0 0 0 0) ∧
  decodeWord false .x 0x0000011441020000#64 = .ok ⟨none, 0⟩ (.xcopy 5 4 2 0 0 1)

/-- A step runs what stands at the PC: where the next turn is an issue turn of a stream that may issue, its word is there to be read and decodes, and C waits for no result, the step is `exec` of the decoded instruction, under a cursor that holds the word. Of a packed word's codes, it is `exec` of the entry with its bias added; in an update unit, of the program's word. -/
def Obligations.StepRunsDecoded : Prop :=
  (∀ (s u : State) (core : Nat) (e : Engine) (w : W64) (f : Frame) (i : Instr), Claim.turnsTo s u core e → Claim.Awake s core e → Claim.Word s core e w →
    decodeWord false e w = .ok f i →
    let st := (s.core core).stream e
    (st.packed = false → (e = .c → (s.core core).readable (sReads i) (s.acOf core) = true) →
      step s = exec i { u with cur := ⟨core, e, none, st.pc.toNat, 0, false, true, f, w, none⟩ }) ∧
    (∀ cnt c0 c1 c2 g j, i = .packed cnt c0 c1 c2 → st.packed = true → st.codePos ≤ cnt.toNat →
      let code := if st.codePos = 0 then c0 else if st.codePos = 1 then c1 else c2
      let entry := spGet 0 (s.core core).dict (e.num * 1024 + code.toNat / 64)
      (e.num * 1024 + code.toNat / 64) / 8 ∉ (s.core core).hot → decodeCode e entry (code.toNat % 64) = .ok (g, j) → (e = .c → (s.core core).readable (sReads j) (s.acOf core) = true) →
      step s = exec j { u with cur := ⟨core, e, none, st.pc.toNat, st.codePos, true, decide (cnt.toNat ≤ st.codePos), g, biased e entry (code.toNat % 64), none⟩ })) ∧
  (∀ (s u : State) (n : Nat) (a : App) (w : W64) (f : Frame) (i : Instr), s.agenda = [] → s.script = .issueKeeper n :: u.script → u = { s with script := u.script } →
    s.keeper.apps.find? (fun a => a.unit == n) = some a → a.aborted = false → a.prog[a.pc]? = some w → decodeWord true .v w = .ok f i →
    step s = exec i { u with cur := ⟨0, .v, some n, a.pc, 0, false, true, f, w, none⟩ })

namespace Sys2Proof

/-- R61, R83: a word that decodes to nothing pops no token and changes no register; its stream freezes with its PC at the word, with cause ILLOP. In C the record goes to the supervisor unit; in V, M and X it goes to C's handler. -/
def Claim.sayIllegalWords : Prop :=
  ∀ (s u : State) (core : Nat) (e : Engine) (w : W64), Claim.turnsTo s u core e → Claim.Awake s core e → Claim.Word s core e w →
    decodeWord false e w = .illop →
    let v := { u with cur := ⟨core, e, none, ((s.core core).stream e).pc.toNat, ((s.core core).stream e).codePos, ((s.core core).stream e).packed, true, ⟨none, 0⟩, 0, none⟩ }
    ∃ t, step s = .next t ∧ (e = .c → Claim.StoppedC v t .illop) ∧ (e ≠ .c → Claim.Trapped v t e .illop)

/-- R41, R74: a word outside the image region, or in its first granule, freezes its stream with FETCH_BOUNDS. -/
def Claim.sayFetchBounds : Prop :=
  ∀ (s u : State) (core : Nat) (e : Engine), Claim.turnsTo s u core e → Claim.Awake s core e →
    (let p := ((s.core core).stream e).pc.toNat; p < 8 ∨ 8 * s.imgLen core ≤ p) →
    let v := { u with cur := ⟨core, e, none, ((s.core core).stream e).pc.toNat, ((s.core core).stream e).codePos, ((s.core core).stream e).packed, true, ⟨none, 0⟩, 0, none⟩ }
    ∃ t, step s = .next t ∧ (e = .c → Claim.StoppedC v t .fetchBounds) ∧ (e ≠ .c → Claim.Trapped v t e .fetchBounds)

/-- R81: C never reads an old value: a word that reads a register whose result is still to come is held at issue, and nothing else changes. -/
def Claim.sayScoreboardHolds : Prop :=
  ∀ (s u : State) (core : Nat) (w : W64) (f : Frame) (i : Instr) (n : Nat), Claim.turnsTo s u core .c → Claim.Awake s core .c → Claim.Word s core .c w →
    decodeWord false .c w = .ok f i → (s.core core).c.packed = false → n ∈ sReads i → n ≠ 0 →
    s.acOf core < (spGet (0, 0) (s.core core).regs.due n).1 →
    ∃ t, step s = .next t ∧ t = { s with script := t.script, cur := t.cur, cores := t.cores } ∧ (∀ m, m ≠ core → t.core m = s.core m) ∧
      t.core core = { s.core core with c := { (s.core core).c with wait := (t.core core).c.wait } } ∧ (t.core core).c.wait.kind = .scoreboard ∧
      (t.core core).c.wait.held = none

end Sys2Proof

/-- R61, R41, R74, R81: words that fault before they issue, and words that wait for a result. -/
def Obligations.IssueStops : Prop :=
  Claim.sayIllegalWords ∧
  Claim.sayFetchBounds ∧
  Claim.sayScoreboardHolds

/-- R383, R17, R32, R330, R351: after a package reset TICK is 0, every quad is unassigned, no partition and no job is valid, every byte of storage reads 0 with poison clear, no core holds a unit, its registers read 0, and a partition entry holds the default slice and rates. -/
def Obligations.ResetValues : Prop :=
  State.reset.tick = 0 ∧ (∀ q, State.reset.partOfCore q = none) ∧
  (∀ p, (State.reset.part p).valid = false ∧ (State.reset.part p).slice = 2000 ∧ (State.reset.part p).rates = [32 * 65536, 6 * 65536, 65536, 4096, 1024]) ∧
  (∀ p j, (State.reset.job p j).valid = false) ∧ (∀ k n, memByte State.reset.mem k = 0 ∧ State.reset.poisoned k n = false) ∧
  ∀ n, (State.reset.core n).seat.unit = none ∧ (∀ m, (State.reset.core n).S m = 0 ∧ (State.reset.core n).G m = 0 ∧ (State.reset.core n).H m = 0 ∧
    (State.reset.core n).T m = 0 ∧ (State.reset.core n).I m = 0) ∧ ∀ p q, (State.reset.core n).dowelN p q = 0

/-- Reset memory is in its canonical form. -/
def Obligations.ResetMemory : Prop := State.reset.memOk

/-- Every step keeps memory in its canonical form: addresses rise, and no entry holds what an unlisted byte reads as. -/
def Obligations.MemoryCanonical : Prop := ∀ s t : State, s.memOk → step s = .next t → t.memOk

/-- Nothing ends a run but a write of the world outside where there is no storage (R340): every step of any state answers a next state, unless its turn is that write. -/
def Obligations.EveryStepGoesOn : Prop :=
  ∀ s : State, (∃ t, step s = .next t) ∨
    (step s = .fault .noStorage ∧ ∃ i m a, (i = .hostCxlMemWrite m a) ∧
      ((∃ r, s.agenda = .occur i :: r) ∨ (s.agenda = [] ∧ ∃ r, s.script = .occur i :: r) ∨ (s.agenda = [] ∧ s.script = [] ∧ Config.turn s.fresh = .occur i)))

/-- R122: `HQRY` writes bits [127:64] or bits [63:0] of a handle, whatever the handle's state, at latency 2; of a PENDING handle the high half shows STATE 1. -/
def Obligations.HandleQueries : Prop :=
  ∀ (d h : BitVec 5) (s : State), Claim.ReadyC s →
    (let hd := ((Claim.here s).H h.toNat).toNat
     let reads (lo : BitVec 1) (v : W64) : Prop := ∃ c t, exec (.hqry d h lo) s = .next t ∧
       Claim.WritesS (Claim.here s) c d.toNat v (Claim.now s) 2 ∧ Claim.Issued (Claim.with_ s c) t 1 2 none []
     reads 0 (BitVec.ofNat 64 (hd / 2 ^ 64)) ∧ reads 1 (BitVec.ofNat 64 (hd % 2 ^ 64)) ∧
     (bits ((Claim.here s).H h.toNat) 126 2 = 1 → bits (BitVec.ofNat 64 (hd / 2 ^ 64)) 62 2 = 1))

/-- R175: `MDEST` sets the base tile, `MFMT` the accumulator format and FIRST, of the shadow table, and they retire at issue. -/
def Obligations.NestDestination : Prop :=
  ∀ (x : BitVec 4) (first i32 : BitVec 1) (s : State), Claim.ReadyM s 0 →
    Claim.Shadows (.mdest x) s 0 (fun m => { m with tb := x }) ∧
    Claim.Shadows (.mfmt first i32) s 0 (fun m => { m with acc := i32 == 1, first := first == 1 })

namespace Sys2Proof

namespace Claim

/-! ## Numbers (R217 to R230) -/

/-- A finite number as a multiple of `2^g`, where it is one with no rounding. -/
def scaled (v : Machine.Num) (g : Int) : Option Int :=
  match v with
  | .fin s m e => if m = 0 then some 0 else if g ≤ e then some ((if s then -1 else 1) * (m * 2 ^ (e - g).toNat : Nat)) else none
  | _ => none

/-- The floating formats of R215. -/
def formats : List FFmt := [fmtFP32, fmtBF16, fmtFP16, fmtE4M3, fmtE5M2, fmtE3M2, fmtE2M3, fmtE2M1, fmtF19]

/-- The codes of a format: the bits of its container that it uses. -/
def codes (f : FFmt) (c : Nat) : Prop := c < 2 ^ (1 + f.ebits + f.fbits + f.low) ∧ c % 2 ^ f.low = 0

/-- Neighbour `k` of `m · 2^-s` on the grid of whole numbers that a mode picks (R219); `exact`: it is the value itself. -/
structure Picks (neg : Bool) (m s : Nat) (mode : Mode) (draw k : Nat) (exact : Bool) : Prop where
  near : m < (k + 1) * 2 ^ s ∧ k * 2 ^ s < m + 2 ^ s
  whole : exact = true ↔ k * 2 ^ s = m
  rne : mode = .rne → 2 * m ≤ (2 * k + 1) * 2 ^ s ∧ 2 * k * 2 ^ s ≤ 2 * m + 2 ^ s ∧
    ((2 * m = (2 * k + 1) * 2 ^ s ∨ 2 * k * 2 ^ s = 2 * m + 2 ^ s) → k % 2 = 0)
  rtz : mode = .rtz → k * 2 ^ s ≤ m
  rup : mode = .rup → if neg then k * 2 ^ s ≤ m else m ≤ k * 2 ^ s
  rdn : mode = .rdn → if neg then m ≤ k * 2 ^ s else k * 2 ^ s ≤ m
  sr : mode = .sr → k * 2 ^ s ≠ m → (m < k * 2 ^ s ↔ draw < m % 2 ^ s * 2 ^ 32 / 2 ^ s)

/-- The rows of R221: code of Inf where the format writes one, code of the largest finite value, and whether overflow and NONSAT are as in FP32's row. -/
def overflowRow (f : FFmt) : Option Nat × Nat :=
  if f = fmtFP32 then (some 0x7F800000, 0x7F7FFFFF) else if f = fmtF19 then (some 0x7F800000, 0x7F7FE000)
  else if f = fmtBF16 then (some 0x7F80, 0x7F7F) else if f = fmtFP16 then (some 0x7C00, 0x7BFF)
  else if f = fmtE5M2 then (some 0x7C, 0x7B) else if f = fmtE4M3 then (none, 0x7E)
  else if f = fmtE2M1 then (none, 0x7) else (none, 0x1F)

/-- The code, but for its sign, that a magnitude above the largest finite value takes (R221). -/
def overflows (f : FFmt) (mode : Mode) (nonsat neg : Bool) : Nat :=
  let (inf, big) := overflowRow f
  if f = fmtE4M3 ∧ nonsat = true then 0x7F
  else match inf with
    | none => big
    | some i =>
      if f = fmtE5M2 ∧ nonsat = false then big
      else match mode with
        | .rne => i
        | .sr => i
        | .rtz => big
        | .rup => if neg then big else i
        | .rdn => if neg then i else big

/-- `Sign(p) · Floor(|p| / 2^u)` (R227). -/
def cutTo (v : Machine.Num) (u : Int) : Int :=
  match v with
  | .fin s m e => (if s then -1 else 1) * ((if u ≤ e then m * 2 ^ (e - u).toNat else m / 2 ^ (u - e).toNat : Nat) : Int)
  | _ => 0

/-- The truncation at `2^u` changes the value. -/
def loses (v : Machine.Num) (u : Int) : Prop :=
  match v with
  | .fin _ m e => e < u ∧ m % 2 ^ (u - e).toNat ≠ 0
  | _ => False

end Claim

/-- R227, R230, R226: a sum is exact, and an exact zero of unlike values is −0 under RDN and +0 otherwise. A quotient and a root are held so that no multiple of the last held place but one lies between the held value and the exact one, with at least 95 bits, so that one rounding of the held value is the rounding of the exact one. -/
def Claim.sayExactArithmetic : Prop :=
  (∀ (rdn s t : Bool) (m n : Nat) (e g : Int),
    (∃ x y z, Claim.scaled (.fin s m e) (min e g) = some x ∧ Claim.scaled (.fin t n g) (min e g) = some y ∧
      Claim.scaled (nAdd rdn (.fin s m e) (.fin t n g)).1 (min e g) = some z ∧ z = x + y ∧
      (z = 0 → (nAdd rdn (.fin s m e) (.fin t n g)).1.isNeg = if m = 0 ∧ s = t then s else rdn)) ∧
    (nAdd rdn (.fin s m e) (.fin t n g)).2 = 0) ∧
  (∀ (s t : Bool) (m n : Nat) (e g : Int), 0 < m → 0 < n →
    ∃ (q sh : Nat) (k : Int), nDiv (.fin s m e) (.fin t n g) = (.fin (s != t) q k, 0) ∧ k = e - g - sh - 1 ∧ 2 ^ 96 ≤ q ∧
      ∀ c : Nat, (2 * c ≤ q ↔ c * n ≤ m * 2 ^ sh) ∧ (q ≤ 2 * c ↔ m * 2 ^ sh ≤ c * n)) ∧
  (∀ (m : Nat) (e : Int), 0 < m →
    ∃ (q sh : Nat) (k : Int), nSqrt (.fin false m e) = (.fin false q k, 0) ∧ 2 * k + 2 = e - sh ∧ 2 ^ 96 ≤ q ∧
      ∀ c : Nat, (2 * c ≤ q ↔ c * c ≤ m * 2 ^ sh) ∧ (q ≤ 2 * c ↔ m * 2 ^ sh ≤ c * c))

/-- R217, R219, R221, R222: a finite value is rounded once, to a neighbour on the grid of its own binade (or of the smallest normal's) that the mode picks; the code written decodes to that neighbour; inexact is set where it differs, underflow where it is nonzero and below the smallest normal as well. A neighbour above the largest finite value is written as the row of R221 says, with overflow and inexact. Every code of a finite value is written back as it was read, with no flag. -/
def Claim.sayRoundedOnce : Prop :=
  (∀ (f : FFmt) (mode : Mode) (nonsat neg : Bool) (draw m : Nat) (e : Int), f ∈ Claim.formats → 0 < m →
    let q := max ((m.log2 : Int) + e) (1 - f.bias) - f.fbits
    ∃ (k : Nat) (ex : Bool),
      (if q ≤ e then k = m * 2 ^ (e - q).toNat ∧ ex = true else Claim.Picks neg m (q - e).toNat mode draw k ex) ∧
      (let (c, fl) := encodeF f mode nonsat draw (.fin neg m e)
       let beyond : Prop := if f.maxE ≤ q then f.maxM < k * 2 ^ (q - f.maxE).toNat else f.maxM * 2 ^ (f.maxE - q).toNat < k
       (beyond → fl = flOverflow ||| flInexact ∧
         c = Claim.overflows f mode nonsat neg + if neg ∧ ¬(f = fmtE4M3 ∧ nonsat = true) then 2 ^ (f.ebits + f.fbits + f.low) else 0) ∧
       (¬beyond → Claim.codes f c ∧ Claim.scaled (decodeF f c) q = some ((if neg then -1 else 1) * (k : Int)) ∧ (decodeF f c).isNeg = neg ∧
         fl = (if ex then 0 else flInexact) ||| (if ex = false ∧ 0 < k ∧ k < 2 ^ f.fbits then flUnderflow else 0)))) ∧
  (∀ (f : FFmt) (mode : Mode) (nonsat s : Bool) (draw c m : Nat) (e : Int), f ∈ Claim.formats → Claim.codes f c → decodeF f c = .fin s m e →
    encodeF f mode nonsat draw (.fin s m e) = (c, 0))

/-- R227: the value of a K-group. With finite products, not all zero, every product is cut at 60 places below the leading one's, the cut values are summed exactly, and the sum is rounded once to FP32; inexact is set where a cut or the rounding changes a value. An infinity, two infinities of unlike sign and NaN follow the rule; products that are all zero give −0 only if all are −0. The order of the pairs does not matter. -/
def Claim.sayKGroups : Prop :=
  ∀ ps : List (Machine.Num × Machine.Num),
    let as := ps.map (·.1)
    let bs := ps.map (·.2)
    let vs := ps.map (fun p => (nMul p.1 p.2).1)
    (∀ qs : List (Machine.Num × Machine.Num), qs.Perm ps → kGroupSum (qs.map (·.1)) (qs.map (·.2)) = kGroupSum as bs) ∧
    ((∃ v ∈ vs, v.isNan = true) → (kGroupSum as bs).1.isNan = true) ∧
    ((∀ v ∈ vs, v.isNan = false) → .inf false ∈ vs → .inf true ∈ vs → (kGroupSum as bs).1.isNan = true ∧ (kGroupSum as bs).2 = flInvalid) ∧
    (∀ s, (∀ v ∈ vs, v.isNan = false) → .inf s ∈ vs → .inf (!s) ∉ vs → kGroupSum as bs = (.inf s, 0)) ∧
    ((∀ v ∈ vs, ∃ s e, v = .fin s 0 e) → kGroupSum as bs = (.fin (vs.all Machine.Num.isNeg) 0 0, 0)) ∧
    (∀ top : Int, (∃ s m e, .fin s m e ∈ vs ∧ 0 < m ∧ (m.log2 : Int) + e = top) →
      (∀ v ∈ vs, ∃ s m e, v = .fin s m e ∧ (m = 0 ∨ (m.log2 : Int) + e ≤ top)) →
      let z := (vs.map (fun v => Claim.cutTo v (top - 60))).sum
      let r := roundRne (.fin (decide (z < 0)) z.natAbs (top - 60))
      (z = 0 → (kGroupSum as bs).1 = .fin false 0 0) ∧ (z ≠ 0 → (kGroupSum as bs).1 = decodeF fmtFP32 r.1) ∧
      ∀ b, b < 5 → ((kGroupSum as bs).2.getLsbD b = true ↔
        (z ≠ 0 ∧ r.2.getLsbD b = true) ∨ (b = 3 ∧ ∃ v ∈ vs, Claim.loses v (top - 60))))

end Sys2Proof

/-- R217, R219, R221, R222, R226, R227, R230: exact sums, one rounding, and the value of a K-group. -/
def Obligations.Arithmetic : Prop :=
  Claim.sayExactArithmetic ∧
  Claim.sayRoundedOnce ∧
  Claim.sayKGroups

namespace Sys2Proof

end Sys2Proof
end

