-- ==== Sys2Proof/Laws/Memory.lean ====
section
/-! SUPPORT. Sparse files and memory: reads after writes, and the canonical form. -/

namespace Sys2Proof.Machine

/-! ## Sparse files -/

@[simp] theorem spGet_spSet_same {α : Type} (d : α) (m : Sparse α) (i : Nat) (v : α) : spGet d (spSet m i v) i = v := by
  induction m with
  | nil => simp [spSet, spGet]
  | cons p m ih =>
    obtain ⟨k, w⟩ := p
    unfold spSet
    split
    · simp [spGet]
    · split
      · simp [spGet]
      · rename_i h
        simp [spGet, h, ih]

theorem spGet_spSet_ne {α : Type} (d : α) (m : Sparse α) (i j : Nat) (v : α) (h : j ≠ i) :
    spGet d (spSet m i v) j = spGet d m j := by
  induction m with
  | nil => simp [spSet, spGet, h]
  | cons p m ih =>
    obtain ⟨k, w⟩ := p
    unfold spSet
    split
    · simp [spGet, h]
    · split
      · rename_i hk
        subst hk
        simp [spGet, h]
      · simp [spGet, ih]

/-- A filter on addresses hides the bytes outside it. -/
theorem spGet_filter {α : Type} (d : α) (m : Sparse α) (p : Nat → Bool) (i : Nat) :
    spGet d (m.filter (fun e => p e.1)) i = if p i then spGet d m i else d := by
  induction m with
  | nil => simp [spGet]
  | cons e m ih =>
    obtain ⟨k, v⟩ := e
    by_cases hk : i = k
    · subst hk
      by_cases hp : p i = true
      · simp [hp, spGet]
      · simp [hp, ih]
    · by_cases hp : p k = true
      · simp [hp, spGet, hk, ih]
      · simp [hp, spGet, hk, ih]

@[simp] theorem spGet_spPut_same {α : Type} [DecidableEq α] (d : α) (m : Sparse α) (i : Nat) (v : α) : spGet d (spPut d m i v) i = v := by
  unfold spPut
  split
  · rename_i h
    simp only [spDel, spGet_filter d m (fun k => k != i) i]
    simp [h]
  · simp

theorem spGet_spPut_ne {α : Type} [DecidableEq α] (d : α) (m : Sparse α) (i j : Nat) (v : α) (h : j ≠ i) :
    spGet d (spPut d m i v) j = spGet d m j := by
  unfold spPut
  split
  · simp only [spDel, spGet_filter d m (fun k => k != i) j]
    simp [h]
  · exact spGet_spSet_ne d m i j v h

/-- The last write of an entry stands. -/
theorem spSet_spSet {α : Type} (m : Sparse α) (i : Nat) (v w : α) : spSet (spSet m i v) i w = spSet m i w := by
  induction m with
  | nil => simp [spSet]
  | cons p m ih =>
    obtain ⟨k, x⟩ := p
    by_cases h : i < k
    · simp [spSet, h]
    · by_cases h2 : i = k
      · subst h2
        simp [spSet]
      · simp [spSet, h, h2, ih]

theorem State.setCore_setCore (s : State) (n : Nat) (c d : Core) : (s.setCore n c).setCore n d = s.setCore n d := by
  unfold State.setCore
  simp only [spSet_spSet]

/-- A core that has been replaced reads as the new one. -/
@[simp] theorem State.core_setCore (s : State) (n : Nat) (c : Core) : (s.setCore n c).core n = c := by
  simp [State.core, State.setCore]

/-- Any other core reads as before. -/
theorem State.core_setCore_ne (s : State) (n j : Nat) (c : Core) (h : j ≠ n) : (s.setCore n c).core j = s.core j := by
  simp [State.core, State.setCore, spGet_spSet_ne _ _ _ _ _ h]

@[simp] theorem State.core_modCore (s : State) (n : Nat) (f : Core → Core) : (s.modCore n f).core n = f (s.core n) := by
  simp [State.modCore]

theorem State.core_modCore_ne (s : State) (n j : Nat) (f : Core → Core) (h : j ≠ n) : (s.modCore n f).core j = s.core j := by
  simp [State.modCore, State.core_setCore_ne _ _ _ _ h]

/-! ## Memory: reads after writes -/

/-- What is not listed on the left is read on the right. -/
theorem spGet_append {α : Type} (d : α) (l r : Sparse α) (i : Nat) (h : ∀ e ∈ l, e.1 ≠ i) :
    spGet d (l ++ r) i = spGet d r i := by
  induction l with
  | nil => rfl
  | cons e l ih =>
    have := h e (by simp)
    simp only [List.cons_append, spGet]
    rw [if_neg (fun hh => this hh.symm)]
    exact ih (fun q hq => h q (by simp [hq]))

/-- What is not listed on the right is read on the left. -/
theorem spGet_append_left {α : Type} (d : α) (l r : Sparse α) (i : Nat) (h : ∀ e ∈ r, e.1 ≠ i) :
    spGet d (l ++ r) i = spGet d l i := by
  induction l with
  | nil =>
    simp only [List.nil_append, spGet]
    induction r with
    | nil => rfl
    | cons e r ih =>
      have := h e (by simp)
      simp only [spGet]
      rw [if_neg (fun hh => this hh.symm)]
      exact ih (fun q hq => h q (by simp [hq]))
  | cons e l ih => simp [spGet, ih]

theorem memEntries_key (k : Nat) (bs : List Byte) : ∀ e ∈ memEntries k bs, k ≤ e.1 ∧ e.1 < k + bs.length := by
  induction bs generalizing k with
  | nil => simp [memEntries]
  | cons b bs ih =>
    intro e he
    unfold memEntries at he
    split at he
    · have := ih (k + 1) e he
      simp; omega
    · rcases List.mem_cons.mp he with rfl | he
      · simp
      · have := ih (k + 1) e he
        simp; omega

/-- The entries of a list of bytes read as those bytes. -/
theorem memEntries_get (k : Nat) (bs : List Byte) (i : Nat) (h : i < bs.length) :
    spGet 0 (memEntries k bs) (k + i) = bs[i] := by
  induction bs generalizing k i with
  | nil => simp at h
  | cons b bs ih =>
    have low : ∀ e ∈ memEntries (k + 1) bs, e.1 ≠ k := fun e he => by
      have := memEntries_key (k + 1) bs e he
      omega
    unfold memEntries
    cases i with
    | zero =>
      split
      · rename_i hb
        have := spGet_append_left (0 : Byte) [] (memEntries (k + 1) bs) k low
        simpa [spGet, hb] using this
      · simp [spGet]
    | succ i =>
      have h' : i < bs.length := by simpa using h
      have e := ih (k + 1) i h'
      rw [show k + 1 + i = k + (i + 1) from by omega] at e
      split
      · simpa using e
      · simpa [spGet] using e

/-- A byte inside a write reads as written (R90). -/
theorem memByte_memWrite_in (m : Memory) (k : Nat) (bs : List Byte) (i : Nat) (h : i < bs.length) :
    memByte (memWrite m k bs) (k + i) = bs[i] := by
  have a : ∀ e ∈ m.filter (fun p => decide (p.1 < k)), e.1 ≠ k + i := fun e he => by
    have := (List.mem_filter.mp he).2
    simp at this; omega
  have b : ∀ e ∈ m.filter (fun p => decide (k + bs.length ≤ p.1)), e.1 ≠ k + i := fun e he => by
    have := (List.mem_filter.mp he).2
    simp at this; omega
  unfold memByte memWrite
  rw [List.append_assoc, spGet_append _ _ _ _ a, spGet_append_left _ _ _ _ b, memEntries_get k bs i h]

/-- A byte outside a write reads as before. -/
theorem memByte_memWrite_out (m : Memory) (k : Nat) (bs : List Byte) (a : Nat) (h : a < k ∨ k + bs.length ≤ a) :
    memByte (memWrite m k bs) a = memByte m a := by
  have mid : ∀ e ∈ memEntries k bs, e.1 ≠ a := fun e he => by
    have := memEntries_key k bs e he
    omega
  unfold memByte memWrite
  rcases h with h | h
  · have b : ∀ e ∈ m.filter (fun p => decide (k + bs.length ≤ p.1)), e.1 ≠ a := fun e he => by
      have := (List.mem_filter.mp he).2
      simp at this; omega
    rw [spGet_append_left _ _ _ _ b, spGet_append_left _ _ _ _ mid,
      spGet_filter 0 m (fun x => decide (x < k)) a]
    simp [h]
  · have b : ∀ e ∈ m.filter (fun p => decide (p.1 < k)), e.1 ≠ a := fun e he => by
      have := (List.mem_filter.mp he).2
      simp at this; omega
    rw [List.append_assoc, spGet_append _ _ _ _ b, spGet_append _ _ _ _ mid,
      spGet_filter 0 m (fun x => decide (k + bs.length ≤ x)) a]
    simp [h]

/-! ## Memory: the canonical form -/

/-- The canonical form, as a property of the list. -/
theorem wfFrom_iff (lo : Nat) (m : Memory) : Memory.wfFrom lo m = true ↔
    (∀ e ∈ m, lo ≤ e.1 ∧ e.2 ≠ 0) ∧ m.Pairwise (fun p q => p.1 < q.1) := by
  induction m generalizing lo with
  | nil => simp [Memory.wfFrom]
  | cons e m ih =>
    obtain ⟨k, v⟩ := e
    simp only [Memory.wfFrom, Bool.and_eq_true, decide_eq_true_eq, ih, List.mem_cons, List.pairwise_cons, bne_iff_ne, ne_eq]
    constructor
    · rintro ⟨⟨h1, h2⟩, h3, h4⟩
      refine ⟨?_, fun q hq => by have := (h3 q hq).1; omega, h4⟩
      rintro q (rfl | hq)
      · exact ⟨h1, h2⟩
      · exact ⟨by have := (h3 q hq).1; omega, (h3 q hq).2⟩
    · rintro ⟨h1, h2, h3⟩
      have := h1 (k, v) (.inl rfl)
      exact ⟨⟨this.1, this.2⟩, fun q hq => ⟨by have := h2 q hq; omega, (h1 q (.inr hq)).2⟩, h3⟩

theorem memEntries_pairwise (k : Nat) (bs : List Byte) : (memEntries k bs).Pairwise (fun p q => p.1 < q.1) := by
  induction bs generalizing k with
  | nil => simp [memEntries]
  | cons b bs ih =>
    unfold memEntries
    split
    · exact ih _
    · exact List.pairwise_cons.mpr ⟨fun q hq => by have := memEntries_key (k + 1) bs q hq; simp; omega, ih _⟩

theorem memEntries_ne_zero (k : Nat) (bs : List Byte) : ∀ e ∈ memEntries k bs, e.2 ≠ 0 := by
  induction bs generalizing k with
  | nil => simp [memEntries]
  | cons b bs ih =>
    intro e he
    unfold memEntries at he
    split at he
    · exact ih _ e he
    · rcases List.mem_cons.mp he with rfl | he
      · assumption
      · exact ih _ e he

/-- A filter keeps the canonical form. -/
theorem Memory.wf_filter (m : Memory) (p : Nat × Byte → Bool) (h : m.wf = true) : Memory.wf (m.filter p) = true := by
  unfold Memory.wf at *
  rw [wfFrom_iff] at *
  exact ⟨fun e he => h.1 e (List.mem_filter.mp he).1, h.2.filter _⟩

/-- A write keeps the canonical form. -/
theorem Memory.wf_memWrite (m : Memory) (k : Nat) (bs : List Byte) (h : m.wf = true) : Memory.wf (memWrite m k bs) = true := by
  unfold Memory.wf at *
  rw [wfFrom_iff] at *
  obtain ⟨h1, h2⟩ := h
  unfold memWrite
  constructor
  · intro e he
    simp only [List.mem_append, List.mem_filter] at he
    rcases he with (he | he) | he
    · exact h1 e he.1
    · exact ⟨by omega, memEntries_ne_zero k bs e he⟩
    · exact h1 e he.1
  · refine List.pairwise_append.mpr ⟨List.pairwise_append.mpr ⟨h2.filter _, memEntries_pairwise k bs, ?_⟩, h2.filter _, ?_⟩
    · intro a ha b hb
      have := memEntries_key k bs b hb
      have := (List.mem_filter.mp ha).2
      simp at this; omega
    · intro a ha b hb
      have hb := (List.mem_filter.mp hb).2
      simp at hb
      rcases List.mem_append.mp ha with ha | ha
      · have := (List.mem_filter.mp ha).2
        simp at this; omega
      · have := memEntries_key k bs a ha
        omega

/-! ## The same of the operations over the state -/

theorem State.wf_writeMem (s : State) (k : Nat) (bs : List Byte) (h : s.mem.wf = true) : (s.writeMem k bs).mem.wf = true :=
  Memory.wf_memWrite _ _ _ h

theorem State.wf_writeNat (s : State) (k n v : Nat) (h : s.mem.wf = true) : (s.writeNat k n v).mem.wf = true :=
  State.wf_writeMem _ _ _ h

theorem State.writeHome_mem (s : State) (k : Nat) (bs : List Byte) : (s.writeHome k bs).mem = memWrite s.mem k bs := rfl

theorem State.wf_writeHome (s : State) (k : Nat) (bs : List Byte) (h : s.mem.wf = true) : (s.writeHome k bs).mem.wf = true :=
  Memory.wf_memWrite _ _ _ h

theorem State.writeOwn_mem (s : State) (core k : Nat) (bs : List Byte) : (s.writeOwn core k bs).mem = memWrite s.mem k bs := by
  unfold State.writeOwn
  simp only
  split <;> rfl

theorem State.wf_writeOwn (s : State) (core k : Nat) (bs : List Byte) (h : s.mem.wf = true) : (s.writeOwn core k bs).mem.wf = true := by
  rw [State.writeOwn_mem]
  exact Memory.wf_memWrite _ _ _ h

theorem State.wf_writeOver (s : State) (cut : PlainStore → Bool) (k : Nat) (bs : List Byte) (h : s.mem.wf = true) :
    (s.writeOver cut k bs).mem.wf = true := Memory.wf_memWrite _ _ _ h

/-- Waking waits sets timers and nothing else. -/
theorem State.wake_rest (s : State) (k : Nat) : s.wake k = { s with timers := (s.wake k).timers } := by
  have key : ∀ (l : List (Nat × Core)) (f : State → Nat × Core → State), (∀ u e, f u e = { u with timers := (f u e).timers }) →
      ∀ u : State, l.foldl f u = { u with timers := (l.foldl f u).timers } := by
    intro l f hf
    induction l with
    | nil => intro u; rfl
    | cons e l ih =>
      intro u
      rw [List.foldl_cons, ih (f u e)]
      rw [hf u e]
  unfold State.wake
  refine key _ _ ?_ _
  intro u e
  simp only
  split <;> split <;> rfl

@[simp] theorem State.wake_mem (s : State) (k : Nat) : (s.wake k).mem = s.mem := by rw [State.wake_rest]

theorem State.wf_addObject (s : State) (k n : Nat) (join : List Nat) (h : s.mem.wf = true) : (s.addObject k n join).mem.wf = true := by
  unfold State.addObject
  rw [State.wake_mem]
  split <;> exact Memory.wf_memWrite _ _ _ h

/-- An effect of a retiring word writes memory in its canonical form. -/
theorem State.wf_perform (s : State) (core : Nat) (e : Effect) (h : s.mem.wf = true) : (s.perform core e).mem.wf = true := by
  cases e with
  | store k bs => exact State.wf_writeOwn _ _ _ _ h
  | atom k n op x cmp d id =>
    unfold State.perform
    simp only [State.modCore, State.setCore]
    split
    · exact State.wf_writeOwn _ _ _ _ h
    · split
      · exact State.wf_writeOwn _ _ _ _ h
      · exact h
  | object k n => exact State.wf_addObject _ _ _ _ h
  | acked code k n =>
    unfold State.perform
    simp only
    split
    · exact h
    · exact State.wf_addObject _ _ _ _ h
  | _ => exact h

end Sys2Proof.Machine
end

