-- ==== Sys2Proof/Laws/Regs.lean ====
section
/-! SUPPORT. Register files: what a read gives after a write (R17, R82). -/

namespace Sys2Proof.Machine

theorem Core.S_setS (c : Core) (n m : Nat) (v : W64) : (c.setS n v).S m = if m = n ∧ n ≠ 0 then v else c.S m := by
  unfold Core.setS Core.S
  by_cases hn : n = 0
  · subst hn
    by_cases hm : m = 0 <;> simp [hm]
  · by_cases hm : m = n
    · subst hm
      simp [hn]
    · simp [hn, hm, spGet_spPut_ne]

@[simp] theorem Core.S_awaitS (c : Core) (n a i m : Nat) : (c.awaitS n a i).S m = c.S m := by
  by_cases h : n = 0 <;> simp [Core.awaitS, Core.S, h]

@[simp] theorem Core.S_zero (c : Core) : c.S 0 = 0 := rfl

theorem Core.G_setG (c : Core) (n m : Nat) (v : W32) : (c.setG n v).G m = if m = n then v else c.G m := by
  unfold Core.setG Core.G
  by_cases h : m = n
  · subst h; simp
  · simp [h, spGet_spPut_ne]

theorem Core.H_setH (c : Core) (n m : Nat) (v : BitVec 128) : (c.setH n v).H m = if m = n then v else c.H m := by
  unfold Core.setH Core.H
  by_cases h : m = n
  · subst h; simp
  · simp [h, spGet_spPut_ne]

theorem Core.T_setT (c : Core) (n m : Nat) (v : BitVec 256) : (c.setT n v).T m = if m = n then v else c.T m := by
  unfold Core.setT Core.T
  by_cases h : m = n
  · subst h; simp
  · simp [h, spGet_spPut_ne]

theorem Core.I_setI (c : Core) (n m : Nat) (v : BitVec 128) : (c.setI n v).I m = if m = n then v else c.I m := by
  unfold Core.setI Core.I
  by_cases h : m = n
  · subst h; simp
  · simp [h, spGet_spPut_ne]

theorem Core.O_setO (c : Core) (n m : Nat) (v : W64) : (c.setO n v).O m = if m = n then v else c.O m := by
  unfold Core.setO Core.O
  by_cases h : m = n
  · subst h; simp
  · simp [h, spGet_spPut_ne]

theorem Vec.V_setV (x : Vec) (n m : Nat) (t : Tile) : (x.setV n t).V m = if m = n then t else x.V m := by
  unfold Vec.setV Vec.V
  by_cases h : m = n
  · subst h; simp
  · simp [h, spGet_spPut_ne]

theorem Vec.K_setK (x : Vec) (n m : Nat) (v : BitVec 1024) : (x.setK n v).K m = if m = n ∧ n ≠ 0 then v else x.K m := by
  unfold Vec.setK Vec.K
  by_cases hn : n = 0
  · subst hn
    by_cases hm : m = 0 <;> simp [hm]
  · by_cases hm : m = n
    · subst hm
      simp [hn]
    · simp [hn, hm, spGet_spPut_ne]

theorem Core.dowelN_setDowel (c : Core) (p q p' q' : Engine) (n : Nat) :
    (c.setDowel p q n).dowelN p' q' = if p' = p ∧ q' = q then n else c.dowelN p' q' := by
  unfold Core.setDowel Core.dowelN
  by_cases h : p' = p ∧ q' = q
  · obtain ⟨rfl, rfl⟩ := h
    simp
  · have : p'.num * 4 + q'.num ≠ p.num * 4 + q.num := by
      cases p <;> cases q <;> cases p' <;> cases q' <;> simp_all [Engine.num]
    simp [h, spGet_spPut_ne _ _ _ _ _ this]

/-- The scoreboard after a wait is noted (R81). -/
theorem Core.readable_awaitS (c : Core) (n a i t : Nat) (h : n ≠ 0) : (c.awaitS n a i).readable [n] t = decide (a ≤ t) := by
  simp [Core.readable, Core.awaitS, h]

/-- A file that is written whole, read at one position. -/
theorem putAt_getD {α : Type} (n : Nat) (d : α) (l : List α) (i : Nat) (x : α) (j : Nat) (hj : j < n) :
    (putAt n d l i x).getD j d = if j = i then x else l.getD j d := by
  simp [putAt, upto, List.getD, hj]

/-- A field replaced: what stands above it and below it stays. -/
theorem putBits_toNat {m : Nat} (v : BitVec m) (lo n x : Nat) (h : lo + n ≤ m) :
    (putBits v lo n x).toNat = v.toNat / 2 ^ (lo + n) * 2 ^ (lo + n) + x % 2 ^ n * 2 ^ lo + v.toNat % 2 ^ lo := by
  have hx : x % 2 ^ n < 2 ^ n := Nat.mod_lt _ (Nat.two_pow_pos n)
  have hl : v.toNat % 2 ^ lo < 2 ^ lo := Nat.mod_lt _ (Nat.two_pow_pos lo)
  have hv : v.toNat < 2 ^ (lo + n) * 2 ^ (m - (lo + n)) := by
    rw [← Nat.pow_add, Nat.add_sub_cancel' h]
    exact v.isLt
  have hq : v.toNat / 2 ^ (lo + n) < 2 ^ (m - (lo + n)) := Nat.div_lt_of_lt_mul hv
  have cut : v.toNat = v.toNat / 2 ^ (lo + n) * 2 ^ (lo + n) + v.toNat / 2 ^ lo % 2 ^ n * 2 ^ lo + v.toNat % 2 ^ lo := by
    have h1 := Nat.div_add_mod v.toNat (2 ^ lo)
    have h2 := Nat.div_add_mod (v.toNat / 2 ^ lo) (2 ^ n)
    rw [Nat.div_div_eq_div_mul, ← Nat.pow_add] at h2
    have h3 : v.toNat / 2 ^ (lo + n) * 2 ^ (lo + n) = 2 ^ lo * (2 ^ n * (v.toNat / 2 ^ (lo + n))) := by
      generalize v.toNat / 2 ^ (lo + n) = q
      rw [Nat.pow_add]
      ac_rfl
    have h4 := congrArg (2 ^ lo * ·) h2
    simp only [Nat.mul_add] at h4
    rw [h3, Nat.mul_comm (v.toNat / 2 ^ lo % 2 ^ n)]
    omega
  have bound : v.toNat / 2 ^ (lo + n) * 2 ^ (lo + n) + x % 2 ^ n * 2 ^ lo + v.toNat % 2 ^ lo < 2 ^ m := by
    have h1 : (x % 2 ^ n + 1) * 2 ^ lo ≤ 2 ^ n * 2 ^ lo := Nat.mul_le_mul_right _ hx
    have h2 : (v.toNat / 2 ^ (lo + n) + 1) * 2 ^ (lo + n) ≤ 2 ^ (m - (lo + n)) * 2 ^ (lo + n) := Nat.mul_le_mul_right _ hq
    rw [← Nat.pow_add, Nat.sub_add_cancel h] at h2
    rw [Nat.mul_comm (2 ^ n), ← Nat.pow_add, Nat.add_mul, Nat.one_mul] at h1
    rw [Nat.add_mul, Nat.one_mul] at h2
    omega
  unfold putBits bits fldN
  rw [BitVec.toNat_ofNat]
  have e : v.toNat - v.toNat / 2 ^ lo % 2 ^ n * 2 ^ lo + x % 2 ^ n * 2 ^ lo =
      v.toNat / 2 ^ (lo + n) * 2 ^ (lo + n) + x % 2 ^ n * 2 ^ lo + v.toNat % 2 ^ lo := by omega
  rw [e, Nat.mod_eq_of_lt bound]

end Sys2Proof.Machine
end

