-- ==== Sys2Proof/Laws/State.lean ====
section
/-! SUPPORT. What each update of a state or a core leaves alone, field by field. -/

namespace Sys2Proof.Machine

@[simp] theorem State.setCore_tick (s : State) (n : Nat) (c : Core) : (s.setCore n c).tick = s.tick := rfl
@[simp] theorem State.setCore_dies (s : State) (n : Nat) (c : Core) : (s.setCore n c).dies = s.dies := rfl
@[simp] theorem State.setCore_mem (s : State) (n : Nat) (c : Core) : (s.setCore n c).mem = s.mem := rfl
@[simp] theorem State.setCore_poison (s : State) (n : Nat) (c : Core) : (s.setCore n c).poison = s.poison := rfl
@[simp] theorem State.setCore_stores (s : State) (n : Nat) (c : Core) : (s.setCore n c).stores = s.stores := rfl
@[simp] theorem State.setCore_pubCount (s : State) (n : Nat) (c : Core) : (s.setCore n c).pubCount = s.pubCount := rfl
@[simp] theorem State.setCore_joins (s : State) (n : Nat) (c : Core) : (s.setCore n c).joins = s.joins := rfl
@[simp] theorem State.setCore_leases (s : State) (n : Nat) (c : Core) : (s.setCore n c).leases = s.leases := rfl
@[simp] theorem State.setCore_purses (s : State) (n : Nat) (c : Core) : (s.setCore n c).purses = s.purses := rfl
@[simp] theorem State.setCore_scrubs (s : State) (n : Nat) (c : Core) : (s.setCore n c).scrubs = s.scrubs := rfl
@[simp] theorem State.setCore_owners (s : State) (n : Nat) (c : Core) : (s.setCore n c).owners = s.owners := rfl
@[simp] theorem State.setCore_parts (s : State) (n : Nat) (c : Core) : (s.setCore n c).parts = s.parts := rfl
@[simp] theorem State.setCore_jobs (s : State) (n : Nat) (c : Core) : (s.setCore n c).jobs = s.jobs := rfl
@[simp] theorem State.setCore_asidGen (s : State) (n : Nat) (c : Core) : (s.setCore n c).asidGen = s.asidGen := rfl
@[simp] theorem State.setCore_tlbs (s : State) (n : Nat) (c : Core) : (s.setCore n c).tlbs = s.tlbs := rfl
@[simp] theorem State.setCore_hyperInvs (s : State) (n : Nat) (c : Core) : (s.setCore n c).hyperInvs = s.hyperInvs := rfl
@[simp] theorem State.setCore_rings (s : State) (n : Nat) (c : Core) : (s.setCore n c).rings = s.rings := rfl
@[simp] theorem State.setCore_captures (s : State) (n : Nat) (c : Core) : (s.setCore n c).captures = s.captures := rfl
@[simp] theorem State.setCore_hostSeq (s : State) (n : Nat) (c : Core) : (s.setCore n c).hostSeq = s.hostSeq := rfl
@[simp] theorem State.setCore_graphs (s : State) (n : Nat) (c : Core) : (s.setCore n c).graphs = s.graphs := rfl
@[simp] theorem State.setCore_launches (s : State) (n : Nat) (c : Core) : (s.setCore n c).launches = s.launches := rfl
@[simp] theorem State.setCore_units (s : State) (n : Nat) (c : Core) : (s.setCore n c).units = s.units := rfl
@[simp] theorem State.setCore_nextGraph (s : State) (n : Nat) (c : Core) : (s.setCore n c).nextGraph = s.nextGraph := rfl
@[simp] theorem State.setCore_nextLaunch (s : State) (n : Nat) (c : Core) : (s.setCore n c).nextLaunch = s.nextLaunch := rfl
@[simp] theorem State.setCore_placers (s : State) (n : Nat) (c : Core) : (s.setCore n c).placers = s.placers := rfl
@[simp] theorem State.setCore_saves (s : State) (n : Nat) (c : Core) : (s.setCore n c).saves = s.saves := rfl
@[simp] theorem State.setCore_heldIncs (s : State) (n : Nat) (c : Core) : (s.setCore n c).heldIncs = s.heldIncs := rfl
@[simp] theorem State.setCore_colls (s : State) (n : Nat) (c : Core) : (s.setCore n c).colls = s.colls := rfl
@[simp] theorem State.setCore_heldTransfers (s : State) (n : Nat) (c : Core) : (s.setCore n c).heldTransfers = s.heldTransfers := rfl
@[simp] theorem State.setCore_collArb (s : State) (n : Nat) (c : Core) : (s.setCore n c).collArb = s.collArb := rfl
@[simp] theorem State.setCore_peers (s : State) (n : Nat) (c : Core) : (s.setCore n c).peers = s.peers := rfl
@[simp] theorem State.setCore_outbox (s : State) (n : Nat) (c : Core) : (s.setCore n c).outbox = s.outbox := rfl
@[simp] theorem State.setCore_reduces (s : State) (n : Nat) (c : Core) : (s.setCore n c).reduces = s.reduces := rfl
@[simp] theorem State.setCore_keeper (s : State) (n : Nat) (c : Core) : (s.setCore n c).keeper = s.keeper := rfl
@[simp] theorem State.setCore_platform (s : State) (n : Nat) (c : Core) : (s.setCore n c).platform = s.platform := rfl
@[simp] theorem State.setCore_responses (s : State) (n : Nat) (c : Core) : (s.setCore n c).responses = s.responses := rfl
@[simp] theorem State.setCore_mail (s : State) (n : Nat) (c : Core) : (s.setCore n c).mail = s.mail := rfl
@[simp] theorem State.setCore_script (s : State) (n : Nat) (c : Core) : (s.setCore n c).script = s.script := rfl
@[simp] theorem State.setCore_agenda (s : State) (n : Nat) (c : Core) : (s.setCore n c).agenda = s.agenda := rfl
@[simp] theorem State.setCore_timers (s : State) (n : Nat) (c : Core) : (s.setCore n c).timers = s.timers := rfl
@[simp] theorem State.setCore_cur (s : State) (n : Nat) (c : Core) : (s.setCore n c).cur = s.cur := rfl
@[simp] theorem State.setCore_fresh (s : State) (n : Nat) (c : Core) : (s.setCore n c).fresh = s.fresh := rfl
@[simp] theorem State.modCore_tick (s : State) (n : Nat) (f : Core → Core) : (s.modCore n f).tick = s.tick := rfl
@[simp] theorem State.modCore_dies (s : State) (n : Nat) (f : Core → Core) : (s.modCore n f).dies = s.dies := rfl
@[simp] theorem State.modCore_mem (s : State) (n : Nat) (f : Core → Core) : (s.modCore n f).mem = s.mem := rfl
@[simp] theorem State.modCore_poison (s : State) (n : Nat) (f : Core → Core) : (s.modCore n f).poison = s.poison := rfl
@[simp] theorem State.modCore_stores (s : State) (n : Nat) (f : Core → Core) : (s.modCore n f).stores = s.stores := rfl
@[simp] theorem State.modCore_pubCount (s : State) (n : Nat) (f : Core → Core) : (s.modCore n f).pubCount = s.pubCount := rfl
@[simp] theorem State.modCore_joins (s : State) (n : Nat) (f : Core → Core) : (s.modCore n f).joins = s.joins := rfl
@[simp] theorem State.modCore_leases (s : State) (n : Nat) (f : Core → Core) : (s.modCore n f).leases = s.leases := rfl
@[simp] theorem State.modCore_purses (s : State) (n : Nat) (f : Core → Core) : (s.modCore n f).purses = s.purses := rfl
@[simp] theorem State.modCore_scrubs (s : State) (n : Nat) (f : Core → Core) : (s.modCore n f).scrubs = s.scrubs := rfl
@[simp] theorem State.modCore_owners (s : State) (n : Nat) (f : Core → Core) : (s.modCore n f).owners = s.owners := rfl
@[simp] theorem State.modCore_parts (s : State) (n : Nat) (f : Core → Core) : (s.modCore n f).parts = s.parts := rfl
@[simp] theorem State.modCore_jobs (s : State) (n : Nat) (f : Core → Core) : (s.modCore n f).jobs = s.jobs := rfl
@[simp] theorem State.modCore_asidGen (s : State) (n : Nat) (f : Core → Core) : (s.modCore n f).asidGen = s.asidGen := rfl
@[simp] theorem State.modCore_tlbs (s : State) (n : Nat) (f : Core → Core) : (s.modCore n f).tlbs = s.tlbs := rfl
@[simp] theorem State.modCore_hyperInvs (s : State) (n : Nat) (f : Core → Core) : (s.modCore n f).hyperInvs = s.hyperInvs := rfl
@[simp] theorem State.modCore_rings (s : State) (n : Nat) (f : Core → Core) : (s.modCore n f).rings = s.rings := rfl
@[simp] theorem State.modCore_captures (s : State) (n : Nat) (f : Core → Core) : (s.modCore n f).captures = s.captures := rfl
@[simp] theorem State.modCore_hostSeq (s : State) (n : Nat) (f : Core → Core) : (s.modCore n f).hostSeq = s.hostSeq := rfl
@[simp] theorem State.modCore_graphs (s : State) (n : Nat) (f : Core → Core) : (s.modCore n f).graphs = s.graphs := rfl
@[simp] theorem State.modCore_launches (s : State) (n : Nat) (f : Core → Core) : (s.modCore n f).launches = s.launches := rfl
@[simp] theorem State.modCore_units (s : State) (n : Nat) (f : Core → Core) : (s.modCore n f).units = s.units := rfl
@[simp] theorem State.modCore_nextGraph (s : State) (n : Nat) (f : Core → Core) : (s.modCore n f).nextGraph = s.nextGraph := rfl
@[simp] theorem State.modCore_nextLaunch (s : State) (n : Nat) (f : Core → Core) : (s.modCore n f).nextLaunch = s.nextLaunch := rfl
@[simp] theorem State.modCore_placers (s : State) (n : Nat) (f : Core → Core) : (s.modCore n f).placers = s.placers := rfl
@[simp] theorem State.modCore_saves (s : State) (n : Nat) (f : Core → Core) : (s.modCore n f).saves = s.saves := rfl
@[simp] theorem State.modCore_heldIncs (s : State) (n : Nat) (f : Core → Core) : (s.modCore n f).heldIncs = s.heldIncs := rfl
@[simp] theorem State.modCore_colls (s : State) (n : Nat) (f : Core → Core) : (s.modCore n f).colls = s.colls := rfl
@[simp] theorem State.modCore_heldTransfers (s : State) (n : Nat) (f : Core → Core) : (s.modCore n f).heldTransfers = s.heldTransfers := rfl
@[simp] theorem State.modCore_collArb (s : State) (n : Nat) (f : Core → Core) : (s.modCore n f).collArb = s.collArb := rfl
@[simp] theorem State.modCore_peers (s : State) (n : Nat) (f : Core → Core) : (s.modCore n f).peers = s.peers := rfl
@[simp] theorem State.modCore_outbox (s : State) (n : Nat) (f : Core → Core) : (s.modCore n f).outbox = s.outbox := rfl
@[simp] theorem State.modCore_reduces (s : State) (n : Nat) (f : Core → Core) : (s.modCore n f).reduces = s.reduces := rfl
@[simp] theorem State.modCore_keeper (s : State) (n : Nat) (f : Core → Core) : (s.modCore n f).keeper = s.keeper := rfl
@[simp] theorem State.modCore_platform (s : State) (n : Nat) (f : Core → Core) : (s.modCore n f).platform = s.platform := rfl
@[simp] theorem State.modCore_responses (s : State) (n : Nat) (f : Core → Core) : (s.modCore n f).responses = s.responses := rfl
@[simp] theorem State.modCore_mail (s : State) (n : Nat) (f : Core → Core) : (s.modCore n f).mail = s.mail := rfl
@[simp] theorem State.modCore_script (s : State) (n : Nat) (f : Core → Core) : (s.modCore n f).script = s.script := rfl
@[simp] theorem State.modCore_agenda (s : State) (n : Nat) (f : Core → Core) : (s.modCore n f).agenda = s.agenda := rfl
@[simp] theorem State.modCore_timers (s : State) (n : Nat) (f : Core → Core) : (s.modCore n f).timers = s.timers := rfl
@[simp] theorem State.modCore_cur (s : State) (n : Nat) (f : Core → Core) : (s.modCore n f).cur = s.cur := rfl
@[simp] theorem State.modCore_fresh (s : State) (n : Nat) (f : Core → Core) : (s.modCore n f).fresh = s.fresh := rfl
@[simp] theorem State.after_tick (s : State) (k n : Nat) (i : Instr) : (s.after k n i).tick = s.tick := rfl
@[simp] theorem State.after_dies (s : State) (k n : Nat) (i : Instr) : (s.after k n i).dies = s.dies := rfl
@[simp] theorem State.after_cores (s : State) (k n : Nat) (i : Instr) : (s.after k n i).cores = s.cores := rfl
@[simp] theorem State.after_mem (s : State) (k n : Nat) (i : Instr) : (s.after k n i).mem = s.mem := rfl
@[simp] theorem State.after_poison (s : State) (k n : Nat) (i : Instr) : (s.after k n i).poison = s.poison := rfl
@[simp] theorem State.after_stores (s : State) (k n : Nat) (i : Instr) : (s.after k n i).stores = s.stores := rfl
@[simp] theorem State.after_pubCount (s : State) (k n : Nat) (i : Instr) : (s.after k n i).pubCount = s.pubCount := rfl
@[simp] theorem State.after_joins (s : State) (k n : Nat) (i : Instr) : (s.after k n i).joins = s.joins := rfl
@[simp] theorem State.after_leases (s : State) (k n : Nat) (i : Instr) : (s.after k n i).leases = s.leases := rfl
@[simp] theorem State.after_purses (s : State) (k n : Nat) (i : Instr) : (s.after k n i).purses = s.purses := rfl
@[simp] theorem State.after_scrubs (s : State) (k n : Nat) (i : Instr) : (s.after k n i).scrubs = s.scrubs := rfl
@[simp] theorem State.after_owners (s : State) (k n : Nat) (i : Instr) : (s.after k n i).owners = s.owners := rfl
@[simp] theorem State.after_parts (s : State) (k n : Nat) (i : Instr) : (s.after k n i).parts = s.parts := rfl
@[simp] theorem State.after_jobs (s : State) (k n : Nat) (i : Instr) : (s.after k n i).jobs = s.jobs := rfl
@[simp] theorem State.after_asidGen (s : State) (k n : Nat) (i : Instr) : (s.after k n i).asidGen = s.asidGen := rfl
@[simp] theorem State.after_tlbs (s : State) (k n : Nat) (i : Instr) : (s.after k n i).tlbs = s.tlbs := rfl
@[simp] theorem State.after_hyperInvs (s : State) (k n : Nat) (i : Instr) : (s.after k n i).hyperInvs = s.hyperInvs := rfl
@[simp] theorem State.after_rings (s : State) (k n : Nat) (i : Instr) : (s.after k n i).rings = s.rings := rfl
@[simp] theorem State.after_captures (s : State) (k n : Nat) (i : Instr) : (s.after k n i).captures = s.captures := rfl
@[simp] theorem State.after_hostSeq (s : State) (k n : Nat) (i : Instr) : (s.after k n i).hostSeq = s.hostSeq := rfl
@[simp] theorem State.after_graphs (s : State) (k n : Nat) (i : Instr) : (s.after k n i).graphs = s.graphs := rfl
@[simp] theorem State.after_launches (s : State) (k n : Nat) (i : Instr) : (s.after k n i).launches = s.launches := rfl
@[simp] theorem State.after_units (s : State) (k n : Nat) (i : Instr) : (s.after k n i).units = s.units := rfl
@[simp] theorem State.after_nextGraph (s : State) (k n : Nat) (i : Instr) : (s.after k n i).nextGraph = s.nextGraph := rfl
@[simp] theorem State.after_nextLaunch (s : State) (k n : Nat) (i : Instr) : (s.after k n i).nextLaunch = s.nextLaunch := rfl
@[simp] theorem State.after_placers (s : State) (k n : Nat) (i : Instr) : (s.after k n i).placers = s.placers := rfl
@[simp] theorem State.after_saves (s : State) (k n : Nat) (i : Instr) : (s.after k n i).saves = s.saves := rfl
@[simp] theorem State.after_heldIncs (s : State) (k n : Nat) (i : Instr) : (s.after k n i).heldIncs = s.heldIncs := rfl
@[simp] theorem State.after_colls (s : State) (k n : Nat) (i : Instr) : (s.after k n i).colls = s.colls := rfl
@[simp] theorem State.after_heldTransfers (s : State) (k n : Nat) (i : Instr) : (s.after k n i).heldTransfers = s.heldTransfers := rfl
@[simp] theorem State.after_collArb (s : State) (k n : Nat) (i : Instr) : (s.after k n i).collArb = s.collArb := rfl
@[simp] theorem State.after_peers (s : State) (k n : Nat) (i : Instr) : (s.after k n i).peers = s.peers := rfl
@[simp] theorem State.after_outbox (s : State) (k n : Nat) (i : Instr) : (s.after k n i).outbox = s.outbox := rfl
@[simp] theorem State.after_reduces (s : State) (k n : Nat) (i : Instr) : (s.after k n i).reduces = s.reduces := rfl
@[simp] theorem State.after_keeper (s : State) (k n : Nat) (i : Instr) : (s.after k n i).keeper = s.keeper := rfl
@[simp] theorem State.after_platform (s : State) (k n : Nat) (i : Instr) : (s.after k n i).platform = s.platform := rfl
@[simp] theorem State.after_responses (s : State) (k n : Nat) (i : Instr) : (s.after k n i).responses = s.responses := rfl
@[simp] theorem State.after_mail (s : State) (k n : Nat) (i : Instr) : (s.after k n i).mail = s.mail := rfl
@[simp] theorem State.after_script (s : State) (k n : Nat) (i : Instr) : (s.after k n i).script = s.script := rfl
@[simp] theorem State.after_agenda (s : State) (k n : Nat) (i : Instr) : (s.after k n i).agenda = s.agenda := rfl
@[simp] theorem State.after_cur (s : State) (k n : Nat) (i : Instr) : (s.after k n i).cur = s.cur := rfl
@[simp] theorem State.after_fresh (s : State) (k n : Nat) (i : Instr) : (s.after k n i).fresh = s.fresh := rfl
@[simp] theorem State.atTick_tick (s : State) (n : Nat) (i : Instr) : (s.atTick n i).tick = s.tick := rfl
@[simp] theorem State.atTick_dies (s : State) (n : Nat) (i : Instr) : (s.atTick n i).dies = s.dies := rfl
@[simp] theorem State.atTick_cores (s : State) (n : Nat) (i : Instr) : (s.atTick n i).cores = s.cores := rfl
@[simp] theorem State.atTick_mem (s : State) (n : Nat) (i : Instr) : (s.atTick n i).mem = s.mem := rfl
@[simp] theorem State.atTick_poison (s : State) (n : Nat) (i : Instr) : (s.atTick n i).poison = s.poison := rfl
@[simp] theorem State.atTick_stores (s : State) (n : Nat) (i : Instr) : (s.atTick n i).stores = s.stores := rfl
@[simp] theorem State.atTick_pubCount (s : State) (n : Nat) (i : Instr) : (s.atTick n i).pubCount = s.pubCount := rfl
@[simp] theorem State.atTick_joins (s : State) (n : Nat) (i : Instr) : (s.atTick n i).joins = s.joins := rfl
@[simp] theorem State.atTick_leases (s : State) (n : Nat) (i : Instr) : (s.atTick n i).leases = s.leases := rfl
@[simp] theorem State.atTick_purses (s : State) (n : Nat) (i : Instr) : (s.atTick n i).purses = s.purses := rfl
@[simp] theorem State.atTick_scrubs (s : State) (n : Nat) (i : Instr) : (s.atTick n i).scrubs = s.scrubs := rfl
@[simp] theorem State.atTick_owners (s : State) (n : Nat) (i : Instr) : (s.atTick n i).owners = s.owners := rfl
@[simp] theorem State.atTick_parts (s : State) (n : Nat) (i : Instr) : (s.atTick n i).parts = s.parts := rfl
@[simp] theorem State.atTick_jobs (s : State) (n : Nat) (i : Instr) : (s.atTick n i).jobs = s.jobs := rfl
@[simp] theorem State.atTick_asidGen (s : State) (n : Nat) (i : Instr) : (s.atTick n i).asidGen = s.asidGen := rfl
@[simp] theorem State.atTick_tlbs (s : State) (n : Nat) (i : Instr) : (s.atTick n i).tlbs = s.tlbs := rfl
@[simp] theorem State.atTick_hyperInvs (s : State) (n : Nat) (i : Instr) : (s.atTick n i).hyperInvs = s.hyperInvs := rfl
@[simp] theorem State.atTick_rings (s : State) (n : Nat) (i : Instr) : (s.atTick n i).rings = s.rings := rfl
@[simp] theorem State.atTick_captures (s : State) (n : Nat) (i : Instr) : (s.atTick n i).captures = s.captures := rfl
@[simp] theorem State.atTick_hostSeq (s : State) (n : Nat) (i : Instr) : (s.atTick n i).hostSeq = s.hostSeq := rfl
@[simp] theorem State.atTick_graphs (s : State) (n : Nat) (i : Instr) : (s.atTick n i).graphs = s.graphs := rfl
@[simp] theorem State.atTick_launches (s : State) (n : Nat) (i : Instr) : (s.atTick n i).launches = s.launches := rfl
@[simp] theorem State.atTick_units (s : State) (n : Nat) (i : Instr) : (s.atTick n i).units = s.units := rfl
@[simp] theorem State.atTick_nextGraph (s : State) (n : Nat) (i : Instr) : (s.atTick n i).nextGraph = s.nextGraph := rfl
@[simp] theorem State.atTick_nextLaunch (s : State) (n : Nat) (i : Instr) : (s.atTick n i).nextLaunch = s.nextLaunch := rfl
@[simp] theorem State.atTick_placers (s : State) (n : Nat) (i : Instr) : (s.atTick n i).placers = s.placers := rfl
@[simp] theorem State.atTick_saves (s : State) (n : Nat) (i : Instr) : (s.atTick n i).saves = s.saves := rfl
@[simp] theorem State.atTick_heldIncs (s : State) (n : Nat) (i : Instr) : (s.atTick n i).heldIncs = s.heldIncs := rfl
@[simp] theorem State.atTick_colls (s : State) (n : Nat) (i : Instr) : (s.atTick n i).colls = s.colls := rfl
@[simp] theorem State.atTick_heldTransfers (s : State) (n : Nat) (i : Instr) : (s.atTick n i).heldTransfers = s.heldTransfers := rfl
@[simp] theorem State.atTick_collArb (s : State) (n : Nat) (i : Instr) : (s.atTick n i).collArb = s.collArb := rfl
@[simp] theorem State.atTick_peers (s : State) (n : Nat) (i : Instr) : (s.atTick n i).peers = s.peers := rfl
@[simp] theorem State.atTick_outbox (s : State) (n : Nat) (i : Instr) : (s.atTick n i).outbox = s.outbox := rfl
@[simp] theorem State.atTick_reduces (s : State) (n : Nat) (i : Instr) : (s.atTick n i).reduces = s.reduces := rfl
@[simp] theorem State.atTick_keeper (s : State) (n : Nat) (i : Instr) : (s.atTick n i).keeper = s.keeper := rfl
@[simp] theorem State.atTick_platform (s : State) (n : Nat) (i : Instr) : (s.atTick n i).platform = s.platform := rfl
@[simp] theorem State.atTick_responses (s : State) (n : Nat) (i : Instr) : (s.atTick n i).responses = s.responses := rfl
@[simp] theorem State.atTick_mail (s : State) (n : Nat) (i : Instr) : (s.atTick n i).mail = s.mail := rfl
@[simp] theorem State.atTick_script (s : State) (n : Nat) (i : Instr) : (s.atTick n i).script = s.script := rfl
@[simp] theorem State.atTick_agenda (s : State) (n : Nat) (i : Instr) : (s.atTick n i).agenda = s.agenda := rfl
@[simp] theorem State.atTick_cur (s : State) (n : Nat) (i : Instr) : (s.atTick n i).cur = s.cur := rfl
@[simp] theorem State.atTick_fresh (s : State) (n : Nat) (i : Instr) : (s.atTick n i).fresh = s.fresh := rfl
@[simp] theorem State.soon_tick (s : State) (l : List Instr) : (s.soon l).tick = s.tick := rfl
@[simp] theorem State.soon_dies (s : State) (l : List Instr) : (s.soon l).dies = s.dies := rfl
@[simp] theorem State.soon_cores (s : State) (l : List Instr) : (s.soon l).cores = s.cores := rfl
@[simp] theorem State.soon_mem (s : State) (l : List Instr) : (s.soon l).mem = s.mem := rfl
@[simp] theorem State.soon_poison (s : State) (l : List Instr) : (s.soon l).poison = s.poison := rfl
@[simp] theorem State.soon_stores (s : State) (l : List Instr) : (s.soon l).stores = s.stores := rfl
@[simp] theorem State.soon_pubCount (s : State) (l : List Instr) : (s.soon l).pubCount = s.pubCount := rfl
@[simp] theorem State.soon_joins (s : State) (l : List Instr) : (s.soon l).joins = s.joins := rfl
@[simp] theorem State.soon_leases (s : State) (l : List Instr) : (s.soon l).leases = s.leases := rfl
@[simp] theorem State.soon_purses (s : State) (l : List Instr) : (s.soon l).purses = s.purses := rfl
@[simp] theorem State.soon_scrubs (s : State) (l : List Instr) : (s.soon l).scrubs = s.scrubs := rfl
@[simp] theorem State.soon_owners (s : State) (l : List Instr) : (s.soon l).owners = s.owners := rfl
@[simp] theorem State.soon_parts (s : State) (l : List Instr) : (s.soon l).parts = s.parts := rfl
@[simp] theorem State.soon_jobs (s : State) (l : List Instr) : (s.soon l).jobs = s.jobs := rfl
@[simp] theorem State.soon_asidGen (s : State) (l : List Instr) : (s.soon l).asidGen = s.asidGen := rfl
@[simp] theorem State.soon_tlbs (s : State) (l : List Instr) : (s.soon l).tlbs = s.tlbs := rfl
@[simp] theorem State.soon_hyperInvs (s : State) (l : List Instr) : (s.soon l).hyperInvs = s.hyperInvs := rfl
@[simp] theorem State.soon_rings (s : State) (l : List Instr) : (s.soon l).rings = s.rings := rfl
@[simp] theorem State.soon_captures (s : State) (l : List Instr) : (s.soon l).captures = s.captures := rfl
@[simp] theorem State.soon_hostSeq (s : State) (l : List Instr) : (s.soon l).hostSeq = s.hostSeq := rfl
@[simp] theorem State.soon_graphs (s : State) (l : List Instr) : (s.soon l).graphs = s.graphs := rfl
@[simp] theorem State.soon_launches (s : State) (l : List Instr) : (s.soon l).launches = s.launches := rfl
@[simp] theorem State.soon_units (s : State) (l : List Instr) : (s.soon l).units = s.units := rfl
@[simp] theorem State.soon_nextGraph (s : State) (l : List Instr) : (s.soon l).nextGraph = s.nextGraph := rfl
@[simp] theorem State.soon_nextLaunch (s : State) (l : List Instr) : (s.soon l).nextLaunch = s.nextLaunch := rfl
@[simp] theorem State.soon_placers (s : State) (l : List Instr) : (s.soon l).placers = s.placers := rfl
@[simp] theorem State.soon_saves (s : State) (l : List Instr) : (s.soon l).saves = s.saves := rfl
@[simp] theorem State.soon_heldIncs (s : State) (l : List Instr) : (s.soon l).heldIncs = s.heldIncs := rfl
@[simp] theorem State.soon_colls (s : State) (l : List Instr) : (s.soon l).colls = s.colls := rfl
@[simp] theorem State.soon_heldTransfers (s : State) (l : List Instr) : (s.soon l).heldTransfers = s.heldTransfers := rfl
@[simp] theorem State.soon_collArb (s : State) (l : List Instr) : (s.soon l).collArb = s.collArb := rfl
@[simp] theorem State.soon_peers (s : State) (l : List Instr) : (s.soon l).peers = s.peers := rfl
@[simp] theorem State.soon_outbox (s : State) (l : List Instr) : (s.soon l).outbox = s.outbox := rfl
@[simp] theorem State.soon_reduces (s : State) (l : List Instr) : (s.soon l).reduces = s.reduces := rfl
@[simp] theorem State.soon_keeper (s : State) (l : List Instr) : (s.soon l).keeper = s.keeper := rfl
@[simp] theorem State.soon_platform (s : State) (l : List Instr) : (s.soon l).platform = s.platform := rfl
@[simp] theorem State.soon_responses (s : State) (l : List Instr) : (s.soon l).responses = s.responses := rfl
@[simp] theorem State.soon_mail (s : State) (l : List Instr) : (s.soon l).mail = s.mail := rfl
@[simp] theorem State.soon_script (s : State) (l : List Instr) : (s.soon l).script = s.script := rfl
@[simp] theorem State.soon_timers (s : State) (l : List Instr) : (s.soon l).timers = s.timers := rfl
@[simp] theorem State.soon_cur (s : State) (l : List Instr) : (s.soon l).cur = s.cur := rfl
@[simp] theorem State.soon_fresh (s : State) (l : List Instr) : (s.soon l).fresh = s.fresh := rfl
@[simp] theorem State.writeMem_tick (s : State) (k : Nat) (bs : List Byte) : (s.writeMem k bs).tick = s.tick := rfl
@[simp] theorem State.writeMem_dies (s : State) (k : Nat) (bs : List Byte) : (s.writeMem k bs).dies = s.dies := rfl
@[simp] theorem State.writeMem_cores (s : State) (k : Nat) (bs : List Byte) : (s.writeMem k bs).cores = s.cores := rfl
@[simp] theorem State.writeMem_stores (s : State) (k : Nat) (bs : List Byte) : (s.writeMem k bs).stores = s.stores := rfl
@[simp] theorem State.writeMem_pubCount (s : State) (k : Nat) (bs : List Byte) : (s.writeMem k bs).pubCount = s.pubCount := rfl
@[simp] theorem State.writeMem_joins (s : State) (k : Nat) (bs : List Byte) : (s.writeMem k bs).joins = s.joins := rfl
@[simp] theorem State.writeMem_leases (s : State) (k : Nat) (bs : List Byte) : (s.writeMem k bs).leases = s.leases := rfl
@[simp] theorem State.writeMem_purses (s : State) (k : Nat) (bs : List Byte) : (s.writeMem k bs).purses = s.purses := rfl
@[simp] theorem State.writeMem_scrubs (s : State) (k : Nat) (bs : List Byte) : (s.writeMem k bs).scrubs = s.scrubs := rfl
@[simp] theorem State.writeMem_owners (s : State) (k : Nat) (bs : List Byte) : (s.writeMem k bs).owners = s.owners := rfl
@[simp] theorem State.writeMem_parts (s : State) (k : Nat) (bs : List Byte) : (s.writeMem k bs).parts = s.parts := rfl
@[simp] theorem State.writeMem_jobs (s : State) (k : Nat) (bs : List Byte) : (s.writeMem k bs).jobs = s.jobs := rfl
@[simp] theorem State.writeMem_asidGen (s : State) (k : Nat) (bs : List Byte) : (s.writeMem k bs).asidGen = s.asidGen := rfl
@[simp] theorem State.writeMem_tlbs (s : State) (k : Nat) (bs : List Byte) : (s.writeMem k bs).tlbs = s.tlbs := rfl
@[simp] theorem State.writeMem_hyperInvs (s : State) (k : Nat) (bs : List Byte) : (s.writeMem k bs).hyperInvs = s.hyperInvs := rfl
@[simp] theorem State.writeMem_rings (s : State) (k : Nat) (bs : List Byte) : (s.writeMem k bs).rings = s.rings := rfl
@[simp] theorem State.writeMem_captures (s : State) (k : Nat) (bs : List Byte) : (s.writeMem k bs).captures = s.captures := rfl
@[simp] theorem State.writeMem_hostSeq (s : State) (k : Nat) (bs : List Byte) : (s.writeMem k bs).hostSeq = s.hostSeq := rfl
@[simp] theorem State.writeMem_graphs (s : State) (k : Nat) (bs : List Byte) : (s.writeMem k bs).graphs = s.graphs := rfl
@[simp] theorem State.writeMem_launches (s : State) (k : Nat) (bs : List Byte) : (s.writeMem k bs).launches = s.launches := rfl
@[simp] theorem State.writeMem_units (s : State) (k : Nat) (bs : List Byte) : (s.writeMem k bs).units = s.units := rfl
@[simp] theorem State.writeMem_nextGraph (s : State) (k : Nat) (bs : List Byte) : (s.writeMem k bs).nextGraph = s.nextGraph := rfl
@[simp] theorem State.writeMem_nextLaunch (s : State) (k : Nat) (bs : List Byte) : (s.writeMem k bs).nextLaunch = s.nextLaunch := rfl
@[simp] theorem State.writeMem_placers (s : State) (k : Nat) (bs : List Byte) : (s.writeMem k bs).placers = s.placers := rfl
@[simp] theorem State.writeMem_saves (s : State) (k : Nat) (bs : List Byte) : (s.writeMem k bs).saves = s.saves := rfl
@[simp] theorem State.writeMem_heldIncs (s : State) (k : Nat) (bs : List Byte) : (s.writeMem k bs).heldIncs = s.heldIncs := rfl
@[simp] theorem State.writeMem_colls (s : State) (k : Nat) (bs : List Byte) : (s.writeMem k bs).colls = s.colls := rfl
@[simp] theorem State.writeMem_heldTransfers (s : State) (k : Nat) (bs : List Byte) : (s.writeMem k bs).heldTransfers = s.heldTransfers := rfl
@[simp] theorem State.writeMem_collArb (s : State) (k : Nat) (bs : List Byte) : (s.writeMem k bs).collArb = s.collArb := rfl
@[simp] theorem State.writeMem_peers (s : State) (k : Nat) (bs : List Byte) : (s.writeMem k bs).peers = s.peers := rfl
@[simp] theorem State.writeMem_outbox (s : State) (k : Nat) (bs : List Byte) : (s.writeMem k bs).outbox = s.outbox := rfl
@[simp] theorem State.writeMem_reduces (s : State) (k : Nat) (bs : List Byte) : (s.writeMem k bs).reduces = s.reduces := rfl
@[simp] theorem State.writeMem_keeper (s : State) (k : Nat) (bs : List Byte) : (s.writeMem k bs).keeper = s.keeper := rfl
@[simp] theorem State.writeMem_platform (s : State) (k : Nat) (bs : List Byte) : (s.writeMem k bs).platform = s.platform := rfl
@[simp] theorem State.writeMem_responses (s : State) (k : Nat) (bs : List Byte) : (s.writeMem k bs).responses = s.responses := rfl
@[simp] theorem State.writeMem_mail (s : State) (k : Nat) (bs : List Byte) : (s.writeMem k bs).mail = s.mail := rfl
@[simp] theorem State.writeMem_script (s : State) (k : Nat) (bs : List Byte) : (s.writeMem k bs).script = s.script := rfl
@[simp] theorem State.writeMem_agenda (s : State) (k : Nat) (bs : List Byte) : (s.writeMem k bs).agenda = s.agenda := rfl
@[simp] theorem State.writeMem_timers (s : State) (k : Nat) (bs : List Byte) : (s.writeMem k bs).timers = s.timers := rfl
@[simp] theorem State.writeMem_cur (s : State) (k : Nat) (bs : List Byte) : (s.writeMem k bs).cur = s.cur := rfl
@[simp] theorem State.writeMem_fresh (s : State) (k : Nat) (bs : List Byte) : (s.writeMem k bs).fresh = s.fresh := rfl
@[simp] theorem State.poisonAt_tick (s : State) (k n : Nat) : (s.poisonAt k n).tick = s.tick := rfl
@[simp] theorem State.poisonAt_dies (s : State) (k n : Nat) : (s.poisonAt k n).dies = s.dies := rfl
@[simp] theorem State.poisonAt_cores (s : State) (k n : Nat) : (s.poisonAt k n).cores = s.cores := rfl
@[simp] theorem State.poisonAt_mem (s : State) (k n : Nat) : (s.poisonAt k n).mem = s.mem := rfl
@[simp] theorem State.poisonAt_stores (s : State) (k n : Nat) : (s.poisonAt k n).stores = s.stores := rfl
@[simp] theorem State.poisonAt_pubCount (s : State) (k n : Nat) : (s.poisonAt k n).pubCount = s.pubCount := rfl
@[simp] theorem State.poisonAt_joins (s : State) (k n : Nat) : (s.poisonAt k n).joins = s.joins := rfl
@[simp] theorem State.poisonAt_leases (s : State) (k n : Nat) : (s.poisonAt k n).leases = s.leases := rfl
@[simp] theorem State.poisonAt_purses (s : State) (k n : Nat) : (s.poisonAt k n).purses = s.purses := rfl
@[simp] theorem State.poisonAt_scrubs (s : State) (k n : Nat) : (s.poisonAt k n).scrubs = s.scrubs := rfl
@[simp] theorem State.poisonAt_owners (s : State) (k n : Nat) : (s.poisonAt k n).owners = s.owners := rfl
@[simp] theorem State.poisonAt_parts (s : State) (k n : Nat) : (s.poisonAt k n).parts = s.parts := rfl
@[simp] theorem State.poisonAt_jobs (s : State) (k n : Nat) : (s.poisonAt k n).jobs = s.jobs := rfl
@[simp] theorem State.poisonAt_asidGen (s : State) (k n : Nat) : (s.poisonAt k n).asidGen = s.asidGen := rfl
@[simp] theorem State.poisonAt_tlbs (s : State) (k n : Nat) : (s.poisonAt k n).tlbs = s.tlbs := rfl
@[simp] theorem State.poisonAt_hyperInvs (s : State) (k n : Nat) : (s.poisonAt k n).hyperInvs = s.hyperInvs := rfl
@[simp] theorem State.poisonAt_rings (s : State) (k n : Nat) : (s.poisonAt k n).rings = s.rings := rfl
@[simp] theorem State.poisonAt_captures (s : State) (k n : Nat) : (s.poisonAt k n).captures = s.captures := rfl
@[simp] theorem State.poisonAt_hostSeq (s : State) (k n : Nat) : (s.poisonAt k n).hostSeq = s.hostSeq := rfl
@[simp] theorem State.poisonAt_graphs (s : State) (k n : Nat) : (s.poisonAt k n).graphs = s.graphs := rfl
@[simp] theorem State.poisonAt_launches (s : State) (k n : Nat) : (s.poisonAt k n).launches = s.launches := rfl
@[simp] theorem State.poisonAt_units (s : State) (k n : Nat) : (s.poisonAt k n).units = s.units := rfl
@[simp] theorem State.poisonAt_nextGraph (s : State) (k n : Nat) : (s.poisonAt k n).nextGraph = s.nextGraph := rfl
@[simp] theorem State.poisonAt_nextLaunch (s : State) (k n : Nat) : (s.poisonAt k n).nextLaunch = s.nextLaunch := rfl
@[simp] theorem State.poisonAt_placers (s : State) (k n : Nat) : (s.poisonAt k n).placers = s.placers := rfl
@[simp] theorem State.poisonAt_saves (s : State) (k n : Nat) : (s.poisonAt k n).saves = s.saves := rfl
@[simp] theorem State.poisonAt_heldIncs (s : State) (k n : Nat) : (s.poisonAt k n).heldIncs = s.heldIncs := rfl
@[simp] theorem State.poisonAt_colls (s : State) (k n : Nat) : (s.poisonAt k n).colls = s.colls := rfl
@[simp] theorem State.poisonAt_heldTransfers (s : State) (k n : Nat) : (s.poisonAt k n).heldTransfers = s.heldTransfers := rfl
@[simp] theorem State.poisonAt_collArb (s : State) (k n : Nat) : (s.poisonAt k n).collArb = s.collArb := rfl
@[simp] theorem State.poisonAt_peers (s : State) (k n : Nat) : (s.poisonAt k n).peers = s.peers := rfl
@[simp] theorem State.poisonAt_outbox (s : State) (k n : Nat) : (s.poisonAt k n).outbox = s.outbox := rfl
@[simp] theorem State.poisonAt_reduces (s : State) (k n : Nat) : (s.poisonAt k n).reduces = s.reduces := rfl
@[simp] theorem State.poisonAt_keeper (s : State) (k n : Nat) : (s.poisonAt k n).keeper = s.keeper := rfl
@[simp] theorem State.poisonAt_platform (s : State) (k n : Nat) : (s.poisonAt k n).platform = s.platform := rfl
@[simp] theorem State.poisonAt_responses (s : State) (k n : Nat) : (s.poisonAt k n).responses = s.responses := rfl
@[simp] theorem State.poisonAt_mail (s : State) (k n : Nat) : (s.poisonAt k n).mail = s.mail := rfl
@[simp] theorem State.poisonAt_script (s : State) (k n : Nat) : (s.poisonAt k n).script = s.script := rfl
@[simp] theorem State.poisonAt_agenda (s : State) (k n : Nat) : (s.poisonAt k n).agenda = s.agenda := rfl
@[simp] theorem State.poisonAt_timers (s : State) (k n : Nat) : (s.poisonAt k n).timers = s.timers := rfl
@[simp] theorem State.poisonAt_cur (s : State) (k n : Nat) : (s.poisonAt k n).cur = s.cur := rfl
@[simp] theorem State.poisonAt_fresh (s : State) (k n : Nat) : (s.poisonAt k n).fresh = s.fresh := rfl
@[simp] theorem State.setLease_tick (s : State) (n : Nat) (l : Lease) : (s.setLease n l).tick = s.tick := rfl
@[simp] theorem State.setLease_dies (s : State) (n : Nat) (l : Lease) : (s.setLease n l).dies = s.dies := rfl
@[simp] theorem State.setLease_cores (s : State) (n : Nat) (l : Lease) : (s.setLease n l).cores = s.cores := rfl
@[simp] theorem State.setLease_mem (s : State) (n : Nat) (l : Lease) : (s.setLease n l).mem = s.mem := rfl
@[simp] theorem State.setLease_poison (s : State) (n : Nat) (l : Lease) : (s.setLease n l).poison = s.poison := rfl
@[simp] theorem State.setLease_stores (s : State) (n : Nat) (l : Lease) : (s.setLease n l).stores = s.stores := rfl
@[simp] theorem State.setLease_pubCount (s : State) (n : Nat) (l : Lease) : (s.setLease n l).pubCount = s.pubCount := rfl
@[simp] theorem State.setLease_joins (s : State) (n : Nat) (l : Lease) : (s.setLease n l).joins = s.joins := rfl
@[simp] theorem State.setLease_purses (s : State) (n : Nat) (l : Lease) : (s.setLease n l).purses = s.purses := rfl
@[simp] theorem State.setLease_scrubs (s : State) (n : Nat) (l : Lease) : (s.setLease n l).scrubs = s.scrubs := rfl
@[simp] theorem State.setLease_owners (s : State) (n : Nat) (l : Lease) : (s.setLease n l).owners = s.owners := rfl
@[simp] theorem State.setLease_parts (s : State) (n : Nat) (l : Lease) : (s.setLease n l).parts = s.parts := rfl
@[simp] theorem State.setLease_jobs (s : State) (n : Nat) (l : Lease) : (s.setLease n l).jobs = s.jobs := rfl
@[simp] theorem State.setLease_asidGen (s : State) (n : Nat) (l : Lease) : (s.setLease n l).asidGen = s.asidGen := rfl
@[simp] theorem State.setLease_tlbs (s : State) (n : Nat) (l : Lease) : (s.setLease n l).tlbs = s.tlbs := rfl
@[simp] theorem State.setLease_hyperInvs (s : State) (n : Nat) (l : Lease) : (s.setLease n l).hyperInvs = s.hyperInvs := rfl
@[simp] theorem State.setLease_rings (s : State) (n : Nat) (l : Lease) : (s.setLease n l).rings = s.rings := rfl
@[simp] theorem State.setLease_captures (s : State) (n : Nat) (l : Lease) : (s.setLease n l).captures = s.captures := rfl
@[simp] theorem State.setLease_hostSeq (s : State) (n : Nat) (l : Lease) : (s.setLease n l).hostSeq = s.hostSeq := rfl
@[simp] theorem State.setLease_graphs (s : State) (n : Nat) (l : Lease) : (s.setLease n l).graphs = s.graphs := rfl
@[simp] theorem State.setLease_launches (s : State) (n : Nat) (l : Lease) : (s.setLease n l).launches = s.launches := rfl
@[simp] theorem State.setLease_units (s : State) (n : Nat) (l : Lease) : (s.setLease n l).units = s.units := rfl
@[simp] theorem State.setLease_nextGraph (s : State) (n : Nat) (l : Lease) : (s.setLease n l).nextGraph = s.nextGraph := rfl
@[simp] theorem State.setLease_nextLaunch (s : State) (n : Nat) (l : Lease) : (s.setLease n l).nextLaunch = s.nextLaunch := rfl
@[simp] theorem State.setLease_placers (s : State) (n : Nat) (l : Lease) : (s.setLease n l).placers = s.placers := rfl
@[simp] theorem State.setLease_saves (s : State) (n : Nat) (l : Lease) : (s.setLease n l).saves = s.saves := rfl
@[simp] theorem State.setLease_heldIncs (s : State) (n : Nat) (l : Lease) : (s.setLease n l).heldIncs = s.heldIncs := rfl
@[simp] theorem State.setLease_colls (s : State) (n : Nat) (l : Lease) : (s.setLease n l).colls = s.colls := rfl
@[simp] theorem State.setLease_heldTransfers (s : State) (n : Nat) (l : Lease) : (s.setLease n l).heldTransfers = s.heldTransfers := rfl
@[simp] theorem State.setLease_collArb (s : State) (n : Nat) (l : Lease) : (s.setLease n l).collArb = s.collArb := rfl
@[simp] theorem State.setLease_peers (s : State) (n : Nat) (l : Lease) : (s.setLease n l).peers = s.peers := rfl
@[simp] theorem State.setLease_outbox (s : State) (n : Nat) (l : Lease) : (s.setLease n l).outbox = s.outbox := rfl
@[simp] theorem State.setLease_reduces (s : State) (n : Nat) (l : Lease) : (s.setLease n l).reduces = s.reduces := rfl
@[simp] theorem State.setLease_keeper (s : State) (n : Nat) (l : Lease) : (s.setLease n l).keeper = s.keeper := rfl
@[simp] theorem State.setLease_platform (s : State) (n : Nat) (l : Lease) : (s.setLease n l).platform = s.platform := rfl
@[simp] theorem State.setLease_responses (s : State) (n : Nat) (l : Lease) : (s.setLease n l).responses = s.responses := rfl
@[simp] theorem State.setLease_mail (s : State) (n : Nat) (l : Lease) : (s.setLease n l).mail = s.mail := rfl
@[simp] theorem State.setLease_script (s : State) (n : Nat) (l : Lease) : (s.setLease n l).script = s.script := rfl
@[simp] theorem State.setLease_agenda (s : State) (n : Nat) (l : Lease) : (s.setLease n l).agenda = s.agenda := rfl
@[simp] theorem State.setLease_timers (s : State) (n : Nat) (l : Lease) : (s.setLease n l).timers = s.timers := rfl
@[simp] theorem State.setLease_cur (s : State) (n : Nat) (l : Lease) : (s.setLease n l).cur = s.cur := rfl
@[simp] theorem State.setLease_fresh (s : State) (n : Nat) (l : Lease) : (s.setLease n l).fresh = s.fresh := rfl
@[simp] theorem State.setPurse_tick (s : State) (p j : Nat) (q : Purse) : (s.setPurse p j q).tick = s.tick := rfl
@[simp] theorem State.setPurse_dies (s : State) (p j : Nat) (q : Purse) : (s.setPurse p j q).dies = s.dies := rfl
@[simp] theorem State.setPurse_cores (s : State) (p j : Nat) (q : Purse) : (s.setPurse p j q).cores = s.cores := rfl
@[simp] theorem State.setPurse_mem (s : State) (p j : Nat) (q : Purse) : (s.setPurse p j q).mem = s.mem := rfl
@[simp] theorem State.setPurse_poison (s : State) (p j : Nat) (q : Purse) : (s.setPurse p j q).poison = s.poison := rfl
@[simp] theorem State.setPurse_stores (s : State) (p j : Nat) (q : Purse) : (s.setPurse p j q).stores = s.stores := rfl
@[simp] theorem State.setPurse_pubCount (s : State) (p j : Nat) (q : Purse) : (s.setPurse p j q).pubCount = s.pubCount := rfl
@[simp] theorem State.setPurse_joins (s : State) (p j : Nat) (q : Purse) : (s.setPurse p j q).joins = s.joins := rfl
@[simp] theorem State.setPurse_leases (s : State) (p j : Nat) (q : Purse) : (s.setPurse p j q).leases = s.leases := rfl
@[simp] theorem State.setPurse_scrubs (s : State) (p j : Nat) (q : Purse) : (s.setPurse p j q).scrubs = s.scrubs := rfl
@[simp] theorem State.setPurse_owners (s : State) (p j : Nat) (q : Purse) : (s.setPurse p j q).owners = s.owners := rfl
@[simp] theorem State.setPurse_parts (s : State) (p j : Nat) (q : Purse) : (s.setPurse p j q).parts = s.parts := rfl
@[simp] theorem State.setPurse_jobs (s : State) (p j : Nat) (q : Purse) : (s.setPurse p j q).jobs = s.jobs := rfl
@[simp] theorem State.setPurse_asidGen (s : State) (p j : Nat) (q : Purse) : (s.setPurse p j q).asidGen = s.asidGen := rfl
@[simp] theorem State.setPurse_tlbs (s : State) (p j : Nat) (q : Purse) : (s.setPurse p j q).tlbs = s.tlbs := rfl
@[simp] theorem State.setPurse_hyperInvs (s : State) (p j : Nat) (q : Purse) : (s.setPurse p j q).hyperInvs = s.hyperInvs := rfl
@[simp] theorem State.setPurse_rings (s : State) (p j : Nat) (q : Purse) : (s.setPurse p j q).rings = s.rings := rfl
@[simp] theorem State.setPurse_captures (s : State) (p j : Nat) (q : Purse) : (s.setPurse p j q).captures = s.captures := rfl
@[simp] theorem State.setPurse_hostSeq (s : State) (p j : Nat) (q : Purse) : (s.setPurse p j q).hostSeq = s.hostSeq := rfl
@[simp] theorem State.setPurse_graphs (s : State) (p j : Nat) (q : Purse) : (s.setPurse p j q).graphs = s.graphs := rfl
@[simp] theorem State.setPurse_launches (s : State) (p j : Nat) (q : Purse) : (s.setPurse p j q).launches = s.launches := rfl
@[simp] theorem State.setPurse_units (s : State) (p j : Nat) (q : Purse) : (s.setPurse p j q).units = s.units := rfl
@[simp] theorem State.setPurse_nextGraph (s : State) (p j : Nat) (q : Purse) : (s.setPurse p j q).nextGraph = s.nextGraph := rfl
@[simp] theorem State.setPurse_nextLaunch (s : State) (p j : Nat) (q : Purse) : (s.setPurse p j q).nextLaunch = s.nextLaunch := rfl
@[simp] theorem State.setPurse_placers (s : State) (p j : Nat) (q : Purse) : (s.setPurse p j q).placers = s.placers := rfl
@[simp] theorem State.setPurse_saves (s : State) (p j : Nat) (q : Purse) : (s.setPurse p j q).saves = s.saves := rfl
@[simp] theorem State.setPurse_heldIncs (s : State) (p j : Nat) (q : Purse) : (s.setPurse p j q).heldIncs = s.heldIncs := rfl
@[simp] theorem State.setPurse_colls (s : State) (p j : Nat) (q : Purse) : (s.setPurse p j q).colls = s.colls := rfl
@[simp] theorem State.setPurse_heldTransfers (s : State) (p j : Nat) (q : Purse) : (s.setPurse p j q).heldTransfers = s.heldTransfers := rfl
@[simp] theorem State.setPurse_collArb (s : State) (p j : Nat) (q : Purse) : (s.setPurse p j q).collArb = s.collArb := rfl
@[simp] theorem State.setPurse_peers (s : State) (p j : Nat) (q : Purse) : (s.setPurse p j q).peers = s.peers := rfl
@[simp] theorem State.setPurse_outbox (s : State) (p j : Nat) (q : Purse) : (s.setPurse p j q).outbox = s.outbox := rfl
@[simp] theorem State.setPurse_reduces (s : State) (p j : Nat) (q : Purse) : (s.setPurse p j q).reduces = s.reduces := rfl
@[simp] theorem State.setPurse_keeper (s : State) (p j : Nat) (q : Purse) : (s.setPurse p j q).keeper = s.keeper := rfl
@[simp] theorem State.setPurse_platform (s : State) (p j : Nat) (q : Purse) : (s.setPurse p j q).platform = s.platform := rfl
@[simp] theorem State.setPurse_responses (s : State) (p j : Nat) (q : Purse) : (s.setPurse p j q).responses = s.responses := rfl
@[simp] theorem State.setPurse_mail (s : State) (p j : Nat) (q : Purse) : (s.setPurse p j q).mail = s.mail := rfl
@[simp] theorem State.setPurse_script (s : State) (p j : Nat) (q : Purse) : (s.setPurse p j q).script = s.script := rfl
@[simp] theorem State.setPurse_agenda (s : State) (p j : Nat) (q : Purse) : (s.setPurse p j q).agenda = s.agenda := rfl
@[simp] theorem State.setPurse_timers (s : State) (p j : Nat) (q : Purse) : (s.setPurse p j q).timers = s.timers := rfl
@[simp] theorem State.setPurse_cur (s : State) (p j : Nat) (q : Purse) : (s.setPurse p j q).cur = s.cur := rfl
@[simp] theorem State.setPurse_fresh (s : State) (p j : Nat) (q : Purse) : (s.setPurse p j q).fresh = s.fresh := rfl
@[simp] theorem State.credit_tick (s : State) (p j n : Nat) : (s.credit p j n).tick = s.tick := rfl
@[simp] theorem State.credit_dies (s : State) (p j n : Nat) : (s.credit p j n).dies = s.dies := rfl
@[simp] theorem State.credit_cores (s : State) (p j n : Nat) : (s.credit p j n).cores = s.cores := rfl
@[simp] theorem State.credit_mem (s : State) (p j n : Nat) : (s.credit p j n).mem = s.mem := rfl
@[simp] theorem State.credit_poison (s : State) (p j n : Nat) : (s.credit p j n).poison = s.poison := rfl
@[simp] theorem State.credit_stores (s : State) (p j n : Nat) : (s.credit p j n).stores = s.stores := rfl
@[simp] theorem State.credit_pubCount (s : State) (p j n : Nat) : (s.credit p j n).pubCount = s.pubCount := rfl
@[simp] theorem State.credit_joins (s : State) (p j n : Nat) : (s.credit p j n).joins = s.joins := rfl
@[simp] theorem State.credit_leases (s : State) (p j n : Nat) : (s.credit p j n).leases = s.leases := rfl
@[simp] theorem State.credit_scrubs (s : State) (p j n : Nat) : (s.credit p j n).scrubs = s.scrubs := rfl
@[simp] theorem State.credit_owners (s : State) (p j n : Nat) : (s.credit p j n).owners = s.owners := rfl
@[simp] theorem State.credit_parts (s : State) (p j n : Nat) : (s.credit p j n).parts = s.parts := rfl
@[simp] theorem State.credit_jobs (s : State) (p j n : Nat) : (s.credit p j n).jobs = s.jobs := rfl
@[simp] theorem State.credit_asidGen (s : State) (p j n : Nat) : (s.credit p j n).asidGen = s.asidGen := rfl
@[simp] theorem State.credit_tlbs (s : State) (p j n : Nat) : (s.credit p j n).tlbs = s.tlbs := rfl
@[simp] theorem State.credit_hyperInvs (s : State) (p j n : Nat) : (s.credit p j n).hyperInvs = s.hyperInvs := rfl
@[simp] theorem State.credit_rings (s : State) (p j n : Nat) : (s.credit p j n).rings = s.rings := rfl
@[simp] theorem State.credit_captures (s : State) (p j n : Nat) : (s.credit p j n).captures = s.captures := rfl
@[simp] theorem State.credit_hostSeq (s : State) (p j n : Nat) : (s.credit p j n).hostSeq = s.hostSeq := rfl
@[simp] theorem State.credit_graphs (s : State) (p j n : Nat) : (s.credit p j n).graphs = s.graphs := rfl
@[simp] theorem State.credit_launches (s : State) (p j n : Nat) : (s.credit p j n).launches = s.launches := rfl
@[simp] theorem State.credit_units (s : State) (p j n : Nat) : (s.credit p j n).units = s.units := rfl
@[simp] theorem State.credit_nextGraph (s : State) (p j n : Nat) : (s.credit p j n).nextGraph = s.nextGraph := rfl
@[simp] theorem State.credit_nextLaunch (s : State) (p j n : Nat) : (s.credit p j n).nextLaunch = s.nextLaunch := rfl
@[simp] theorem State.credit_placers (s : State) (p j n : Nat) : (s.credit p j n).placers = s.placers := rfl
@[simp] theorem State.credit_saves (s : State) (p j n : Nat) : (s.credit p j n).saves = s.saves := rfl
@[simp] theorem State.credit_heldIncs (s : State) (p j n : Nat) : (s.credit p j n).heldIncs = s.heldIncs := rfl
@[simp] theorem State.credit_colls (s : State) (p j n : Nat) : (s.credit p j n).colls = s.colls := rfl
@[simp] theorem State.credit_heldTransfers (s : State) (p j n : Nat) : (s.credit p j n).heldTransfers = s.heldTransfers := rfl
@[simp] theorem State.credit_collArb (s : State) (p j n : Nat) : (s.credit p j n).collArb = s.collArb := rfl
@[simp] theorem State.credit_peers (s : State) (p j n : Nat) : (s.credit p j n).peers = s.peers := rfl
@[simp] theorem State.credit_outbox (s : State) (p j n : Nat) : (s.credit p j n).outbox = s.outbox := rfl
@[simp] theorem State.credit_reduces (s : State) (p j n : Nat) : (s.credit p j n).reduces = s.reduces := rfl
@[simp] theorem State.credit_keeper (s : State) (p j n : Nat) : (s.credit p j n).keeper = s.keeper := rfl
@[simp] theorem State.credit_platform (s : State) (p j n : Nat) : (s.credit p j n).platform = s.platform := rfl
@[simp] theorem State.credit_responses (s : State) (p j n : Nat) : (s.credit p j n).responses = s.responses := rfl
@[simp] theorem State.credit_mail (s : State) (p j n : Nat) : (s.credit p j n).mail = s.mail := rfl
@[simp] theorem State.credit_script (s : State) (p j n : Nat) : (s.credit p j n).script = s.script := rfl
@[simp] theorem State.credit_agenda (s : State) (p j n : Nat) : (s.credit p j n).agenda = s.agenda := rfl
@[simp] theorem State.credit_timers (s : State) (p j n : Nat) : (s.credit p j n).timers = s.timers := rfl
@[simp] theorem State.credit_cur (s : State) (p j n : Nat) : (s.credit p j n).cur = s.cur := rfl
@[simp] theorem State.credit_fresh (s : State) (p j n : Nat) : (s.credit p j n).fresh = s.fresh := rfl
@[simp] theorem Core.setG_csr (c : Core) (n : Nat) (v : W32) : (c.setG n v).csr = c.csr := rfl
@[simp] theorem Core.setG_c (c : Core) (n : Nat) (v : W32) : (c.setG n v).c = c.c := rfl
@[simp] theorem Core.setG_v (c : Core) (n : Nat) (v : W32) : (c.setG n v).v = c.v := rfl
@[simp] theorem Core.setG_m (c : Core) (n : Nat) (v : W32) : (c.setG n v).m = c.m := rfl
@[simp] theorem Core.setG_x (c : Core) (n : Nat) (v : W32) : (c.setG n v).x = c.x := rfl
@[simp] theorem Core.setG_vec (c : Core) (n : Nat) (v : W32) : (c.setG n v).vec = c.vec := rfl
@[simp] theorem Core.setG_head (c : Core) (n : Nat) (v : W32) : (c.setG n v).head = c.head := rfl
@[simp] theorem Core.setG_pendn (c : Core) (n : Nat) (v : W32) : (c.setG n v).pendn = c.pendn := rfl
@[simp] theorem Core.setG_portR (c : Core) (n : Nat) (v : W32) : (c.setG n v).portR = c.portR := rfl
@[simp] theorem Core.setG_portW (c : Core) (n : Nat) (v : W32) : (c.setG n v).portW = c.portW := rfl
@[simp] theorem Core.setG_sweep (c : Core) (n : Nat) (v : W32) : (c.setG n v).sweep = c.sweep := rfl
@[simp] theorem Core.setG_vtarget (c : Core) (n : Nat) (v : W32) : (c.setG n v).vtarget = c.vtarget := rfl
@[simp] theorem Core.setG_offcutGoing (c : Core) (n : Nat) (v : W32) : (c.setG n v).offcutGoing = c.offcutGoing := rfl
@[simp] theorem Core.setG_mat (c : Core) (n : Nat) (v : W32) : (c.setG n v).mat = c.mat := rfl
@[simp] theorem Core.setG_copy (c : Core) (n : Nat) (v : W32) : (c.setG n v).copy = c.copy := rfl
@[simp] theorem Core.setG_dict (c : Core) (n : Nat) (v : W32) : (c.setG n v).dict = c.dict := rfl
@[simp] theorem Core.setG_cqv (c : Core) (n : Nat) (v : W32) : (c.setG n v).cqv = c.cqv := rfl
@[simp] theorem Core.setG_cqm (c : Core) (n : Nat) (v : W32) : (c.setG n v).cqm = c.cqm := rfl
@[simp] theorem Core.setG_dowel (c : Core) (n : Nat) (v : W32) : (c.setG n v).dowel = c.dowel := rfl
@[simp] theorem Core.setG_flights (c : Core) (n : Nat) (v : W32) : (c.setG n v).flights = c.flights := rfl
@[simp] theorem Core.setG_nextId (c : Core) (n : Nat) (v : W32) : (c.setG n v).nextId = c.nextId := rfl
@[simp] theorem Core.setG_snap (c : Core) (n : Nat) (v : W32) : (c.setG n v).snap = c.snap := rfl
@[simp] theorem Core.setG_ctl (c : Core) (n : Nat) (v : W32) : (c.setG n v).ctl = c.ctl := rfl
@[simp] theorem Core.setG_seat (c : Core) (n : Nat) (v : W32) : (c.setG n v).seat = c.seat := rfl
@[simp] theorem Core.setG_health (c : Core) (n : Nat) (v : W32) : (c.setG n v).health = c.health := rfl
@[simp] theorem Core.setCond_csr (c : Core) (n : Nat) (b : Bool) (r : Nat) : (c.setCond n b r).csr = c.csr := rfl
@[simp] theorem Core.setCond_c (c : Core) (n : Nat) (b : Bool) (r : Nat) : (c.setCond n b r).c = c.c := rfl
@[simp] theorem Core.setCond_v (c : Core) (n : Nat) (b : Bool) (r : Nat) : (c.setCond n b r).v = c.v := rfl
@[simp] theorem Core.setCond_m (c : Core) (n : Nat) (b : Bool) (r : Nat) : (c.setCond n b r).m = c.m := rfl
@[simp] theorem Core.setCond_x (c : Core) (n : Nat) (b : Bool) (r : Nat) : (c.setCond n b r).x = c.x := rfl
@[simp] theorem Core.setCond_vec (c : Core) (n : Nat) (b : Bool) (r : Nat) : (c.setCond n b r).vec = c.vec := rfl
@[simp] theorem Core.setCond_head (c : Core) (n : Nat) (b : Bool) (r : Nat) : (c.setCond n b r).head = c.head := rfl
@[simp] theorem Core.setCond_pendn (c : Core) (n : Nat) (b : Bool) (r : Nat) : (c.setCond n b r).pendn = c.pendn := rfl
@[simp] theorem Core.setCond_portR (c : Core) (n : Nat) (b : Bool) (r : Nat) : (c.setCond n b r).portR = c.portR := rfl
@[simp] theorem Core.setCond_portW (c : Core) (n : Nat) (b : Bool) (r : Nat) : (c.setCond n b r).portW = c.portW := rfl
@[simp] theorem Core.setCond_sweep (c : Core) (n : Nat) (b : Bool) (r : Nat) : (c.setCond n b r).sweep = c.sweep := rfl
@[simp] theorem Core.setCond_vtarget (c : Core) (n : Nat) (b : Bool) (r : Nat) : (c.setCond n b r).vtarget = c.vtarget := rfl
@[simp] theorem Core.setCond_offcutGoing (c : Core) (n : Nat) (b : Bool) (r : Nat) : (c.setCond n b r).offcutGoing = c.offcutGoing := rfl
@[simp] theorem Core.setCond_mat (c : Core) (n : Nat) (b : Bool) (r : Nat) : (c.setCond n b r).mat = c.mat := rfl
@[simp] theorem Core.setCond_copy (c : Core) (n : Nat) (b : Bool) (r : Nat) : (c.setCond n b r).copy = c.copy := rfl
@[simp] theorem Core.setCond_dict (c : Core) (n : Nat) (b : Bool) (r : Nat) : (c.setCond n b r).dict = c.dict := rfl
@[simp] theorem Core.setCond_cqv (c : Core) (n : Nat) (b : Bool) (r : Nat) : (c.setCond n b r).cqv = c.cqv := rfl
@[simp] theorem Core.setCond_cqm (c : Core) (n : Nat) (b : Bool) (r : Nat) : (c.setCond n b r).cqm = c.cqm := rfl
@[simp] theorem Core.setCond_dowel (c : Core) (n : Nat) (b : Bool) (r : Nat) : (c.setCond n b r).dowel = c.dowel := rfl
@[simp] theorem Core.setCond_flights (c : Core) (n : Nat) (b : Bool) (r : Nat) : (c.setCond n b r).flights = c.flights := rfl
@[simp] theorem Core.setCond_nextId (c : Core) (n : Nat) (b : Bool) (r : Nat) : (c.setCond n b r).nextId = c.nextId := rfl
@[simp] theorem Core.setCond_snap (c : Core) (n : Nat) (b : Bool) (r : Nat) : (c.setCond n b r).snap = c.snap := rfl
@[simp] theorem Core.setCond_ctl (c : Core) (n : Nat) (b : Bool) (r : Nat) : (c.setCond n b r).ctl = c.ctl := rfl
@[simp] theorem Core.setCond_seat (c : Core) (n : Nat) (b : Bool) (r : Nat) : (c.setCond n b r).seat = c.seat := rfl
@[simp] theorem Core.setCond_health (c : Core) (n : Nat) (b : Bool) (r : Nat) : (c.setCond n b r).health = c.health := rfl
@[simp] theorem Core.setTarget_csr (c : Core) (n t : Nat) : (c.setTarget n t).csr = c.csr := rfl
@[simp] theorem Core.setTarget_c (c : Core) (n t : Nat) : (c.setTarget n t).c = c.c := rfl
@[simp] theorem Core.setTarget_v (c : Core) (n t : Nat) : (c.setTarget n t).v = c.v := rfl
@[simp] theorem Core.setTarget_m (c : Core) (n t : Nat) : (c.setTarget n t).m = c.m := rfl
@[simp] theorem Core.setTarget_x (c : Core) (n t : Nat) : (c.setTarget n t).x = c.x := rfl
@[simp] theorem Core.setTarget_vec (c : Core) (n t : Nat) : (c.setTarget n t).vec = c.vec := rfl
@[simp] theorem Core.setTarget_head (c : Core) (n t : Nat) : (c.setTarget n t).head = c.head := rfl
@[simp] theorem Core.setTarget_pendn (c : Core) (n t : Nat) : (c.setTarget n t).pendn = c.pendn := rfl
@[simp] theorem Core.setTarget_portR (c : Core) (n t : Nat) : (c.setTarget n t).portR = c.portR := rfl
@[simp] theorem Core.setTarget_portW (c : Core) (n t : Nat) : (c.setTarget n t).portW = c.portW := rfl
@[simp] theorem Core.setTarget_sweep (c : Core) (n t : Nat) : (c.setTarget n t).sweep = c.sweep := rfl
@[simp] theorem Core.setTarget_vtarget (c : Core) (n t : Nat) : (c.setTarget n t).vtarget = c.vtarget := rfl
@[simp] theorem Core.setTarget_offcutGoing (c : Core) (n t : Nat) : (c.setTarget n t).offcutGoing = c.offcutGoing := rfl
@[simp] theorem Core.setTarget_mat (c : Core) (n t : Nat) : (c.setTarget n t).mat = c.mat := rfl
@[simp] theorem Core.setTarget_copy (c : Core) (n t : Nat) : (c.setTarget n t).copy = c.copy := rfl
@[simp] theorem Core.setTarget_dict (c : Core) (n t : Nat) : (c.setTarget n t).dict = c.dict := rfl
@[simp] theorem Core.setTarget_cqv (c : Core) (n t : Nat) : (c.setTarget n t).cqv = c.cqv := rfl
@[simp] theorem Core.setTarget_cqm (c : Core) (n t : Nat) : (c.setTarget n t).cqm = c.cqm := rfl
@[simp] theorem Core.setTarget_dowel (c : Core) (n t : Nat) : (c.setTarget n t).dowel = c.dowel := rfl
@[simp] theorem Core.setTarget_flights (c : Core) (n t : Nat) : (c.setTarget n t).flights = c.flights := rfl
@[simp] theorem Core.setTarget_nextId (c : Core) (n t : Nat) : (c.setTarget n t).nextId = c.nextId := rfl
@[simp] theorem Core.setTarget_snap (c : Core) (n t : Nat) : (c.setTarget n t).snap = c.snap := rfl
@[simp] theorem Core.setTarget_ctl (c : Core) (n t : Nat) : (c.setTarget n t).ctl = c.ctl := rfl
@[simp] theorem Core.setTarget_seat (c : Core) (n t : Nat) : (c.setTarget n t).seat = c.seat := rfl
@[simp] theorem Core.setTarget_health (c : Core) (n t : Nat) : (c.setTarget n t).health = c.health := rfl
@[simp] theorem Core.setH_csr (c : Core) (n : Nat) (v : BitVec 128) : (c.setH n v).csr = c.csr := rfl
@[simp] theorem Core.setH_c (c : Core) (n : Nat) (v : BitVec 128) : (c.setH n v).c = c.c := rfl
@[simp] theorem Core.setH_v (c : Core) (n : Nat) (v : BitVec 128) : (c.setH n v).v = c.v := rfl
@[simp] theorem Core.setH_m (c : Core) (n : Nat) (v : BitVec 128) : (c.setH n v).m = c.m := rfl
@[simp] theorem Core.setH_x (c : Core) (n : Nat) (v : BitVec 128) : (c.setH n v).x = c.x := rfl
@[simp] theorem Core.setH_vec (c : Core) (n : Nat) (v : BitVec 128) : (c.setH n v).vec = c.vec := rfl
@[simp] theorem Core.setH_head (c : Core) (n : Nat) (v : BitVec 128) : (c.setH n v).head = c.head := rfl
@[simp] theorem Core.setH_pendn (c : Core) (n : Nat) (v : BitVec 128) : (c.setH n v).pendn = c.pendn := rfl
@[simp] theorem Core.setH_portR (c : Core) (n : Nat) (v : BitVec 128) : (c.setH n v).portR = c.portR := rfl
@[simp] theorem Core.setH_portW (c : Core) (n : Nat) (v : BitVec 128) : (c.setH n v).portW = c.portW := rfl
@[simp] theorem Core.setH_sweep (c : Core) (n : Nat) (v : BitVec 128) : (c.setH n v).sweep = c.sweep := rfl
@[simp] theorem Core.setH_vtarget (c : Core) (n : Nat) (v : BitVec 128) : (c.setH n v).vtarget = c.vtarget := rfl
@[simp] theorem Core.setH_offcutGoing (c : Core) (n : Nat) (v : BitVec 128) : (c.setH n v).offcutGoing = c.offcutGoing := rfl
@[simp] theorem Core.setH_mat (c : Core) (n : Nat) (v : BitVec 128) : (c.setH n v).mat = c.mat := rfl
@[simp] theorem Core.setH_copy (c : Core) (n : Nat) (v : BitVec 128) : (c.setH n v).copy = c.copy := rfl
@[simp] theorem Core.setH_dict (c : Core) (n : Nat) (v : BitVec 128) : (c.setH n v).dict = c.dict := rfl
@[simp] theorem Core.setH_cqv (c : Core) (n : Nat) (v : BitVec 128) : (c.setH n v).cqv = c.cqv := rfl
@[simp] theorem Core.setH_cqm (c : Core) (n : Nat) (v : BitVec 128) : (c.setH n v).cqm = c.cqm := rfl
@[simp] theorem Core.setH_dowel (c : Core) (n : Nat) (v : BitVec 128) : (c.setH n v).dowel = c.dowel := rfl
@[simp] theorem Core.setH_flights (c : Core) (n : Nat) (v : BitVec 128) : (c.setH n v).flights = c.flights := rfl
@[simp] theorem Core.setH_nextId (c : Core) (n : Nat) (v : BitVec 128) : (c.setH n v).nextId = c.nextId := rfl
@[simp] theorem Core.setH_snap (c : Core) (n : Nat) (v : BitVec 128) : (c.setH n v).snap = c.snap := rfl
@[simp] theorem Core.setH_ctl (c : Core) (n : Nat) (v : BitVec 128) : (c.setH n v).ctl = c.ctl := rfl
@[simp] theorem Core.setH_seat (c : Core) (n : Nat) (v : BitVec 128) : (c.setH n v).seat = c.seat := rfl
@[simp] theorem Core.setH_health (c : Core) (n : Nat) (v : BitVec 128) : (c.setH n v).health = c.health := rfl
@[simp] theorem Core.setT_csr (c : Core) (n : Nat) (v : BitVec 256) : (c.setT n v).csr = c.csr := rfl
@[simp] theorem Core.setT_c (c : Core) (n : Nat) (v : BitVec 256) : (c.setT n v).c = c.c := rfl
@[simp] theorem Core.setT_v (c : Core) (n : Nat) (v : BitVec 256) : (c.setT n v).v = c.v := rfl
@[simp] theorem Core.setT_m (c : Core) (n : Nat) (v : BitVec 256) : (c.setT n v).m = c.m := rfl
@[simp] theorem Core.setT_x (c : Core) (n : Nat) (v : BitVec 256) : (c.setT n v).x = c.x := rfl
@[simp] theorem Core.setT_vec (c : Core) (n : Nat) (v : BitVec 256) : (c.setT n v).vec = c.vec := rfl
@[simp] theorem Core.setT_head (c : Core) (n : Nat) (v : BitVec 256) : (c.setT n v).head = c.head := rfl
@[simp] theorem Core.setT_pendn (c : Core) (n : Nat) (v : BitVec 256) : (c.setT n v).pendn = c.pendn := rfl
@[simp] theorem Core.setT_portR (c : Core) (n : Nat) (v : BitVec 256) : (c.setT n v).portR = c.portR := rfl
@[simp] theorem Core.setT_portW (c : Core) (n : Nat) (v : BitVec 256) : (c.setT n v).portW = c.portW := rfl
@[simp] theorem Core.setT_sweep (c : Core) (n : Nat) (v : BitVec 256) : (c.setT n v).sweep = c.sweep := rfl
@[simp] theorem Core.setT_vtarget (c : Core) (n : Nat) (v : BitVec 256) : (c.setT n v).vtarget = c.vtarget := rfl
@[simp] theorem Core.setT_offcutGoing (c : Core) (n : Nat) (v : BitVec 256) : (c.setT n v).offcutGoing = c.offcutGoing := rfl
@[simp] theorem Core.setT_mat (c : Core) (n : Nat) (v : BitVec 256) : (c.setT n v).mat = c.mat := rfl
@[simp] theorem Core.setT_copy (c : Core) (n : Nat) (v : BitVec 256) : (c.setT n v).copy = c.copy := rfl
@[simp] theorem Core.setT_dict (c : Core) (n : Nat) (v : BitVec 256) : (c.setT n v).dict = c.dict := rfl
@[simp] theorem Core.setT_cqv (c : Core) (n : Nat) (v : BitVec 256) : (c.setT n v).cqv = c.cqv := rfl
@[simp] theorem Core.setT_cqm (c : Core) (n : Nat) (v : BitVec 256) : (c.setT n v).cqm = c.cqm := rfl
@[simp] theorem Core.setT_dowel (c : Core) (n : Nat) (v : BitVec 256) : (c.setT n v).dowel = c.dowel := rfl
@[simp] theorem Core.setT_flights (c : Core) (n : Nat) (v : BitVec 256) : (c.setT n v).flights = c.flights := rfl
@[simp] theorem Core.setT_nextId (c : Core) (n : Nat) (v : BitVec 256) : (c.setT n v).nextId = c.nextId := rfl
@[simp] theorem Core.setT_snap (c : Core) (n : Nat) (v : BitVec 256) : (c.setT n v).snap = c.snap := rfl
@[simp] theorem Core.setT_ctl (c : Core) (n : Nat) (v : BitVec 256) : (c.setT n v).ctl = c.ctl := rfl
@[simp] theorem Core.setT_seat (c : Core) (n : Nat) (v : BitVec 256) : (c.setT n v).seat = c.seat := rfl
@[simp] theorem Core.setT_health (c : Core) (n : Nat) (v : BitVec 256) : (c.setT n v).health = c.health := rfl
@[simp] theorem Core.setI_csr (c : Core) (n : Nat) (v : BitVec 128) : (c.setI n v).csr = c.csr := rfl
@[simp] theorem Core.setI_c (c : Core) (n : Nat) (v : BitVec 128) : (c.setI n v).c = c.c := rfl
@[simp] theorem Core.setI_v (c : Core) (n : Nat) (v : BitVec 128) : (c.setI n v).v = c.v := rfl
@[simp] theorem Core.setI_m (c : Core) (n : Nat) (v : BitVec 128) : (c.setI n v).m = c.m := rfl
@[simp] theorem Core.setI_x (c : Core) (n : Nat) (v : BitVec 128) : (c.setI n v).x = c.x := rfl
@[simp] theorem Core.setI_vec (c : Core) (n : Nat) (v : BitVec 128) : (c.setI n v).vec = c.vec := rfl
@[simp] theorem Core.setI_head (c : Core) (n : Nat) (v : BitVec 128) : (c.setI n v).head = c.head := rfl
@[simp] theorem Core.setI_pendn (c : Core) (n : Nat) (v : BitVec 128) : (c.setI n v).pendn = c.pendn := rfl
@[simp] theorem Core.setI_portR (c : Core) (n : Nat) (v : BitVec 128) : (c.setI n v).portR = c.portR := rfl
@[simp] theorem Core.setI_portW (c : Core) (n : Nat) (v : BitVec 128) : (c.setI n v).portW = c.portW := rfl
@[simp] theorem Core.setI_sweep (c : Core) (n : Nat) (v : BitVec 128) : (c.setI n v).sweep = c.sweep := rfl
@[simp] theorem Core.setI_vtarget (c : Core) (n : Nat) (v : BitVec 128) : (c.setI n v).vtarget = c.vtarget := rfl
@[simp] theorem Core.setI_offcutGoing (c : Core) (n : Nat) (v : BitVec 128) : (c.setI n v).offcutGoing = c.offcutGoing := rfl
@[simp] theorem Core.setI_mat (c : Core) (n : Nat) (v : BitVec 128) : (c.setI n v).mat = c.mat := rfl
@[simp] theorem Core.setI_copy (c : Core) (n : Nat) (v : BitVec 128) : (c.setI n v).copy = c.copy := rfl
@[simp] theorem Core.setI_dict (c : Core) (n : Nat) (v : BitVec 128) : (c.setI n v).dict = c.dict := rfl
@[simp] theorem Core.setI_cqv (c : Core) (n : Nat) (v : BitVec 128) : (c.setI n v).cqv = c.cqv := rfl
@[simp] theorem Core.setI_cqm (c : Core) (n : Nat) (v : BitVec 128) : (c.setI n v).cqm = c.cqm := rfl
@[simp] theorem Core.setI_dowel (c : Core) (n : Nat) (v : BitVec 128) : (c.setI n v).dowel = c.dowel := rfl
@[simp] theorem Core.setI_flights (c : Core) (n : Nat) (v : BitVec 128) : (c.setI n v).flights = c.flights := rfl
@[simp] theorem Core.setI_nextId (c : Core) (n : Nat) (v : BitVec 128) : (c.setI n v).nextId = c.nextId := rfl
@[simp] theorem Core.setI_snap (c : Core) (n : Nat) (v : BitVec 128) : (c.setI n v).snap = c.snap := rfl
@[simp] theorem Core.setI_ctl (c : Core) (n : Nat) (v : BitVec 128) : (c.setI n v).ctl = c.ctl := rfl
@[simp] theorem Core.setI_seat (c : Core) (n : Nat) (v : BitVec 128) : (c.setI n v).seat = c.seat := rfl
@[simp] theorem Core.setI_health (c : Core) (n : Nat) (v : BitVec 128) : (c.setI n v).health = c.health := rfl
@[simp] theorem Core.setO_csr (c : Core) (n : Nat) (v : W64) : (c.setO n v).csr = c.csr := rfl
@[simp] theorem Core.setO_c (c : Core) (n : Nat) (v : W64) : (c.setO n v).c = c.c := rfl
@[simp] theorem Core.setO_v (c : Core) (n : Nat) (v : W64) : (c.setO n v).v = c.v := rfl
@[simp] theorem Core.setO_m (c : Core) (n : Nat) (v : W64) : (c.setO n v).m = c.m := rfl
@[simp] theorem Core.setO_x (c : Core) (n : Nat) (v : W64) : (c.setO n v).x = c.x := rfl
@[simp] theorem Core.setO_vec (c : Core) (n : Nat) (v : W64) : (c.setO n v).vec = c.vec := rfl
@[simp] theorem Core.setO_head (c : Core) (n : Nat) (v : W64) : (c.setO n v).head = c.head := rfl
@[simp] theorem Core.setO_pendn (c : Core) (n : Nat) (v : W64) : (c.setO n v).pendn = c.pendn := rfl
@[simp] theorem Core.setO_portR (c : Core) (n : Nat) (v : W64) : (c.setO n v).portR = c.portR := rfl
@[simp] theorem Core.setO_portW (c : Core) (n : Nat) (v : W64) : (c.setO n v).portW = c.portW := rfl
@[simp] theorem Core.setO_sweep (c : Core) (n : Nat) (v : W64) : (c.setO n v).sweep = c.sweep := rfl
@[simp] theorem Core.setO_vtarget (c : Core) (n : Nat) (v : W64) : (c.setO n v).vtarget = c.vtarget := rfl
@[simp] theorem Core.setO_offcutGoing (c : Core) (n : Nat) (v : W64) : (c.setO n v).offcutGoing = c.offcutGoing := rfl
@[simp] theorem Core.setO_mat (c : Core) (n : Nat) (v : W64) : (c.setO n v).mat = c.mat := rfl
@[simp] theorem Core.setO_copy (c : Core) (n : Nat) (v : W64) : (c.setO n v).copy = c.copy := rfl
@[simp] theorem Core.setO_dict (c : Core) (n : Nat) (v : W64) : (c.setO n v).dict = c.dict := rfl
@[simp] theorem Core.setO_cqv (c : Core) (n : Nat) (v : W64) : (c.setO n v).cqv = c.cqv := rfl
@[simp] theorem Core.setO_cqm (c : Core) (n : Nat) (v : W64) : (c.setO n v).cqm = c.cqm := rfl
@[simp] theorem Core.setO_dowel (c : Core) (n : Nat) (v : W64) : (c.setO n v).dowel = c.dowel := rfl
@[simp] theorem Core.setO_flights (c : Core) (n : Nat) (v : W64) : (c.setO n v).flights = c.flights := rfl
@[simp] theorem Core.setO_nextId (c : Core) (n : Nat) (v : W64) : (c.setO n v).nextId = c.nextId := rfl
@[simp] theorem Core.setO_snap (c : Core) (n : Nat) (v : W64) : (c.setO n v).snap = c.snap := rfl
@[simp] theorem Core.setO_ctl (c : Core) (n : Nat) (v : W64) : (c.setO n v).ctl = c.ctl := rfl
@[simp] theorem Core.setO_seat (c : Core) (n : Nat) (v : W64) : (c.setO n v).seat = c.seat := rfl
@[simp] theorem Core.setO_health (c : Core) (n : Nat) (v : W64) : (c.setO n v).health = c.health := rfl
@[simp] theorem Core.setDowel_regs (c : Core) (p q : Engine) (n : Nat) : (c.setDowel p q n).regs = c.regs := rfl
@[simp] theorem Core.setDowel_csr (c : Core) (p q : Engine) (n : Nat) : (c.setDowel p q n).csr = c.csr := rfl
@[simp] theorem Core.setDowel_c (c : Core) (p q : Engine) (n : Nat) : (c.setDowel p q n).c = c.c := rfl
@[simp] theorem Core.setDowel_v (c : Core) (p q : Engine) (n : Nat) : (c.setDowel p q n).v = c.v := rfl
@[simp] theorem Core.setDowel_m (c : Core) (p q : Engine) (n : Nat) : (c.setDowel p q n).m = c.m := rfl
@[simp] theorem Core.setDowel_x (c : Core) (p q : Engine) (n : Nat) : (c.setDowel p q n).x = c.x := rfl
@[simp] theorem Core.setDowel_vec (c : Core) (p q : Engine) (n : Nat) : (c.setDowel p q n).vec = c.vec := rfl
@[simp] theorem Core.setDowel_head (c : Core) (p q : Engine) (n : Nat) : (c.setDowel p q n).head = c.head := rfl
@[simp] theorem Core.setDowel_pendn (c : Core) (p q : Engine) (n : Nat) : (c.setDowel p q n).pendn = c.pendn := rfl
@[simp] theorem Core.setDowel_portR (c : Core) (p q : Engine) (n : Nat) : (c.setDowel p q n).portR = c.portR := rfl
@[simp] theorem Core.setDowel_portW (c : Core) (p q : Engine) (n : Nat) : (c.setDowel p q n).portW = c.portW := rfl
@[simp] theorem Core.setDowel_sweep (c : Core) (p q : Engine) (n : Nat) : (c.setDowel p q n).sweep = c.sweep := rfl
@[simp] theorem Core.setDowel_vtarget (c : Core) (p q : Engine) (n : Nat) : (c.setDowel p q n).vtarget = c.vtarget := rfl
@[simp] theorem Core.setDowel_offcutGoing (c : Core) (p q : Engine) (n : Nat) : (c.setDowel p q n).offcutGoing = c.offcutGoing := rfl
@[simp] theorem Core.setDowel_mat (c : Core) (p q : Engine) (n : Nat) : (c.setDowel p q n).mat = c.mat := rfl
@[simp] theorem Core.setDowel_copy (c : Core) (p q : Engine) (n : Nat) : (c.setDowel p q n).copy = c.copy := rfl
@[simp] theorem Core.setDowel_dict (c : Core) (p q : Engine) (n : Nat) : (c.setDowel p q n).dict = c.dict := rfl
@[simp] theorem Core.setDowel_cqv (c : Core) (p q : Engine) (n : Nat) : (c.setDowel p q n).cqv = c.cqv := rfl
@[simp] theorem Core.setDowel_cqm (c : Core) (p q : Engine) (n : Nat) : (c.setDowel p q n).cqm = c.cqm := rfl
@[simp] theorem Core.setDowel_flights (c : Core) (p q : Engine) (n : Nat) : (c.setDowel p q n).flights = c.flights := rfl
@[simp] theorem Core.setDowel_nextId (c : Core) (p q : Engine) (n : Nat) : (c.setDowel p q n).nextId = c.nextId := rfl
@[simp] theorem Core.setDowel_snap (c : Core) (p q : Engine) (n : Nat) : (c.setDowel p q n).snap = c.snap := rfl
@[simp] theorem Core.setDowel_ctl (c : Core) (p q : Engine) (n : Nat) : (c.setDowel p q n).ctl = c.ctl := rfl
@[simp] theorem Core.setDowel_seat (c : Core) (p q : Engine) (n : Nat) : (c.setDowel p q n).seat = c.seat := rfl
@[simp] theorem Core.setDowel_health (c : Core) (p q : Engine) (n : Nat) : (c.setDowel p q n).health = c.health := rfl
@[simp] theorem Core.holdPort_regs (c : Core) (p : Port) (n : Nat) : (c.holdPort p n).regs = c.regs := rfl
@[simp] theorem Core.holdPort_csr (c : Core) (p : Port) (n : Nat) : (c.holdPort p n).csr = c.csr := rfl
@[simp] theorem Core.holdPort_c (c : Core) (p : Port) (n : Nat) : (c.holdPort p n).c = c.c := rfl
@[simp] theorem Core.holdPort_v (c : Core) (p : Port) (n : Nat) : (c.holdPort p n).v = c.v := rfl
@[simp] theorem Core.holdPort_m (c : Core) (p : Port) (n : Nat) : (c.holdPort p n).m = c.m := rfl
@[simp] theorem Core.holdPort_x (c : Core) (p : Port) (n : Nat) : (c.holdPort p n).x = c.x := rfl
@[simp] theorem Core.holdPort_vec (c : Core) (p : Port) (n : Nat) : (c.holdPort p n).vec = c.vec := rfl
@[simp] theorem Core.holdPort_head (c : Core) (p : Port) (n : Nat) : (c.holdPort p n).head = c.head := rfl
@[simp] theorem Core.holdPort_pendn (c : Core) (p : Port) (n : Nat) : (c.holdPort p n).pendn = c.pendn := rfl
@[simp] theorem Core.holdPort_sweep (c : Core) (p : Port) (n : Nat) : (c.holdPort p n).sweep = c.sweep := rfl
@[simp] theorem Core.holdPort_vtarget (c : Core) (p : Port) (n : Nat) : (c.holdPort p n).vtarget = c.vtarget := rfl
@[simp] theorem Core.holdPort_offcutGoing (c : Core) (p : Port) (n : Nat) : (c.holdPort p n).offcutGoing = c.offcutGoing := rfl
@[simp] theorem Core.holdPort_mat (c : Core) (p : Port) (n : Nat) : (c.holdPort p n).mat = c.mat := rfl
@[simp] theorem Core.holdPort_copy (c : Core) (p : Port) (n : Nat) : (c.holdPort p n).copy = c.copy := rfl
@[simp] theorem Core.holdPort_dict (c : Core) (p : Port) (n : Nat) : (c.holdPort p n).dict = c.dict := rfl
@[simp] theorem Core.holdPort_cqv (c : Core) (p : Port) (n : Nat) : (c.holdPort p n).cqv = c.cqv := rfl
@[simp] theorem Core.holdPort_cqm (c : Core) (p : Port) (n : Nat) : (c.holdPort p n).cqm = c.cqm := rfl
@[simp] theorem Core.holdPort_dowel (c : Core) (p : Port) (n : Nat) : (c.holdPort p n).dowel = c.dowel := rfl
@[simp] theorem Core.holdPort_flights (c : Core) (p : Port) (n : Nat) : (c.holdPort p n).flights = c.flights := rfl
@[simp] theorem Core.holdPort_nextId (c : Core) (p : Port) (n : Nat) : (c.holdPort p n).nextId = c.nextId := rfl
@[simp] theorem Core.holdPort_snap (c : Core) (p : Port) (n : Nat) : (c.holdPort p n).snap = c.snap := rfl
@[simp] theorem Core.holdPort_ctl (c : Core) (p : Port) (n : Nat) : (c.holdPort p n).ctl = c.ctl := rfl
@[simp] theorem Core.holdPort_seat (c : Core) (p : Port) (n : Nat) : (c.holdPort p n).seat = c.seat := rfl
@[simp] theorem Core.holdPort_health (c : Core) (p : Port) (n : Nat) : (c.holdPort p n).health = c.health := rfl
@[simp] theorem Core.setS_csr (c : Core) (n : Nat) (v : W64) : (c.setS n v).csr = c.csr := by unfold Core.setS; split <;> rfl
@[simp] theorem Core.setS_c (c : Core) (n : Nat) (v : W64) : (c.setS n v).c = c.c := by unfold Core.setS; split <;> rfl
@[simp] theorem Core.setS_v (c : Core) (n : Nat) (v : W64) : (c.setS n v).v = c.v := by unfold Core.setS; split <;> rfl
@[simp] theorem Core.setS_m (c : Core) (n : Nat) (v : W64) : (c.setS n v).m = c.m := by unfold Core.setS; split <;> rfl
@[simp] theorem Core.setS_x (c : Core) (n : Nat) (v : W64) : (c.setS n v).x = c.x := by unfold Core.setS; split <;> rfl
@[simp] theorem Core.setS_vec (c : Core) (n : Nat) (v : W64) : (c.setS n v).vec = c.vec := by unfold Core.setS; split <;> rfl
@[simp] theorem Core.setS_head (c : Core) (n : Nat) (v : W64) : (c.setS n v).head = c.head := by unfold Core.setS; split <;> rfl
@[simp] theorem Core.setS_pendn (c : Core) (n : Nat) (v : W64) : (c.setS n v).pendn = c.pendn := by unfold Core.setS; split <;> rfl
@[simp] theorem Core.setS_portR (c : Core) (n : Nat) (v : W64) : (c.setS n v).portR = c.portR := by unfold Core.setS; split <;> rfl
@[simp] theorem Core.setS_portW (c : Core) (n : Nat) (v : W64) : (c.setS n v).portW = c.portW := by unfold Core.setS; split <;> rfl
@[simp] theorem Core.setS_sweep (c : Core) (n : Nat) (v : W64) : (c.setS n v).sweep = c.sweep := by unfold Core.setS; split <;> rfl
@[simp] theorem Core.setS_vtarget (c : Core) (n : Nat) (v : W64) : (c.setS n v).vtarget = c.vtarget := by unfold Core.setS; split <;> rfl
@[simp] theorem Core.setS_offcutGoing (c : Core) (n : Nat) (v : W64) : (c.setS n v).offcutGoing = c.offcutGoing := by unfold Core.setS; split <;> rfl
@[simp] theorem Core.setS_mat (c : Core) (n : Nat) (v : W64) : (c.setS n v).mat = c.mat := by unfold Core.setS; split <;> rfl
@[simp] theorem Core.setS_copy (c : Core) (n : Nat) (v : W64) : (c.setS n v).copy = c.copy := by unfold Core.setS; split <;> rfl
@[simp] theorem Core.setS_dict (c : Core) (n : Nat) (v : W64) : (c.setS n v).dict = c.dict := by unfold Core.setS; split <;> rfl
@[simp] theorem Core.setS_cqv (c : Core) (n : Nat) (v : W64) : (c.setS n v).cqv = c.cqv := by unfold Core.setS; split <;> rfl
@[simp] theorem Core.setS_cqm (c : Core) (n : Nat) (v : W64) : (c.setS n v).cqm = c.cqm := by unfold Core.setS; split <;> rfl
@[simp] theorem Core.setS_dowel (c : Core) (n : Nat) (v : W64) : (c.setS n v).dowel = c.dowel := by unfold Core.setS; split <;> rfl
@[simp] theorem Core.setS_flights (c : Core) (n : Nat) (v : W64) : (c.setS n v).flights = c.flights := by unfold Core.setS; split <;> rfl
@[simp] theorem Core.setS_nextId (c : Core) (n : Nat) (v : W64) : (c.setS n v).nextId = c.nextId := by unfold Core.setS; split <;> rfl
@[simp] theorem Core.setS_snap (c : Core) (n : Nat) (v : W64) : (c.setS n v).snap = c.snap := by unfold Core.setS; split <;> rfl
@[simp] theorem Core.setS_ctl (c : Core) (n : Nat) (v : W64) : (c.setS n v).ctl = c.ctl := by unfold Core.setS; split <;> rfl
@[simp] theorem Core.setS_seat (c : Core) (n : Nat) (v : W64) : (c.setS n v).seat = c.seat := by unfold Core.setS; split <;> rfl
@[simp] theorem Core.setS_health (c : Core) (n : Nat) (v : W64) : (c.setS n v).health = c.health := by unfold Core.setS; split <;> rfl
@[simp] theorem Core.setS_regs_g (c : Core) (n : Nat) (v : W64) : (c.setS n v).regs.g = c.regs.g := by unfold Core.setS; split <;> rfl
@[simp] theorem Core.setS_regs_h (c : Core) (n : Nat) (v : W64) : (c.setS n v).regs.h = c.regs.h := by unfold Core.setS; split <;> rfl
@[simp] theorem Core.setS_regs_t (c : Core) (n : Nat) (v : W64) : (c.setS n v).regs.t = c.regs.t := by unfold Core.setS; split <;> rfl
@[simp] theorem Core.setS_regs_i (c : Core) (n : Nat) (v : W64) : (c.setS n v).regs.i = c.regs.i := by unfold Core.setS; split <;> rfl
@[simp] theorem Core.setS_regs_o (c : Core) (n : Nat) (v : W64) : (c.setS n v).regs.o = c.regs.o := by unfold Core.setS; split <;> rfl
@[simp] theorem Core.setS_regs_prepAc (c : Core) (n : Nat) (v : W64) : (c.setS n v).regs.prepAc = c.regs.prepAc := by unfold Core.setS; split <;> rfl
@[simp] theorem Core.awaitKey_csr (c : Core) (key a : Nat) : (c.awaitKey key a).csr = c.csr := rfl
@[simp] theorem Core.awaitKey_c (c : Core) (key a : Nat) : (c.awaitKey key a).c = c.c := rfl
@[simp] theorem Core.awaitKey_v (c : Core) (key a : Nat) : (c.awaitKey key a).v = c.v := rfl
@[simp] theorem Core.awaitKey_m (c : Core) (key a : Nat) : (c.awaitKey key a).m = c.m := rfl
@[simp] theorem Core.awaitKey_x (c : Core) (key a : Nat) : (c.awaitKey key a).x = c.x := rfl
@[simp] theorem Core.awaitKey_vec (c : Core) (key a : Nat) : (c.awaitKey key a).vec = c.vec := rfl
@[simp] theorem Core.awaitKey_head (c : Core) (key a : Nat) : (c.awaitKey key a).head = c.head := rfl
@[simp] theorem Core.awaitKey_pendn (c : Core) (key a : Nat) : (c.awaitKey key a).pendn = c.pendn := rfl
@[simp] theorem Core.awaitKey_portR (c : Core) (key a : Nat) : (c.awaitKey key a).portR = c.portR := rfl
@[simp] theorem Core.awaitKey_portW (c : Core) (key a : Nat) : (c.awaitKey key a).portW = c.portW := rfl
@[simp] theorem Core.awaitKey_sweep (c : Core) (key a : Nat) : (c.awaitKey key a).sweep = c.sweep := rfl
@[simp] theorem Core.awaitKey_vtarget (c : Core) (key a : Nat) : (c.awaitKey key a).vtarget = c.vtarget := rfl
@[simp] theorem Core.awaitKey_offcutGoing (c : Core) (key a : Nat) : (c.awaitKey key a).offcutGoing = c.offcutGoing := rfl
@[simp] theorem Core.awaitKey_mat (c : Core) (key a : Nat) : (c.awaitKey key a).mat = c.mat := rfl
@[simp] theorem Core.awaitKey_copy (c : Core) (key a : Nat) : (c.awaitKey key a).copy = c.copy := rfl
@[simp] theorem Core.awaitKey_dict (c : Core) (key a : Nat) : (c.awaitKey key a).dict = c.dict := rfl
@[simp] theorem Core.awaitKey_cqv (c : Core) (key a : Nat) : (c.awaitKey key a).cqv = c.cqv := rfl
@[simp] theorem Core.awaitKey_cqm (c : Core) (key a : Nat) : (c.awaitKey key a).cqm = c.cqm := rfl
@[simp] theorem Core.awaitKey_dowel (c : Core) (key a : Nat) : (c.awaitKey key a).dowel = c.dowel := rfl
@[simp] theorem Core.awaitKey_flights (c : Core) (key a : Nat) : (c.awaitKey key a).flights = c.flights := rfl
@[simp] theorem Core.awaitKey_nextId (c : Core) (key a : Nat) : (c.awaitKey key a).nextId = c.nextId := rfl
@[simp] theorem Core.awaitKey_snap (c : Core) (key a : Nat) : (c.awaitKey key a).snap = c.snap := rfl
@[simp] theorem Core.awaitKey_ctl (c : Core) (key a : Nat) : (c.awaitKey key a).ctl = c.ctl := rfl
@[simp] theorem Core.awaitKey_seat (c : Core) (key a : Nat) : (c.awaitKey key a).seat = c.seat := rfl
@[simp] theorem Core.awaitKey_health (c : Core) (key a : Nat) : (c.awaitKey key a).health = c.health := rfl
@[simp] theorem Core.awaitKey_regs_s (c : Core) (key a : Nat) : (c.awaitKey key a).regs.s = c.regs.s := rfl
@[simp] theorem Core.awaitKey_regs_g (c : Core) (key a : Nat) : (c.awaitKey key a).regs.g = c.regs.g := rfl
@[simp] theorem Core.awaitKey_regs_h (c : Core) (key a : Nat) : (c.awaitKey key a).regs.h = c.regs.h := rfl
@[simp] theorem Core.awaitKey_regs_t (c : Core) (key a : Nat) : (c.awaitKey key a).regs.t = c.regs.t := rfl
@[simp] theorem Core.awaitKey_regs_i (c : Core) (key a : Nat) : (c.awaitKey key a).regs.i = c.regs.i := rfl
@[simp] theorem Core.awaitKey_regs_o (c : Core) (key a : Nat) : (c.awaitKey key a).regs.o = c.regs.o := rfl
@[simp] theorem Core.awaitKey_regs_prepAc (c : Core) (key a : Nat) : (c.awaitKey key a).regs.prepAc = c.regs.prepAc := rfl
@[simp] theorem Core.awaitS_csr (c : Core) (n a i : Nat) : (c.awaitS n a i).csr = c.csr := by unfold Core.awaitS; split <;> rfl
@[simp] theorem Core.awaitS_c (c : Core) (n a i : Nat) : (c.awaitS n a i).c = c.c := by unfold Core.awaitS; split <;> rfl
@[simp] theorem Core.awaitS_v (c : Core) (n a i : Nat) : (c.awaitS n a i).v = c.v := by unfold Core.awaitS; split <;> rfl
@[simp] theorem Core.awaitS_m (c : Core) (n a i : Nat) : (c.awaitS n a i).m = c.m := by unfold Core.awaitS; split <;> rfl
@[simp] theorem Core.awaitS_x (c : Core) (n a i : Nat) : (c.awaitS n a i).x = c.x := by unfold Core.awaitS; split <;> rfl
@[simp] theorem Core.awaitS_vec (c : Core) (n a i : Nat) : (c.awaitS n a i).vec = c.vec := by unfold Core.awaitS; split <;> rfl
@[simp] theorem Core.awaitS_head (c : Core) (n a i : Nat) : (c.awaitS n a i).head = c.head := by unfold Core.awaitS; split <;> rfl
@[simp] theorem Core.awaitS_pendn (c : Core) (n a i : Nat) : (c.awaitS n a i).pendn = c.pendn := by unfold Core.awaitS; split <;> rfl
@[simp] theorem Core.awaitS_portR (c : Core) (n a i : Nat) : (c.awaitS n a i).portR = c.portR := by unfold Core.awaitS; split <;> rfl
@[simp] theorem Core.awaitS_portW (c : Core) (n a i : Nat) : (c.awaitS n a i).portW = c.portW := by unfold Core.awaitS; split <;> rfl
@[simp] theorem Core.awaitS_sweep (c : Core) (n a i : Nat) : (c.awaitS n a i).sweep = c.sweep := by unfold Core.awaitS; split <;> rfl
@[simp] theorem Core.awaitS_vtarget (c : Core) (n a i : Nat) : (c.awaitS n a i).vtarget = c.vtarget := by unfold Core.awaitS; split <;> rfl
@[simp] theorem Core.awaitS_offcutGoing (c : Core) (n a i : Nat) : (c.awaitS n a i).offcutGoing = c.offcutGoing := by unfold Core.awaitS; split <;> rfl
@[simp] theorem Core.awaitS_mat (c : Core) (n a i : Nat) : (c.awaitS n a i).mat = c.mat := by unfold Core.awaitS; split <;> rfl
@[simp] theorem Core.awaitS_copy (c : Core) (n a i : Nat) : (c.awaitS n a i).copy = c.copy := by unfold Core.awaitS; split <;> rfl
@[simp] theorem Core.awaitS_dict (c : Core) (n a i : Nat) : (c.awaitS n a i).dict = c.dict := by unfold Core.awaitS; split <;> rfl
@[simp] theorem Core.awaitS_cqv (c : Core) (n a i : Nat) : (c.awaitS n a i).cqv = c.cqv := by unfold Core.awaitS; split <;> rfl
@[simp] theorem Core.awaitS_cqm (c : Core) (n a i : Nat) : (c.awaitS n a i).cqm = c.cqm := by unfold Core.awaitS; split <;> rfl
@[simp] theorem Core.awaitS_dowel (c : Core) (n a i : Nat) : (c.awaitS n a i).dowel = c.dowel := by unfold Core.awaitS; split <;> rfl
@[simp] theorem Core.awaitS_flights (c : Core) (n a i : Nat) : (c.awaitS n a i).flights = c.flights := by unfold Core.awaitS; split <;> rfl
@[simp] theorem Core.awaitS_nextId (c : Core) (n a i : Nat) : (c.awaitS n a i).nextId = c.nextId := by unfold Core.awaitS; split <;> rfl
@[simp] theorem Core.awaitS_snap (c : Core) (n a i : Nat) : (c.awaitS n a i).snap = c.snap := by unfold Core.awaitS; split <;> rfl
@[simp] theorem Core.awaitS_ctl (c : Core) (n a i : Nat) : (c.awaitS n a i).ctl = c.ctl := by unfold Core.awaitS; split <;> rfl
@[simp] theorem Core.awaitS_seat (c : Core) (n a i : Nat) : (c.awaitS n a i).seat = c.seat := by unfold Core.awaitS; split <;> rfl
@[simp] theorem Core.awaitS_health (c : Core) (n a i : Nat) : (c.awaitS n a i).health = c.health := by unfold Core.awaitS; split <;> rfl
@[simp] theorem Core.awaitS_regs_s (c : Core) (n a i : Nat) : (c.awaitS n a i).regs.s = c.regs.s := by unfold Core.awaitS; split <;> rfl
@[simp] theorem Core.awaitS_regs_g (c : Core) (n a i : Nat) : (c.awaitS n a i).regs.g = c.regs.g := by unfold Core.awaitS; split <;> rfl
@[simp] theorem Core.awaitS_regs_h (c : Core) (n a i : Nat) : (c.awaitS n a i).regs.h = c.regs.h := by unfold Core.awaitS; split <;> rfl
@[simp] theorem Core.awaitS_regs_t (c : Core) (n a i : Nat) : (c.awaitS n a i).regs.t = c.regs.t := by unfold Core.awaitS; split <;> rfl
@[simp] theorem Core.awaitS_regs_i (c : Core) (n a i : Nat) : (c.awaitS n a i).regs.i = c.regs.i := by unfold Core.awaitS; split <;> rfl
@[simp] theorem Core.awaitS_regs_o (c : Core) (n a i : Nat) : (c.awaitS n a i).regs.o = c.regs.o := by unfold Core.awaitS; split <;> rfl
@[simp] theorem Core.awaitS_regs_prepAc (c : Core) (n a i : Nat) : (c.awaitS n a i).regs.prepAc = c.regs.prepAc := by unfold Core.awaitS; split <;> rfl
@[simp] theorem Core.setStream_regs (c : Core) (e : Engine) (st : Stream) : (c.setStream e st).regs = c.regs := by cases e <;> rfl
@[simp] theorem Core.setStream_csr (c : Core) (e : Engine) (st : Stream) : (c.setStream e st).csr = c.csr := by cases e <;> rfl
@[simp] theorem Core.setStream_vec (c : Core) (e : Engine) (st : Stream) : (c.setStream e st).vec = c.vec := by cases e <;> rfl
@[simp] theorem Core.setStream_head (c : Core) (e : Engine) (st : Stream) : (c.setStream e st).head = c.head := by cases e <;> rfl
@[simp] theorem Core.setStream_pendn (c : Core) (e : Engine) (st : Stream) : (c.setStream e st).pendn = c.pendn := by cases e <;> rfl
@[simp] theorem Core.setStream_portR (c : Core) (e : Engine) (st : Stream) : (c.setStream e st).portR = c.portR := by cases e <;> rfl
@[simp] theorem Core.setStream_portW (c : Core) (e : Engine) (st : Stream) : (c.setStream e st).portW = c.portW := by cases e <;> rfl
@[simp] theorem Core.setStream_sweep (c : Core) (e : Engine) (st : Stream) : (c.setStream e st).sweep = c.sweep := by cases e <;> rfl
@[simp] theorem Core.setStream_vtarget (c : Core) (e : Engine) (st : Stream) : (c.setStream e st).vtarget = c.vtarget := by cases e <;> rfl
@[simp] theorem Core.setStream_offcutGoing (c : Core) (e : Engine) (st : Stream) : (c.setStream e st).offcutGoing = c.offcutGoing := by cases e <;> rfl
@[simp] theorem Core.setStream_mat (c : Core) (e : Engine) (st : Stream) : (c.setStream e st).mat = c.mat := by cases e <;> rfl
@[simp] theorem Core.setStream_copy (c : Core) (e : Engine) (st : Stream) : (c.setStream e st).copy = c.copy := by cases e <;> rfl
@[simp] theorem Core.setStream_dict (c : Core) (e : Engine) (st : Stream) : (c.setStream e st).dict = c.dict := by cases e <;> rfl
@[simp] theorem Core.setStream_cqv (c : Core) (e : Engine) (st : Stream) : (c.setStream e st).cqv = c.cqv := by cases e <;> rfl
@[simp] theorem Core.setStream_cqm (c : Core) (e : Engine) (st : Stream) : (c.setStream e st).cqm = c.cqm := by cases e <;> rfl
@[simp] theorem Core.setStream_dowel (c : Core) (e : Engine) (st : Stream) : (c.setStream e st).dowel = c.dowel := by cases e <;> rfl
@[simp] theorem Core.setStream_flights (c : Core) (e : Engine) (st : Stream) : (c.setStream e st).flights = c.flights := by cases e <;> rfl
@[simp] theorem Core.setStream_nextId (c : Core) (e : Engine) (st : Stream) : (c.setStream e st).nextId = c.nextId := by cases e <;> rfl
@[simp] theorem Core.setStream_snap (c : Core) (e : Engine) (st : Stream) : (c.setStream e st).snap = c.snap := by cases e <;> rfl
@[simp] theorem Core.setStream_ctl (c : Core) (e : Engine) (st : Stream) : (c.setStream e st).ctl = c.ctl := by cases e <;> rfl
@[simp] theorem Core.setStream_seat (c : Core) (e : Engine) (st : Stream) : (c.setStream e st).seat = c.seat := by cases e <;> rfl
@[simp] theorem Core.setStream_health (c : Core) (e : Engine) (st : Stream) : (c.setStream e st).health = c.health := by cases e <;> rfl
@[simp] theorem Core.modStream_regs (c : Core) (e : Engine) (f : Stream → Stream) : (c.modStream e f).regs = c.regs := by cases e <;> rfl
@[simp] theorem Core.modStream_csr (c : Core) (e : Engine) (f : Stream → Stream) : (c.modStream e f).csr = c.csr := by cases e <;> rfl
@[simp] theorem Core.modStream_vec (c : Core) (e : Engine) (f : Stream → Stream) : (c.modStream e f).vec = c.vec := by cases e <;> rfl
@[simp] theorem Core.modStream_head (c : Core) (e : Engine) (f : Stream → Stream) : (c.modStream e f).head = c.head := by cases e <;> rfl
@[simp] theorem Core.modStream_pendn (c : Core) (e : Engine) (f : Stream → Stream) : (c.modStream e f).pendn = c.pendn := by cases e <;> rfl
@[simp] theorem Core.modStream_portR (c : Core) (e : Engine) (f : Stream → Stream) : (c.modStream e f).portR = c.portR := by cases e <;> rfl
@[simp] theorem Core.modStream_portW (c : Core) (e : Engine) (f : Stream → Stream) : (c.modStream e f).portW = c.portW := by cases e <;> rfl
@[simp] theorem Core.modStream_sweep (c : Core) (e : Engine) (f : Stream → Stream) : (c.modStream e f).sweep = c.sweep := by cases e <;> rfl
@[simp] theorem Core.modStream_vtarget (c : Core) (e : Engine) (f : Stream → Stream) : (c.modStream e f).vtarget = c.vtarget := by cases e <;> rfl
@[simp] theorem Core.modStream_offcutGoing (c : Core) (e : Engine) (f : Stream → Stream) : (c.modStream e f).offcutGoing = c.offcutGoing := by cases e <;> rfl
@[simp] theorem Core.modStream_mat (c : Core) (e : Engine) (f : Stream → Stream) : (c.modStream e f).mat = c.mat := by cases e <;> rfl
@[simp] theorem Core.modStream_copy (c : Core) (e : Engine) (f : Stream → Stream) : (c.modStream e f).copy = c.copy := by cases e <;> rfl
@[simp] theorem Core.modStream_dict (c : Core) (e : Engine) (f : Stream → Stream) : (c.modStream e f).dict = c.dict := by cases e <;> rfl
@[simp] theorem Core.modStream_cqv (c : Core) (e : Engine) (f : Stream → Stream) : (c.modStream e f).cqv = c.cqv := by cases e <;> rfl
@[simp] theorem Core.modStream_cqm (c : Core) (e : Engine) (f : Stream → Stream) : (c.modStream e f).cqm = c.cqm := by cases e <;> rfl
@[simp] theorem Core.modStream_dowel (c : Core) (e : Engine) (f : Stream → Stream) : (c.modStream e f).dowel = c.dowel := by cases e <;> rfl
@[simp] theorem Core.modStream_flights (c : Core) (e : Engine) (f : Stream → Stream) : (c.modStream e f).flights = c.flights := by cases e <;> rfl
@[simp] theorem Core.modStream_nextId (c : Core) (e : Engine) (f : Stream → Stream) : (c.modStream e f).nextId = c.nextId := by cases e <;> rfl
@[simp] theorem Core.modStream_snap (c : Core) (e : Engine) (f : Stream → Stream) : (c.modStream e f).snap = c.snap := by cases e <;> rfl
@[simp] theorem Core.modStream_ctl (c : Core) (e : Engine) (f : Stream → Stream) : (c.modStream e f).ctl = c.ctl := by cases e <;> rfl
@[simp] theorem Core.modStream_seat (c : Core) (e : Engine) (f : Stream → Stream) : (c.modStream e f).seat = c.seat := by cases e <;> rfl
@[simp] theorem Core.modStream_health (c : Core) (e : Engine) (f : Stream → Stream) : (c.modStream e f).health = c.health := by cases e <;> rfl

@[simp] theorem Core.setStream_stream (c : Core) (e : Engine) (st : Stream) : (c.setStream e st).stream e = st := by
  cases e <;> rfl
theorem Core.setStream_stream_ne (c : Core) (e f : Engine) (st : Stream) (h : e ≠ f) : (c.setStream e st).stream f = c.stream f := by
  cases e <;> cases f <;> first | rfl | exact absurd rfl h
@[simp] theorem Core.modStream_stream (c : Core) (e : Engine) (f : Stream → Stream) : (c.modStream e f).stream e = f (c.stream e) := by
  simp [Core.modStream]

end Sys2Proof.Machine
end

