-- ==== Sys2Proof/Laws/Words.lean ====
section
/-! SUPPORT. What a word does at issue and at retirement: one statement per shared operation (R44, R60, R81, R83, R124 to R127, R168). -/

namespace Sys2Proof.Machine

@[simp] theorem Core.pop_stream (c : Core) (e f : Engine) (w : Option (Engine × Nat)) : (c.pop e w).stream f = c.stream f := by
  cases w <;> cases f <;> rfl
@[simp] theorem Core.pop_flights (c : Core) (e : Engine) (w : Option (Engine × Nat)) : (c.pop e w).flights = c.flights := by
  cases w <;> rfl
@[simp] theorem Core.pop_regs (c : Core) (e : Engine) (w : Option (Engine × Nat)) : (c.pop e w).regs = c.regs := by
  cases w <;> rfl
@[simp] theorem Core.pop_csr (c : Core) (e : Engine) (w : Option (Engine × Nat)) : (c.pop e w).csr = c.csr := by
  cases w <;> rfl
@[simp] theorem Core.pop_vec (c : Core) (e : Engine) (w : Option (Engine × Nat)) : (c.pop e w).vec = c.vec := by
  cases w <;> rfl
@[simp] theorem Core.pop_mat (c : Core) (e : Engine) (w : Option (Engine × Nat)) : (c.pop e w).mat = c.mat := by
  cases w <;> rfl
@[simp] theorem Core.pop_nextId (c : Core) (e : Engine) (w : Option (Engine × Nat)) : (c.pop e w).nextId = c.nextId := by
  cases w <;> rfl

@[simp] theorem Core.pop_inh (c : Core) (e : Engine) (w : Option (Engine × Nat)) : (c.pop e w).inh = c.inh := by
  simp [Core.inh]

/-- The core of a word after it has issued (R60, R81, R125). -/
theorem State.finish_core (s : State) (occ lat : Nat) (target : Option Nat) (effects : List Effect) :
    (s.finish occ lat target effects).core s.cur.core =
      { ((s.core s.cur.core).pop s.cur.eng s.cur.frame.wait).modStream s.cur.eng (fun st =>
          { st.next s.cur (s.cur.eng != .c || !(s.core s.cur.core).inh) target with
            nextAc := s.acOf s.cur.core + (if s.cur.ext.isSome then 1 else 0) + occ, wait := .idle, heldFrom := none, broken := none }) with
        flights := (s.core s.cur.core).flights ++ [⟨(s.core s.cur.core).nextId, s.cur.eng, s.cur.frame.signal, effects, false, true⟩]
        nextId := (s.core s.cur.core).nextId + 1 } := by
  have soon (u : State) (l : List Instr) (n : Nat) : (u.soon l).core n = u.core n := rfl
  have after (u : State) (k m : Nat) (i : Instr) (n : Nat) : (u.after k m i).core n = u.core n := rfl
  unfold State.finish
  simp only
  split <;> split <;> simp_all

/-- Any other core is as before. -/
theorem State.finish_core_ne (s : State) (occ lat : Nat) (target : Option Nat) (effects : List Effect) (j : Nat) (h : j ≠ s.cur.core) :
    (s.finish occ lat target effects).core j = s.core j := by
  have soon (u : State) (l : List Instr) (n : Nat) : (u.soon l).core n = u.core n := rfl
  have after (u : State) (k m : Nat) (i : Instr) (n : Nat) : (u.after k m i).core n = u.core n := rfl
  unfold State.finish
  simp only
  split <;> split <;> simp only [soon, after, State.core_modCore_ne _ _ _ _ h]

/-- Of the package, a word that issues writes cores, timers and the agenda alone. -/
theorem State.finish_rest (s : State) (occ lat : Nat) (target : Option Nat) (effects : List Effect) :
    s.finish occ lat target effects =
      { s with
        cores := (s.finish occ lat target effects).cores
        timers := (s.finish occ lat target effects).timers
        agenda := (s.finish occ lat target effects).agenda } := by
  unfold State.finish
  simp only
  split <;> split <;> rfl

@[simp] theorem State.finish_mem (s : State) (occ lat : Nat) (target : Option Nat) (effects : List Effect) :
    (s.finish occ lat target effects).mem = s.mem := by
  rw [State.finish_rest]

/-- A word of C whose body is performed retires in time. -/
theorem cOp_done (s : State) (body : Core → Body) (s' : State) (occ lat : Nat) (target : Option Nat) (effects : List Effect)
    (tokens : (s.core s.cur.core).hasTokens .c s.cur.frame.wait = true)
    (room : (signalled s.cur.frame.signal).all (fun q => (s.core s.cur.core).dowelN .c q + (s.core s.cur.core).pending .c q < 16) = true)
    (h : body (s.core s.cur.core) = .done s' occ lat target effects) :
    cOp s body = .next (s'.finish occ lat target effects) := by
  simp only [cOp, tokens, room, h, Bool.not_true, Bool.false_eq_true, if_false]

/-- A word of C whose body faults pops nothing (R83). -/
theorem cOp_fault (s : State) (body : Core → Body) (r : Report)
    (tokens : (s.core s.cur.core).hasTokens .c s.cur.frame.wait = true)
    (room : (signalled s.cur.frame.signal).all (fun q => (s.core s.cur.core).dowelN .c q + (s.core s.cur.core).pending .c q < 16) = true)
    (h : body (s.core s.cur.core) = .fault r) : cOp s body = .next (s.faultHere r) := by
  simp only [cOp, tokens, room, h, Bool.not_true, Bool.false_eq_true, if_false]

/-- A word of C never stops the machine. -/
theorem cOp_next (s : State) (body : Core → Body) : ∃ t, cOp s body = .next t := by
  unfold cOp
  simp only
  repeat' split
  all_goals exact ⟨_, rfl⟩

/-- A word of V on tiles and masks, on a core (R124 to R126). -/
theorem vTile_done (s : State) (occ lat pops : Nat) (body : VCtx → Except Cause (List Effect)) (effs : List Effect)
    (core : s.cur.unit = none)
    (tokens : (s.core s.cur.core).hasTokens .v s.cur.frame.wait = true)
    (queue : pops = 0 ∨ pops ≤ (((s.core s.cur.core).cqv.take pops).filter (fun q => q.1 ≤ s.acOf s.cur.core)).length)
    (room : (signalled s.cur.frame.signal).all (fun q => (s.core s.cur.core).dowelN .v q + (s.core s.cur.core).pending .v q + 1 ≤ 64) = true)
    (h : body ⟨(s.core s.cur.core).vec, (s.core s.cur.core).csr.srkey, 0, ((s.core s.cur.core).cqv.take pops).map (·.2)⟩ = .ok effs) :
    vTile s occ lat pops body = .next
      ((s.setCore s.cur.core { s.core s.cur.core with cqv := (s.core s.cur.core).cqv.drop pops }).finish occ lat none effs) := by
  have q : (decide (pops > 0) && decide ((((s.core s.cur.core).cqv.take pops).filter (fun q => q.1 ≤ s.acOf s.cur.core)).length < pops)) = false := by
    rcases queue with rfl | hq
    · rfl
    · simp only [Bool.and_eq_false_iff, decide_eq_false_iff_not]
      exact .inr (by omega)
  simp only [vTile, core, tokens, q, room, h, Bool.not_true, Bool.false_eq_true, if_false]

theorem vTile_next (s : State) (occ lat pops : Nat) (body : VCtx → Except Cause (List Effect)) : ∃ t, vTile s occ lat pops body = .next t := by
  unfold vTile
  simp only
  repeat' split
  all_goals exact ⟨_, rfl⟩

/-- A word of V that only a core runs. -/
theorem vOp_done (s : State) (pops : Nat) (body : Core → List W64 → Body) (s' : State) (occ lat : Nat) (target : Option Nat) (effs : List Effect)
    (core : s.cur.unit = none)
    (tokens : (s.core s.cur.core).hasTokens .v s.cur.frame.wait = true)
    (queue : pops = 0 ∨ pops ≤ (((s.core s.cur.core).cqv.take pops).filter (fun q => q.1 ≤ s.acOf s.cur.core)).length)
    (room : (signalled s.cur.frame.signal).all (fun q => (s.core s.cur.core).dowelN .v q + (s.core s.cur.core).pending .v q + 1 ≤ 64) = true)
    (h : body (s.core s.cur.core) (((s.core s.cur.core).cqv.take pops).map (·.2)) = .done s' occ lat target effs) :
    vOp s pops body = .next ((s'.modCore s.cur.core (fun c => { c with cqv := c.cqv.drop pops })).finish occ lat target effs) := by
  have q : (decide (pops > 0) && decide ((((s.core s.cur.core).cqv.take pops).filter (fun q => q.1 ≤ s.acOf s.cur.core)).length < pops)) = false := by
    rcases queue with rfl | hq
    · rfl
    · simp only [Bool.and_eq_false_iff, decide_eq_false_iff_not]
      exact .inr (by omega)
  simp only [vOp, core, tokens, q, room, h, Option.isSome_none, Bool.not_true, Bool.false_eq_true, if_false]

theorem vOp_next (s : State) (pops : Nat) (body : Core → List W64 → Body) : ∃ t, vOp s pops body = .next t := by
  unfold vOp
  simp only
  repeat' split
  all_goals exact ⟨_, rfl⟩

theorem mOp_next (s : State) (pops : Nat) (body : Core → List W64 → MBody) : ∃ t, mOp s pops body = .next t := by
  unfold mOp
  simp only
  repeat' split
  all_goals exact ⟨_, rfl⟩

/-- A retiring flight writes its effects, and nothing of another core (R44, R125). -/
theorem State.retireFlight_none (s : State) (core : Nat) (e : Engine) (id : Nat)
    (h : (s.core core).flights.find? (fun f => f.id == id && f.eng == e && !f.retired) = none) : s.retireFlight core e id = s := by
  simp only [State.retireFlight, h]

end Sys2Proof.Machine
end

