-- ==== Sys2Proof/Laws/Claims.lean ====
section
/-! SUPPORT. The terms of the claims, tied to the shared operations. -/

namespace Sys2Proof.Claim

open Machine

theorem dowel_pop (c : Core) (e p q : Engine) (f : Frame) :
    (c.pop e f.wait).dowelN p q = c.dowelN p q - (if q = e then asked f p else 0) := by
  unfold Core.pop asked
  cases f.wait with
  | none => simp
  | some w =>
    obtain ⟨r, n⟩ := w
    simp only [Core.dowelN_setDowel]
    by_cases hq : q = e <;> by_cases hp : p = r <;> simp [hp, hq]

/-- What `finish` does to a state is what every word does when it issues. -/
theorem finish_issued (u : State) (occ lat : Nat) (target : Option Nat) (effs : List Effect) :
    Issued u (u.finish occ lat target effs) occ lat target effs := by
  have hc := State.finish_core u occ lat target effs
  have hcur : (u.finish occ lat target effs).cur = u.cur := by rw [State.finish_rest]
  have hh : here (u.finish occ lat target effs) = (u.finish occ lat target effs).core u.cur.core := by rw [here, hcur]
  refine ⟨State.finish_rest .., fun n h => State.finish_core_ne _ _ _ _ _ n h, ?_, ?_, ?_, ?_, ?_⟩
  · rw [hh, hc]
    cases he : u.cur.eng <;> cases hw : u.cur.frame.wait <;> rfl
  · intro e h
    rw [hh, hc]
    show (Core.modStream _ _ _).stream e = _
    rw [Core.modStream, Core.setStream_stream_ne _ _ _ _ (Ne.symm h), Core.pop_stream]
    rfl
  · rw [hh, hc]
    show (Core.modStream _ _ _).stream _ = _
    rw [Core.modStream_stream, Core.pop_stream]
    rfl
  · intro p q
    rw [hh, hc]
    show (Core.modStream _ _ _).dowelN p q = _
    have := dowel_pop (here u) u.cur.eng p q u.cur.frame
    rw [← this]
    cases u.cur.eng <;> rfl
  · unfold State.finish
    simp only [late, now, here]
    cases u.cur.ext <;> by_cases hl : lat = 0 <;> simp [hl, State.soon, State.after] <;> rfl

theorem ReadyC.hasTokens {s : State} (h : ReadyC s) : (s.core s.cur.core).hasTokens .c s.cur.frame.wait = true := by
  unfold Core.hasTokens
  cases hw : s.cur.frame.wait with
  | none => rfl
  | some w =>
    have := h.tokens w.1
    simpa [asked, hw, here] using this

theorem ReadyC.hasRoom {s : State} (h : ReadyC s) :
    (signalled s.cur.frame.signal).all (fun q => (s.core s.cur.core).dowelN .c q + (s.core s.cur.core).pending .c q < 16) = true := by
  simp only [signalled, List.all_eq_true, List.mem_filter, decide_eq_true_eq]
  exact fun q hq => h.room q hq.2

/-- A word of C that nothing holds, and whose body is performed. -/
theorem ReadyC.done {s : State} (h : ReadyC s) {body : Core → Body} {u : State} {occ lat : Nat} {target : Option Nat} {effs : List Effect}
    (hb : body (here s) = .done u occ lat target effs) :
    ∃ t, cOp s body = .next t ∧ Issued u t occ lat target effs :=
  ⟨_, cOp_done s body u occ lat target effs h.hasTokens h.hasRoom hb, finish_issued ..⟩

/-- The same of a meaning that is a word of C. -/
theorem ReadyC.runs {s : State} (h : ReadyC s) {o : Out} {body : Core → Body} (ho : o = cOp s body) {u : State} {occ lat : Nat}
    {target : Option Nat} {effs : List Effect} (hb : body (here s) = .done u occ lat target effs) :
    ∃ t, o = .next t ∧ Issued u t occ lat target effs := ho ▸ h.done hb

theorem ReadyC.fault {s : State} (h : ReadyC s) {body : Core → Body} {r : Report} (hb : body (here s) = .fault r) :
    cOp s body = .next (s.faultHere r) := cOp_fault s body r h.hasTokens h.hasRoom hb

theorem readable_cons (c : Core) (m : Nat) (t : Nat) : c.readable [m] t = (decide (m = 0) || decide ((spGet (0, 0) c.regs.due m).1 ≤ t)) := by
  simp [Core.readable]

theorem due_awaitS (c : Core) (n a i m : Nat) : spGet (0, 0) (c.awaitS n a i).regs.due m =
    if m = n ∧ n ≠ 0 then (a, i) else spGet (0, 0) c.regs.due m := by
  unfold Core.awaitS
  by_cases hn : n = 0
  · subst hn; simp
  · by_cases hm : m = n
    · subst hm; simp [hn]
    · simp [hn, hm, spGet_spPut_ne]

theorem due_setS (c : Core) (n : Nat) (v : W64) (m : Nat) : spGet (0, 0) (c.setS n v).regs.due m =
    if m = n ∧ n ≠ 0 then (0, 0) else spGet (0, 0) c.regs.due m := by
  unfold Core.setS
  by_cases hn : n = 0
  · subst hn; simp
  · by_cases hm : m = n
    · subst hm; simp [hn]
    · simp [hn, hm, spGet_spPut_ne]

theorem result_writes (s : State) (c : Core) (d : Nat) (v : W64) (lat : Nat) : WritesS c (s.result c d v lat) d v (now s) lat := by
  refine ⟨?_, ?_, ?_⟩
  · unfold State.result Core.awaitS Core.setS
    by_cases hd : d = 0 <;> by_cases hl : lat ≤ 1 <;> simp [hd, hl]
  · intro m
    unfold State.result
    by_cases hl : lat ≤ 1 <;> simp [hl, Core.S_setS] <;> by_cases hm : m = d <;> simp [hm]
  · intro m t
    rw [readable_cons, readable_cons]
    unfold State.result
    by_cases hl : lat ≤ 1 <;> simp [hl, due_awaitS, due_setS] <;> by_cases hm : m = d <;> by_cases hd : d = 0 <;> simp [hm, hd, now]
    all_goals congr

theorem setS_writes (c : Core) (d : Nat) (v : W64) (a : Nat) : WritesS c (c.setS d v) d v a 1 := by
  have := result_writes default c d v 1
  simp only [State.result, Nat.le_refl, if_true] at this
  exact ⟨this.rest, this.reads, by intro m t; rw [this.board]; simp⟩

/-- A word of C that computes one S register. -/
theorem ReadyC.write {s : State} (h : ReadyC s) (d lat : Nat) (f : Core → W64) :
    ∃ c t, cWrite s d lat f = .next t ∧ WritesS (here s) c d (f (here s)) (now s) lat ∧ Issued (with_ s c) t 1 lat none [] := by
  obtain ⟨t, ht, hi⟩ := h.done (body := fun c => .done (s.setCore s.cur.core (s.result c d (f c) lat)) 1 lat none []) rfl
  exact ⟨_, t, ht, result_writes .., hi⟩

/-- Two states that read alike issue alike. -/
theorem Issued.same {u v t : State} {occ lat : Nat} {target : Option Nat} {effs : List Effect} (h : Issued v t occ lat target effs)
    (e : v = { u with cores := v.cores }) (c : ∀ n, v.core n = u.core n) : Issued u t occ lat target effs := by
  have cur : v.cur = u.cur := by rw [e]
  have hh : here v = here u := by rw [here, here, cur, c]
  have hn : now v = now u := by rw [now, now, cur, e]; rfl
  have ht : tests v = tests u := by rw [tests, tests, cur, hh]
  have hl : late v = late u := by rw [late, late, cur]
  refine ⟨?_, ?_, ?_, ?_, ?_, ?_, ?_⟩
  · have := h.rest
    rw [e] at this
    exact this
  · intro n hn
    rw [h.cores n (by rw [cur]; exact hn), c]
  · have := h.core
    rw [hh, cur] at this
    exact this
  · intro e' he
    rw [h.streams e' (by rw [cur]; exact he), hh]
  · have := h.flow
    rw [cur, hh, ht, hl, hn] at this
    exact this
  · intro p q
    rw [h.tokens p q, hh, cur]
  · have := h.retire
    rw [cur, hh, hl, hn] at this
    have ea : v.agenda = u.agenda := by rw [e]
    have et : v.timers = u.timers := by rw [e]
    rw [ea, et] at this
    exact this

/-- A core written back as it was. -/
theorem Issued.idle {s t : State} {occ lat : Nat} {target : Option Nat} {effs : List Effect}
    (h : Issued (with_ s (here s)) t occ lat target effs) : Issued s t occ lat target effs := by
  refine h.same rfl ?_
  intro n
  by_cases hn : n = s.cur.core
  · subst hn
    exact State.core_setCore ..
  · exact State.core_setCore_ne _ _ _ _ hn

end Sys2Proof.Claim
end

