-- ==== Sys2Proof/Laws/Dispatch.lean ====
section
/-! SUPPORT. `exec` at each constructor is that constructor's meaning. -/

namespace Sys2Proof.Machine

@[simp] theorem exec_nop (s : State) : exec (.nop) s = execNop s := rfl
@[simp] theorem exec_add d a b (s : State) : exec (.add d a b) s = execAdd d a b s := rfl
@[simp] theorem exec_sub d a b (s : State) : exec (.sub d a b) s = execSub d a b s := rfl
@[simp] theorem exec_mul d a b (s : State) : exec (.mul d a b) s = execMul d a b s := rfl
@[simp] theorem exec_mulh d a b (s : State) : exec (.mulh d a b) s = execMulh d a b s := rfl
@[simp] theorem exec_mulhu d a b (s : State) : exec (.mulhu d a b) s = execMulhu d a b s := rfl
@[simp] theorem exec_divu d a b (s : State) : exec (.divu d a b) s = execDivu d a b s := rfl
@[simp] theorem exec_remu d a b (s : State) : exec (.remu d a b) s = execRemu d a b s := rfl
@[simp] theorem exec_and d a b (s : State) : exec (.and d a b) s = execAnd d a b s := rfl
@[simp] theorem exec_or d a b (s : State) : exec (.or d a b) s = execOr d a b s := rfl
@[simp] theorem exec_xor d a b (s : State) : exec (.xor d a b) s = execXor d a b s := rfl
@[simp] theorem exec_andn d a b (s : State) : exec (.andn d a b) s = execAndn d a b s := rfl
@[simp] theorem exec_shl d a b (s : State) : exec (.shl d a b) s = execShl d a b s := rfl
@[simp] theorem exec_shr d a b (s : State) : exec (.shr d a b) s = execShr d a b s := rfl
@[simp] theorem exec_sar d a b (s : State) : exec (.sar d a b) s = execSar d a b s := rfl
@[simp] theorem exec_rotl d a b (s : State) : exec (.rotl d a b) s = execRotl d a b s := rfl
@[simp] theorem exec_min d a b (s : State) : exec (.min d a b) s = execMin d a b s := rfl
@[simp] theorem exec_max d a b (s : State) : exec (.max d a b) s = execMax d a b s := rfl
@[simp] theorem exec_minu d a b (s : State) : exec (.minu d a b) s = execMinu d a b s := rfl
@[simp] theorem exec_maxu d a b (s : State) : exec (.maxu d a b) s = execMaxu d a b s := rfl
@[simp] theorem exec_clz d a (s : State) : exec (.clz d a) s = execClz d a s := rfl
@[simp] theorem exec_popc d a (s : State) : exec (.popc d a) s = execPopc d a s := rfl
@[simp] theorem exec_addp d a b (s : State) : exec (.addp d a b) s = execAddp d a b s := rfl
@[simp] theorem exec_addi d a imm (s : State) : exec (.addi d a imm) s = execAddi d a imm s := rfl
@[simp] theorem exec_andi d a imm (s : State) : exec (.andi d a imm) s = execAndi d a imm s := rfl
@[simp] theorem exec_ori d a imm (s : State) : exec (.ori d a imm) s = execOri d a imm s := rfl
@[simp] theorem exec_xori d a imm (s : State) : exec (.xori d a imm) s = execXori d a imm s := rfl
@[simp] theorem exec_shli d a imm (s : State) : exec (.shli d a imm) s = execShli d a imm s := rfl
@[simp] theorem exec_shri d a imm (s : State) : exec (.shri d a imm) s = execShri d a imm s := rfl
@[simp] theorem exec_sari d a imm (s : State) : exec (.sari d a imm) s = execSari d a imm s := rfl
@[simp] theorem exec_movi d imm (s : State) : exec (.movi d imm) s = execMovi d imm s := rfl
@[simp] theorem exec_immx imm (s : State) : exec (.immx imm) s = execImmx imm s := rfl
@[simp] theorem exec_packed cnt c0 c1 c2 (s : State) : exec (.packed cnt c0 c1 c2) s = execPacked cnt c0 c1 c2 s := rfl
@[simp] theorem exec_cmp g cc a b (s : State) : exec (.cmp g cc a b) s = execCmp g cc a b s := rfl
@[simp] theorem exec_cmpi g cc a imm (s : State) : exec (.cmpi g cc a imm) s = execCmpi g cc a imm s := rfl
@[simp] theorem exec_gset g a (s : State) : exec (.gset g a) s = execGset g a s := rfl
@[simp] theorem exec_gcomb g cc h j (s : State) : exec (.gcomb g cc h j) s = execGcomb g cc h j s := rfl
@[simp] theorem exec_prepImm g target (s : State) : exec (.prepImm g target) s = execPrepImm g target s := rfl
@[simp] theorem exec_prepReg g a (s : State) : exec (.prepReg g a) s = execPrepReg g a s := rfl
@[simp] theorem exec_go g cc (s : State) : exec (.go g cc) s = execGo g cc s := rfl
@[simp] theorem exec_gol g cc d (s : State) : exec (.gol g cc d) s = execGol g cc d s := rfl
@[simp] theorem exec_loop l a len (s : State) : exec (.loop l a len) s = execLoop l a len s := rfl
@[simp] theorem exec_ld d a sz t imm (s : State) : exec (.ld d a sz t imm) s = execLd d a sz t imm s := rfl
@[simp] theorem exec_st d a sz t imm (s : State) : exec (.st d a sz t imm) s = execSt d a sz t imm s := rfl
@[simp] theorem exec_ldt d a sz t imm (s : State) : exec (.ldt d a sz t imm) s = execLdt d a sz t imm s := rfl
@[simp] theorem exec_stt d a sz t imm (s : State) : exec (.stt d a sz t imm) s = execStt d a sz t imm s := rfl
@[simp] theorem exec_amo d a b op sz (s : State) : exec (.amo d a b op sz) s = execAmo d a b op sz s := rfl
@[simp] theorem exec_cas d a b c sz (s : State) : exec (.cas d a b c sz) s = execCas d a b c sz s := rfl
@[simp] theorem exec_tdset n a (s : State) : exec (.tdset n a) s = execTdset n a s := rfl
@[simp] theorem exec_tdsetBase n b (s : State) : exec (.tdsetBase n b) s = execTdsetBase n b s := rfl
@[simp] theorem exec_tdsetExt n b (s : State) : exec (.tdsetExt n b) s = execTdsetExt n b s := rfl
@[simp] theorem exec_tdget n a (s : State) : exec (.tdget n a) s = execTdget n a s := rfl
@[simp] theorem exec_tdgetBase n a (s : State) : exec (.tdgetBase n a) s = execTdgetBase n a s := rfl
@[simp] theorem exec_itset n a (s : State) : exec (.itset n a) s = execItset n a s := rfl
@[simp] theorem exec_itsetIdx n b (s : State) : exec (.itsetIdx n b) s = execItsetIdx n b s := rfl
@[simp] theorem exec_itget n a (s : State) : exec (.itget n a) s = execItget n a s := rfl
@[simp] theorem exec_itgetIdx n a (s : State) : exec (.itgetIdx n a) s = execItgetIdx n a s := rfl
@[simp] theorem exec_qpush q a (s : State) : exec (.qpush q a) s = execQpush q a s := rfl
@[simp] theorem exec_qmask a (s : State) : exec (.qmask a) s = execQmask a s := rfl
@[simp] theorem exec_qflush q target (s : State) : exec (.qflush q target) s = execQflush q target s := rfl
@[simp] theorem exec_enqr a b (s : State) : exec (.enqr a b) s = execEnqr a b s := rfl
@[simp] theorem exec_enqrT a b g n (s : State) : exec (.enqrT a b g n) s = execEnqrT a b g n s := rfl
@[simp] theorem exec_enqrQueued core (s : State) : exec (.enqrQueued core) s = execEnqrQueued core s := rfl
@[simp] theorem exec_enqrTimeout core (s : State) : exec (.enqrTimeout core) s = execEnqrTimeout core s := rfl
@[simp] theorem exec_fork a (s : State) : exec (.fork a) s = execFork a s := rfl
@[simp] theorem exec_streamEnd core eng (s : State) : exec (.streamEnd core eng) s = execStreamEnd core eng s := rfl
@[simp] theorem exec_rend (s : State) : exec (.rend) s = execRend s := rfl
@[simp] theorem exec_rendJoin core (s : State) : exec (.rendJoin core) s = execRendJoin core s := rfl
@[simp] theorem exec_bar id (s : State) : exec (.bar id) s = execBar id s := rfl
@[simp] theorem exec_waito n a b (s : State) : exec (.waito n a b) s = execWaito n a b s := rfl
@[simp] theorem exec_waitoT n a b lim (s : State) : exec (.waitoT n a b lim) s = execWaitoT n a b lim s := rfl
@[simp] theorem exec_waitoEnd core (s : State) : exec (.waitoEnd core) s = execWaitoEnd core s := rfl
@[simp] theorem exec_waitoTimeout core (s : State) : exec (.waitoTimeout core) s = execWaitoTimeout core s := rfl
@[simp] theorem exec_sigo n a (s : State) : exec (.sigo n a) s = execSigo n a s := rfl
@[simp] theorem exec_bphase a (s : State) : exec (.bphase a) s = execBphase a s := rfl
@[simp] theorem exec_bphaseSnapshot core (s : State) : exec (.bphaseSnapshot core) s = execBphaseSnapshot core s := rfl
@[simp] theorem exec_halt (s : State) : exec (.halt) s = execHalt s := rfl
@[simp] theorem exec_haltRetire core (s : State) : exec (.haltRetire core) s = execHaltRetire core s := rfl
@[simp] theorem exec_cancelUnit a (s : State) : exec (.cancelUnit a) s = execCancelUnit a s := rfl
@[simp] theorem exec_cancelLaunch a (s : State) : exec (.cancelLaunch a) s = execCancelLaunch a s := rfl
@[simp] theorem exec_cancelGraph a (s : State) : exec (.cancelGraph a) s = execCancelGraph a s := rfl
@[simp] theorem exec_cancelJob a (s : State) : exec (.cancelJob a) s = execCancelJob a s := rfl
@[simp] theorem exec_rent d a b c tier sync (s : State) : exec (.rent d a b c tier sync) s = execRent d a b c tier sync s := rfl
@[simp] theorem exec_renew d a b (s : State) : exec (.renew d a b) s = execRenew d a b s := rfl
@[simp] theorem exec_prepay d a b c (s : State) : exec (.prepay d a b c) s = execPrepay d a b c s := rfl
@[simp] theorem exec_sublet d a b c (s : State) : exec (.sublet d a b c) s = execSublet d a b c s := rfl
@[simp] theorem exec_vacate d a (s : State) : exec (.vacate d a) s = execVacate d a s := rfl
@[simp] theorem exec_leaseq d a f (s : State) : exec (.leaseq d a f) s = execLeaseq d a f s := rfl
@[simp] theorem exec_purseq d tier f (s : State) : exec (.purseq d tier f) s = execPurseq d tier f s := rfl
@[simp] theorem exec_leaseAck core (s : State) : exec (.leaseAck core) s = execLeaseAck core s := rfl
@[simp] theorem exec_xlat h a p (s : State) : exec (.xlat h a p) s = execXlat h a p s := rfl
@[simp] theorem exec_hdrop h (s : State) : exec (.hdrop h) s = execHdrop h s := rfl
@[simp] theorem exec_hqry d h lo (s : State) : exec (.hqry d h lo) s = execHqry d h lo s := rfl
@[simp] theorem exec_trap v (s : State) : exec (.trap v) s = execTrap v s := rfl
@[simp] theorem exec_eret a (s : State) : exec (.eret a) s = execEret a s := rfl
@[simp] theorem exec_trapEntry core (s : State) : exec (.trapEntry core) s = execTrapEntry core s := rfl
@[simp] theorem exec_csrr d csr (s : State) : exec (.csrr d csr) s = execCsrr d csr s := rfl
@[simp] theorem exec_csrw csr a (s : State) : exec (.csrw csr a) s = execCsrw csr a s := rfl
@[simp] theorem exec_dictld e a (s : State) : exec (.dictld e a) s = execDictld e a s := rfl
@[simp] theorem exec_dictldComplete core eng (s : State) : exec (.dictldComplete core eng) s = execDictldComplete core eng s := rfl
@[simp] theorem exec_instructionRetire core eng n (s : State) : exec (.instructionRetire core eng n) s = execInstructionRetire core eng n s := rfl
@[simp] theorem exec_vnop (s : State) : exec (.vnop) s = execVnop s := rfl
@[simp] theorem exec_vadd ty d a b k mode (s : State) : exec (.vadd ty d a b k mode) s = execVadd ty d a b k mode s := rfl
@[simp] theorem exec_vsub ty d a b k mode (s : State) : exec (.vsub ty d a b k mode) s = execVsub ty d a b k mode s := rfl
@[simp] theorem exec_vmul ty d a b k mode (s : State) : exec (.vmul ty d a b k mode) s = execVmul ty d a b k mode s := rfl
@[simp] theorem exec_vfma ty d a b c k mode (s : State) : exec (.vfma ty d a b c k mode) s = execVfma ty d a b c k mode s := rfl
@[simp] theorem exec_vfms ty d a b c k mode (s : State) : exec (.vfms ty d a b c k mode) s = execVfms ty d a b c k mode s := rfl
@[simp] theorem exec_vmin ty d a b k (s : State) : exec (.vmin ty d a b k) s = execVmin ty d a b k s := rfl
@[simp] theorem exec_vmax ty d a b k (s : State) : exec (.vmax ty d a b k) s = execVmax ty d a b k s := rfl
@[simp] theorem exec_vabs ty d a k (s : State) : exec (.vabs ty d a k) s = execVabs ty d a k s := rfl
@[simp] theorem exec_vneg ty d a k (s : State) : exec (.vneg ty d a k) s = execVneg ty d a k s := rfl
@[simp] theorem exec_vrcp ty d a k (s : State) : exec (.vrcp ty d a k) s = execVrcp ty d a k s := rfl
@[simp] theorem exec_vrsq ty d a k (s : State) : exec (.vrsq ty d a k) s = execVrsq ty d a k s := rfl
@[simp] theorem exec_vsqrt ty d a k mode (s : State) : exec (.vsqrt ty d a k mode) s = execVsqrt ty d a k mode s := rfl
@[simp] theorem exec_vdiv ty d a b k mode (s : State) : exec (.vdiv ty d a b k mode) s = execVdiv ty d a b k mode s := rfl
@[simp] theorem exec_vexp2 ty d a k (s : State) : exec (.vexp2 ty d a k) s = execVexp2 ty d a k s := rfl
@[simp] theorem exec_vlog2 ty d a k (s : State) : exec (.vlog2 ty d a k) s = execVlog2 ty d a k s := rfl
@[simp] theorem exec_vtanh ty d a k (s : State) : exec (.vtanh ty d a k) s = execVtanh ty d a k s := rfl
@[simp] theorem exec_viadd d a b k (s : State) : exec (.viadd d a b k) s = execViadd d a b k s := rfl
@[simp] theorem exec_visub d a b k (s : State) : exec (.visub d a b k) s = execVisub d a b k s := rfl
@[simp] theorem exec_vimul d a b k (s : State) : exec (.vimul d a b k) s = execVimul d a b k s := rfl
@[simp] theorem exec_vand d a b k (s : State) : exec (.vand d a b k) s = execVand d a b k s := rfl
@[simp] theorem exec_vor d a b k (s : State) : exec (.vor d a b k) s = execVor d a b k s := rfl
@[simp] theorem exec_vxor d a b k (s : State) : exec (.vxor d a b k) s = execVxor d a b k s := rfl
@[simp] theorem exec_vshl d a b k im n (s : State) : exec (.vshl d a b k im n) s = execVshl d a b k im n s := rfl
@[simp] theorem exec_vshr d a b k im n (s : State) : exec (.vshr d a b k im n) s = execVshr d a b k im n s := rfl
@[simp] theorem exec_vsar d a b k im n (s : State) : exec (.vsar d a b k im n) s = execVsar d a b k im n s := rfl
@[simp] theorem exec_vimin d a b k (s : State) : exec (.vimin d a b k) s = execVimin d a b k s := rfl
@[simp] theorem exec_vimax d a b k (s : State) : exec (.vimax d a b k) s = execVimax d a b k s := rfl
@[simp] theorem exec_vcmp ty d a b k cc (s : State) : exec (.vcmp ty d a b k cc) s = execVcmp ty d a b k cc s := rfl
@[simp] theorem exec_vsel ty d a b k (s : State) : exec (.vsel ty d a b k) s = execVsel ty d a b k s := rfl
@[simp] theorem exec_vmsk d a b op m (s : State) : exec (.vmsk d a b op m) s = execVmsk d a b op m s := rfl
@[simp] theorem exec_vmpop k (s : State) : exec (.vmpop k) s = execVmpop k s := rfl
@[simp] theorem exec_vrotr ty d a k n (s : State) : exec (.vrotr ty d a k n) s = execVrotr ty d a k n s := rfl
@[simp] theorem exec_vrotc ty d a k n (s : State) : exec (.vrotc ty d a k n) s = execVrotc ty d a k n s := rfl
@[simp] theorem exec_vbcr ty d a k n (s : State) : exec (.vbcr ty d a k n) s = execVbcr ty d a k n s := rfl
@[simp] theorem exec_vbcc ty d a k n (s : State) : exec (.vbcc ty d a k n) s = execVbcc ty d a k n s := rfl
@[simp] theorem exec_vredr ty d a k ax (s : State) : exec (.vredr ty d a k ax) s = execVredr ty d a k ax s := rfl
@[simp] theorem exec_vredc ty d a k ax (s : State) : exec (.vredc ty d a k ax) s = execVredc ty d a k ax s := rfl
@[simp] theorem exec_vscanr ty d a k ax (s : State) : exec (.vscanr ty d a k ax) s = execVscanr ty d a k ax s := rfl
@[simp] theorem exec_vscanc ty d a k ax (s : State) : exec (.vscanc ty d a k ax) s = execVscanc ty d a k ax s := rfl
@[simp] theorem exec_vperm ty d a b k col (s : State) : exec (.vperm ty d a b k col) s = execVperm ty d a b k col s := rfl
@[simp] theorem exec_vld ty d t ir k adv rows (s : State) : exec (.vld ty d t ir k adv rows) s = execVld ty d t ir k adv rows s := rfl
@[simp] theorem exec_vst ty d t ir k adv rows (s : State) : exec (.vst ty d t ir k adv rows) s = execVst ty d t ir k adv rows s := rfl
@[simp] theorem exec_vgath ty d t ir k (s : State) : exec (.vgath ty d t ir k) s = execVgath ty d t ir k s := rfl
@[simp] theorem exec_vscat ty d t ir k (s : State) : exec (.vscat ty d t ir k) s = execVscat ty d t ir k s := rfl
@[simp] theorem exec_vmap op id ia ib ta tb td (s : State) : exec (.vmap op id ia ib ta tb td) s = execVmap op id ia ib ta tb td s := rfl
@[simp] theorem exec_vcvt ty d a k dty mode (s : State) : exec (.vcvt ty d a k dty mode) s = execVcvt ty d a k dty mode s := rfl
@[simp] theorem exec_vreq d a b k fmt mode nonsat code (s : State) : exec (.vreq d a b k fmt mode nonsat code) s = execVreq d a b k fmt mode nonsat code s := rfl
@[simp] theorem exec_vamax ty a k (s : State) : exec (.vamax ty a k) s = execVamax ty a k s := rfl
@[simp] theorem exec_vrng ty d k unif (s : State) : exec (.vrng ty d k unif) s = execVrng ty d k unif s := rfl
@[simp] theorem exec_vloop l cnt len (s : State) : exec (.vloop l cnt len) s = execVloop l cnt len s := rfl
@[simp] theorem exec_vloopQ l len (s : State) : exec (.vloopQ l len) s = execVloopQ l len s := rfl
@[simp] theorem exec_vtake (s : State) : exec (.vtake) s = execVtake s := rfl
@[simp] theorem exec_vdefer a k n first rows (s : State) : exec (.vdefer a k n first rows) s = execVdefer a k n first rows s := rfl
@[simp] theorem exec_vdrain d c k n first rows (s : State) : exec (.vdrain d c k n first rows) s = execVdrain d c k n first rows s := rfl
@[simp] theorem exec_vmov ty d a k (s : State) : exec (.vmov ty d a k) s = execVmov ty d a k s := rfl
@[simp] theorem exec_vmovs k d (s : State) : exec (.vmovs k d) s = execVmovs k d s := rfl
@[simp] theorem exec_klds d src (s : State) : exec (.klds d src) s = execKlds d src s := rfl
@[simp] theorem exec_ksts d src (s : State) : exec (.ksts d src) s = execKsts d src s := rfl
@[simp] theorem exec_kemit d fmt mode (s : State) : exec (.kemit d fmt mode) s = execKemit d fmt mode s := rfl
@[simp] theorem exec_kstep (s : State) : exec (.kstep) s = execKstep s := rfl
@[simp] theorem exec_mnop (s : State) : exec (.mnop) s = execMnop s := rfl
@[simp] theorem exec_mnest l q f v (s : State) : exec (.mnest l q f v) s = execMnest l q f v s := rfl
@[simp] theorem exec_msrcaRec t cin (s : State) : exec (.msrcaRec t cin) s = execMsrcaRec t cin s := rfl
@[simp] theorem exec_msrcaDim ih iw (s : State) : exec (.msrcaDim ih iw) s = execMsrcaDim ih iw s := rfl
@[simp] theorem exec_msrcaRow0 q v (s : State) : exec (.msrcaRow0 q v) s = execMsrcaRow0 q v s := rfl
@[simp] theorem exec_msrcbRec t ncol (s : State) : exec (.msrcbRec t ncol) s = execMsrcbRec t ncol s := rfl
@[simp] theorem exec_msrcbCol0 q v (s : State) : exec (.msrcbCol0 q v) s = execMsrcbCol0 q v s := rfl
@[simp] theorem exec_mdest x (s : State) : exec (.mdest x) s = execMdest x s := rfl
@[simp] theorem exec_mfmt first i32 (s : State) : exec (.mfmt first i32) s = execMfmt first i32 s := rfl
@[simp] theorem exec_mgo strm (s : State) : exec (.mgo strm) s = execMgo strm s := rfl
@[simp] theorem exec_mloadb t strm y n (s : State) : exec (.mloadb t strm y n) s = execMloadb t strm y n s := rfl
@[simp] theorem exec_mdrain x t strm i32 chk nonsat mode (s : State) : exec (.mdrain x t strm i32 chk nonsat mode) s = execMdrain x t strm i32 chk nonsat mode s := rfl
@[simp] theorem exec_mzero strm mask (s : State) : exec (.mzero strm mask) s = execMzero strm mask s := rfl
@[simp] theorem exec_mchkOn strm mask (s : State) : exec (.mchkOn strm mask) s = execMchkOn strm mask s := rfl
@[simp] theorem exec_mchkOff strm mask (s : State) : exec (.mchkOff strm mask) s = execMchkOff strm mask s := rfl
@[simp] theorem exec_mdry c seed strm check (s : State) : exec (.mdry c seed strm check) s = execMdry c seed strm check s := rfl
@[simp] theorem exec_msync (s : State) : exec (.msync) s = execMsync s := rfl
@[simp] theorem exec_mOperationStart core strm (s : State) : exec (.mOperationStart core strm) s = execMOperationStart core strm s := rfl
@[simp] theorem exec_mStep core (s : State) : exec (.mStep core) s = execMStep core s := rfl
@[simp] theorem exec_nestComplete core op (s : State) : exec (.nestComplete core op) s = execNestComplete core op s := rfl
@[simp] theorem exec_xnop (s : State) : exec (.xnop) s = execXnop s := rfl
@[simp] theorem exec_xcopy ta tb o nonsat mode ob (s : State) : exec (.xcopy ta tb o nonsat mode ob) s = execXcopy ta tb o nonsat mode ob s := rfl
@[simp] theorem exec_xred ta tb o r ob (s : State) : exec (.xred ta tb o r ob) s = execXred ta tb o r ob s := rfl
@[simp] theorem exec_xgath ta tb o tx ob (s : State) : exec (.xgath ta tb o tx ob) s = execXgath ta tb o tx ob s := rfl
@[simp] theorem exec_xscat ta tb o tx ob (s : State) : exec (.xscat ta tb o tx ob) s = execXscat ta tb o tx ob s := rfl
@[simp] theorem exec_xmcast ta tb o tx ob (s : State) : exec (.xmcast ta tb o tx ob) s = execXmcast ta tb o tx ob s := rfl
@[simp] theorem exec_xrload ta tb o tx ob r (s : State) : exec (.xrload ta tb o tx ob r) s = execXrload ta tb o tx ob r s := rfl
@[simp] theorem exec_xatom ta tb op sz (s : State) : exec (.xatom ta tb op sz) s = execXatom ta tb op sz s := rfl
@[simp] theorem exec_xsig o n (s : State) : exec (.xsig o n) s = execXsig o n s := rfl
@[simp] theorem exec_xsigF o n (s : State) : exec (.xsigF o n) s = execXsigF o n s := rfl
@[simp] theorem exec_xdecl ta tb (s : State) : exec (.xdecl ta tb) s = execXdecl ta tb s := rfl
@[simp] theorem exec_xpref ta (s : State) : exec (.xpref ta) s = execXpref ta s := rfl
@[simp] theorem exec_xcoll ta o ob (s : State) : exec (.xcoll ta o ob) s = execXcoll ta o ob s := rfl
@[simp] theorem exec_xksend ta tb n (s : State) : exec (.xksend ta tb n) s = execXksend ta tb n s := rfl
@[simp] theorem exec_xkfetch ta tb o ob n (s : State) : exec (.xkfetch ta tb o ob n) s = execXkfetch ta tb o ob n s := rfl
@[simp] theorem exec_xkparam tb p (s : State) : exec (.xkparam tb p) s = execXkparam tb p s := rfl
@[simp] theorem exec_xinv ta asid (s : State) : exec (.xinv ta asid) s = execXinv ta asid s := rfl
@[simp] theorem exec_xdrain (s : State) : exec (.xdrain) s = execXdrain s := rfl
@[simp] theorem exec_xwait o v (s : State) : exec (.xwait o v) s = execXwait o v s := rfl
@[simp] theorem exec_xwaitEnd core (s : State) : exec (.xwaitEnd core) s = execXwaitEnd core s := rfl
@[simp] theorem exec_xAccept core (s : State) : exec (.xAccept core) s = execXAccept core s := rfl
@[simp] theorem exec_chunkLand core cmd chunk (s : State) : exec (.chunkLand core cmd chunk) s = execChunkLand core cmd chunk s := rfl
@[simp] theorem exec_xRetire core cmd (s : State) : exec (.xRetire core cmd) s = execXRetire core cmd s := rfl
@[simp] theorem exec_pktStore p (s : State) : exec (.pktStore p) s = execPktStore p s := rfl
@[simp] theorem exec_pktLoad p (s : State) : exec (.pktLoad p) s = execPktLoad p s := rfl
@[simp] theorem exec_pktAtom p (s : State) : exec (.pktAtom p) s = execPktAtom p s := rfl
@[simp] theorem exec_pktSignal p (s : State) : exec (.pktSignal p) s = execPktSignal p s := rfl
@[simp] theorem exec_reduceLoad p (s : State) : exec (.reduceLoad p) s = execReduceLoad p s := rfl
@[simp] theorem exec_linkDown port (s : State) : exec (.linkDown port) s = execLinkDown port s := rfl
@[simp] theorem exec_kGrad b (s : State) : exec (.kGrad b) s = execKGrad b s := rfl
@[simp] theorem exec_kSetup b (s : State) : exec (.kSetup b) s = execKSetup b s := rfl
@[simp] theorem exec_kPromote b (s : State) : exec (.kPromote b) s = execKPromote b s := rfl
@[simp] theorem exec_kResume b (s : State) : exec (.kResume b) s = execKResume b s := rfl
@[simp] theorem exec_kRetire b (s : State) : exec (.kRetire b) s = execKRetire b s := rfl
@[simp] theorem exec_kProgram b (s : State) : exec (.kProgram b) s = execKProgram b s := rfl
@[simp] theorem exec_blockApplication part job group block (s : State) : exec (.blockApplication part job group block) s = execBlockApplication part job group block s := rfl
@[simp] theorem exec_kweights b (s : State) : exec (.kweights b) s = execKweights b s := rfl
@[simp] theorem exec_missing part job group step (s : State) : exec (.missing part job group step) s = execMissing part job group step s := rfl
@[simp] theorem exec_keeperRegen part job group block (s : State) : exec (.keeperRegen part job group block) s = execKeeperRegen part job group block s := rfl
@[simp] theorem exec_launchComplete launch (s : State) : exec (.launchComplete launch) s = execLaunchComplete launch s := rfl
@[simp] theorem exec_sliceEnd core (s : State) : exec (.sliceEnd core) s = execSliceEnd core s := rfl
@[simp] theorem exec_idleSliceEnd core (s : State) : exec (.idleSliceEnd core) s = execIdleSliceEnd core s := rfl
@[simp] theorem exec_stall core eng (s : State) : exec (.stall core eng) s = execStall core eng s := rfl
@[simp] theorem exec_preempt core (s : State) : exec (.preempt core) s = execPreempt core s := rfl
@[simp] theorem exec_escrowRenewal lease (s : State) : exec (.escrowRenewal lease) s = execEscrowRenewal lease s := rfl
@[simp] theorem exec_arrears lease (s : State) : exec (.arrears lease) s = execArrears lease s := rfl
@[simp] theorem exec_lapse lease (s : State) : exec (.lapse lease) s = execLapse lease s := rfl
@[simp] theorem exec_reclaim lease (s : State) : exec (.reclaim lease) s = execReclaim lease s := rfl
@[simp] theorem exec_overdraft lease (s : State) : exec (.overdraft lease) s = execOverdraft lease s := rfl
@[simp] theorem exec_seatBilling tick (s : State) : exec (.seatBilling tick) s = execSeatBilling tick s := rfl
@[simp] theorem exec_scrubComplete lease (s : State) : exec (.scrubComplete lease) s = execScrubComplete lease s := rfl
@[simp] theorem exec_partShrink fn part quads (s : State) : exec (.partShrink fn part quads) s = execPartShrink fn part quads s := rfl
@[simp] theorem exec_partDestroy fn part (s : State) : exec (.partDestroy fn part) s = execPartDestroy fn part s := rfl
@[simp] theorem exec_jobRetire fn part job (s : State) : exec (.jobRetire fn part job) s = execJobRetire fn part job s := rfl
@[simp] theorem exec_freezeEnd core (s : State) : exec (.freezeEnd core) s = execFreezeEnd core s := rfl
@[simp] theorem exec_droopStepDown die (s : State) : exec (.droopStepDown die) s = execDroopStepDown die s := rfl
@[simp] theorem exec_graphPost part line bytes (s : State) : exec (.graphPost part line bytes) s = execGraphPost part line bytes s := rfl
@[simp] theorem exec_partCreate fn part entry (s : State) : exec (.partCreate fn part entry) s = execPartCreate fn part entry s := rfl
@[simp] theorem exec_partGrow fn part quads (s : State) : exec (.partGrow fn part quads) s = execPartGrow fn part quads s := rfl
@[simp] theorem exec_jobCreate fn part job entry (s : State) : exec (.jobCreate fn part job entry) s = execJobCreate fn part job entry s := rfl
@[simp] theorem exec_rateSet fn part rates (s : State) : exec (.rateSet fn part rates) s = execRateSet fn part rates s := rfl
@[simp] theorem exec_purseCredit fn part job n (s : State) : exec (.purseCredit fn part job n) s = execPurseCredit fn part job n s := rfl
@[simp] theorem exec_coreClear fn core (s : State) : exec (.coreClear fn core) s = execCoreClear fn core s := rfl
@[simp] theorem exec_captureSet fn part job va len (s : State) : exec (.captureSet fn part job va len) s = execCaptureSet fn part job va len s := rfl
@[simp] theorem exec_replaySet fn part job va len (s : State) : exec (.replaySet fn part job va len) s = execReplaySet fn part job va len s := rfl
@[simp] theorem exec_telemRead fn die (s : State) : exec (.telemRead fn die) s = execTelemRead fn die s := rfl
@[simp] theorem exec_getMeasurements fn idxs (s : State) : exec (.getMeasurements fn idxs) s = execGetMeasurements fn idxs s := rfl
@[simp] theorem exec_getFwInfo fn (s : State) : exec (.getFwInfo fn) s = execGetFwInfo fn s := rfl
@[simp] theorem exec_transferFw fn slot image last (s : State) : exec (.transferFw fn slot image last) s = execTransferFw fn slot image last s := rfl
@[simp] theorem exec_activateFw fn slot (s : State) : exec (.activateFw fn slot) s = execActivateFw fn slot s := rfl
@[simp] theorem exec_powerLimit watts (s : State) : exec (.powerLimit watts) s = execPowerLimit watts s := rfl
@[simp] theorem exec_packageReset mgmt sigOk hbmOk cxlOk downPorts (s : State) : exec (.packageReset mgmt sigOk hbmOk cxlOk downPorts) s = execPackageReset mgmt sigOk hbmOk cxlOk downPorts s := rfl
@[simp] theorem exec_registerWrite part off val (s : State) : exec (.registerWrite part off val) s = execRegisterWrite part off val s := rfl
@[simp] theorem exec_correctable core n (s : State) : exec (.correctable core n) s = execCorrectable core n s := rfl
@[simp] theorem exec_uncorrectableError key (s : State) : exec (.uncorrectableError key) s = execUncorrectableError key s := rfl
@[simp] theorem exec_thermalThrottle tj watts (s : State) : exec (.thermalThrottle tj watts) s = execThermalThrottle tj watts s := rfl
@[simp] theorem exec_throttleExit ticksCool (s : State) : exec (.throttleExit ticksCool) s = execThrottleExit ticksCool s := rfl
@[simp] theorem exec_droopDetect die (s : State) : exec (.droopDetect die) s = execDroopDetect die s := rfl
@[simp] theorem exec_hostCxlMemWrite addr bytes (s : State) : exec (.hostCxlMemWrite addr bytes) s = execHostCxlMemWrite addr bytes s := rfl
@[simp] theorem exec_flitCrcError port (s : State) : exec (.flitCrcError port) s = execFlitCrcError port s := rfl
@[simp] theorem exec_mcastStore p (s : State) : exec (.mcastStore p) s = execMcastStore p s := rfl
@[simp] theorem exec_peerLost chip (s : State) : exec (.peerLost chip) s = execPeerLost chip s := rfl
@[simp] theorem exec_collectiveEmit rec (s : State) : exec (.collectiveEmit rec) s = execCollectiveEmit rec s := rfl
@[simp] theorem exec_collectiveApply rec (s : State) : exec (.collectiveApply rec) s = execCollectiveApply rec s := rfl
@[simp] theorem exec_collectiveComplete rec (s : State) : exec (.collectiveComplete rec) s = execCollectiveComplete rec s := rfl
@[simp] theorem exec_fetchServe fetch block (s : State) : exec (.fetchServe fetch block) s = execFetchServe fetch block s := rfl
@[simp] theorem exec_xlatWalkEnd core h (s : State) : exec (.xlatWalkEnd core h) s = execXlatWalkEnd core h s := rfl
@[simp] theorem exec_xinvAck core cmd (s : State) : exec (.xinvAck core cmd) s = execXinvAck core cmd s := rfl
@[simp] theorem exec_vacateComplete lease (s : State) : exec (.vacateComplete lease) s = execVacateComplete lease s := rfl
@[simp] theorem exec_barGenerationComplete launch id (s : State) : exec (.barGenerationComplete launch id) s = execBarGenerationComplete launch id s := rfl
@[simp] theorem exec_contextSave core (s : State) : exec (.contextSave core) s = execContextSave core s := rfl
@[simp] theorem exec_unitPlace core (s : State) : exec (.unitPlace core) s = execUnitPlace core s := rfl
@[simp] theorem exec_restore core (s : State) : exec (.restore core) s = execRestore core s := rfl
@[simp] theorem exec_chunkStart core cmd (s : State) : exec (.chunkStart core cmd) s = execChunkStart core cmd s := rfl

end Sys2Proof.Machine
end

