-- ==== Sys2Proof/Laws/Faults.lean ====
section
/-! SUPPORT. Records, and what a fault at issue leaves (R83, R378 to R380). -/

namespace Sys2Proof.Machine

/-- A record to a ring writes that ring alone. -/
theorem State.toRing_rest (s : State) (p : Nat) (r : Report) (w : Whom) (evt : Bool) :
    s.toRing p r w evt = { s with rings := (s.toRing p r w evt).rings } := rfl

theorem State.ring_toRing (s : State) (p q : Nat) (r : Report) (w : Whom) (evt : Bool) :
    (s.toRing p r w evt).ring q = if q = p then (s.ring p).append (recordBits s r w evt) else s.ring q := by
  unfold State.toRing
  by_cases h : q = p
  · subst h
    simp only [State.ring, spGet_spSet_same, if_true]
  · simp only [State.ring, spGet_spSet_ne _ _ _ _ _ h, h, if_false]

/-- A write at its home changes storage alone. -/
theorem State.writeHome_rest (s : State) (k : Nat) (bs : List Byte) :
    s.writeHome k bs = { s with mem := (s.writeHome k bs).mem, poison := (s.writeHome k bs).poison, stores := (s.writeHome k bs).stores } := rfl

/-- A record to an inbox changes storage alone. -/
theorem State.inbox_rest (s t : State) (core : Nat) (rec : BitVec 512) (h : s.inbox core rec = some t) :
    t = { s with mem := t.mem, poison := t.poison, stores := t.stores } := by
  unfold State.inbox at h
  simp only at h
  split at h
  · split at h
    · cases h
      rfl
    · cases h
  · cases h

/-- A record and where it goes: one ring, and at most one inbox. `r'` differs from `r` in DETAIL at most. -/
theorem State.post_cases (s : State) (p : Nat) (recv : Option Nat) (r : Report) (w : Whom) (evt : Bool) :
    (∃ u : State, ∃ d : Nat, u = { s with mem := u.mem, poison := u.poison, stores := u.stores } ∧
      (recv = none → u = s ∧ s.post p recv r w evt = u.toRing p { r with detail := d } w evt) ∧
      s.post p recv r w evt = { (u.toRing p { r with detail := d } w evt) with timers := (s.post p recv r w evt).timers }) := by
  unfold State.post
  cases recv with
  | none => exact ⟨s, r.detail, rfl, fun _ => ⟨rfl, rfl⟩, rfl⟩
  | some c =>
    simp only
    split
    · exact ⟨s, r.detail, rfl, nofun, rfl⟩
    · split
      · rename_i s' h
        refine ⟨s', r.detail, State.inbox_rest _ _ _ _ h, nofun, ?_⟩
        rw [State.wake_rest]
      · exact ⟨s, r.detail / 2 * 2 + 1, rfl, nofun, rfl⟩

end Sys2Proof.Machine

namespace Sys2Proof.Claim

open Machine

/-- A field above a number that is in range stays in range. -/
theorem field_lt (lo m hi : Nat) {v r : Nat} (e : lo + m = hi) (hv : v < 2 ^ m) (hr : r < 2 ^ lo) : v * 2 ^ lo + r < 2 ^ hi := by
  subst e
  have h : (v + 1) * 2 ^ lo ≤ 2 ^ m * 2 ^ lo := Nat.mul_le_mul_right _ hv
  rw [Nat.pow_add, Nat.mul_comm (2 ^ lo)]
  rw [Nat.add_mul, Nat.one_mul] at h
  omega

theorem regroup (P a b c d e x1 x2 x3 x4 x5 x6 x7 x8 x9 x10 x11 x12 x13 x14 x15 x16 : Nat) :
    a * (2 ^ 21 * P) + b * (2 ^ 19 * P) + c * (2 ^ 18 * P) + d * (2 ^ 17 * P) + e * P + x1 + x2 + x3 + x4 + x5 + x6 + x7 + x8 + x9 + x10 + x11 + x12 + x13 + x14 + x15 + x16 =
      (a * 2 ^ 21 + b * 2 ^ 19 + c * 2 ^ 18 + d * 2 ^ 17 + e) * P + (x1 + (x2 + (x3 + (x4 + (x5 + (x6 + (x7 + (x8 + (x9 + (x10 + (x11 + (x12 + (x13 + (x14 + (x15 + (x16 + 0)))))))))))))))) := by
  simp only [Nat.add_mul, Nat.mul_assoc, Nat.add_assoc, Nat.add_zero]

/-- The high fields of a record above its low ones (R378). -/
theorem record_total (s : State) (r : Report) (w : Whom) (evt loss : Bool) (seq : Nat) :
    ∃ low, low < 2 ^ 475 ∧ (recordBits s r w evt loss seq).toNat =
      ((r.cause.code % 2 ^ 16 * 2 ^ 21 + r.eng.num % 2 ^ 2 * 2 ^ 19 + evt.toNat % 2 ^ 1 * 2 ^ 18 + loss.toNat % 2 ^ 1 * 2 ^ 17 + r.pc.toNat % 2 ^ 17) * 2 ^ 475 + low)
        % 2 ^ 512 := by
  have m (v n : Nat) : v % 2 ^ n < 2 ^ n := Nat.mod_lt _ (Nat.two_pow_pos n)
  have b130 := field_lt 66 64 130 rfl (m seq 64) (Nat.two_pow_pos 66)
  have b194 := field_lt 130 64 194 rfl (m r.detail 64) b130
  have b226 := field_lt 194 32 226 rfl (m r.count 32) b194
  have b232 := field_lt 226 6 232 rfl (m w.part 6) b226
  have b248 := field_lt 232 16 248 rfl (m w.job 16) b232
  have b280 := field_lt 248 32 280 rfl (m w.launch 32) b248
  have b291 := field_lt 280 11 291 rfl (m w.core 11) b280
  have b323 := field_lt 291 32 323 rfl (m w.unit 32) b291
  have b371 := field_lt 323 48 371 rfl (m s.tick 48) b323
  have b387 := field_lt 371 16 387 rfl (m r.lease 16) b371
  have b391 := field_lt 387 4 391 rfl (m r.lb 4) b387
  have b415 := field_lt 391 24 415 rfl (m r.pp 24) b391
  have b463 := field_lt 415 48 463 rfl (m r.idx.toNat 48) b415
  have b467 := field_lt 463 4 467 rfl (m r.irec 4) b463
  have b473 := field_lt 467 6 473 rfl (m r.trec 6) b467
  have b475 := field_lt 473 2 475 rfl (m r.codePos 2) b473
  refine ⟨_, b475, ?_⟩
  have e (n : Nat) (h : 475 ≤ n) : (2 : Nat) ^ n = 2 ^ (n - 475) * 2 ^ 475 := by rw [← Nat.pow_add, Nat.sub_add_cancel h]
  have e1 := e 496 (by decide)
  have e2 := e 494 (by decide)
  have e3 := e 493 (by decide)
  have e4 := e 492 (by decide)
  simp only [Nat.reduceSub] at e1 e2 e3 e4
  unfold recordBits
  rw [BitVec.toNat_ofNat]
  repeat rw [List.foldl_cons]
  rw [List.foldl_nil, Nat.zero_add]
  set_option simprocs false in dsimp only
  refine congrArg (fun x => x % 2 ^ 512) ?_
  rw [e1, e2, e3, e4]
  exact regroup _ _ _ _ _ _ _ _ _ _ _ _ _ _ _ _ _ _ _ _ _ _

/-- A field of a number's upper part. -/
theorem upper_field (N X P q low : Nat) (hp : 0 < P) (h : N = X * P + low) (hl : low < P) : N / (P * q) = X / q := by
  rw [h, ← Nat.div_div_eq_div_mul, Nat.mul_comm X, Nat.mul_add_div hp, Nat.div_eq_of_lt hl, Nat.add_zero]

/-- The fields of a record that the claims name (R378). -/
theorem record_fields (s : State) (r : Report) (w : Whom) (evt loss : Bool) (seq : Nat) :
    bits (recordBits s r w evt loss seq) 496 16 = r.cause.code % 2 ^ 16 ∧
    bits (recordBits s r w evt loss seq) 475 17 = r.pc.toNat ∧
    bits (recordBits s r w evt loss seq) 494 2 = r.eng.num := by
  obtain ⟨low, hl, total⟩ := record_total s r w evt loss seq
  have he : r.eng.num < 4 := by cases r.eng <;> decide
  have hp := r.pc.isLt
  have m := Nat.mod_lt r.cause.code (Nat.two_pow_pos 16)
  have hx : r.cause.code % 2 ^ 16 * 2 ^ 21 + r.eng.num % 2 ^ 2 * 2 ^ 19 + evt.toNat % 2 ^ 1 * 2 ^ 18 + loss.toNat % 2 ^ 1 * 2 ^ 17 + r.pc.toNat % 2 ^ 17 < 2 ^ 37 := by
    omega
  have xs : (r.cause.code % 2 ^ 16 * 2 ^ 21 + r.eng.num % 2 ^ 2 * 2 ^ 19 + evt.toNat % 2 ^ 1 * 2 ^ 18 + loss.toNat % 2 ^ 1 * 2 ^ 17 + r.pc.toNat % 2 ^ 17) / 2 ^ 21 % 2 ^ 16 = r.cause.code % 2 ^ 16 ∧
    (r.cause.code % 2 ^ 16 * 2 ^ 21 + r.eng.num % 2 ^ 2 * 2 ^ 19 + evt.toNat % 2 ^ 1 * 2 ^ 18 + loss.toNat % 2 ^ 1 * 2 ^ 17 + r.pc.toNat % 2 ^ 17) / 2 ^ 0 % 2 ^ 17 = r.pc.toNat ∧
    (r.cause.code % 2 ^ 16 * 2 ^ 21 + r.eng.num % 2 ^ 2 * 2 ^ 19 + evt.toNat % 2 ^ 1 * 2 ^ 18 + loss.toNat % 2 ^ 1 * 2 ^ 17 + r.pc.toNat % 2 ^ 17) / 2 ^ 19 % 2 ^ 2 = r.eng.num := by
    refine ⟨?_, ?_, ?_⟩ <;> omega
  generalize r.cause.code % 2 ^ 16 * 2 ^ 21 + r.eng.num % 2 ^ 2 * 2 ^ 19 + evt.toNat % 2 ^ 1 * 2 ^ 18 + loss.toNat % 2 ^ 1 * 2 ^ 17 + r.pc.toNat % 2 ^ 17 = X at total hx xs
  have cut (n k : Nat) : bits (recordBits s r w evt loss seq) (475 + n) k = X / 2 ^ n % 2 ^ k := by
    rw [bits, fldN, Nat.pow_add, upper_field _ X (2 ^ 475) (2 ^ n) low (Nat.two_pow_pos 475) _ hl]
    rw [total, Nat.mod_eq_of_lt (field_lt 475 37 512 rfl hx hl)]
  exact ⟨(cut 21 16).trans xs.1, (cut 0 17).trans xs.2.1, (cut 19 2).trans xs.2.2⟩

theorem code_lt (c : Cause) : c.code < 2 ^ 16 := by
  cases c
  case software v =>
    have := v.isLt
    simp only [Cause.code]
    omega
  all_goals decide

/-- What `post` leaves of a ring and of the rest (R379, R380). -/
theorem posted (s : State) (p : Nat) (recv : Option Nat) (r : Report) (w : Whom) (evt : Bool) :
    s.post p recv r w evt = { s with
      mem := (s.post p recv r w evt).mem, poison := (s.post p recv r w evt).poison, stores := (s.post p recv r w evt).stores
      rings := (s.post p recv r w evt).rings, timers := (s.post p recv r w evt).timers } ∧
    (∀ q, q ≠ p → (s.post p recv r w evt).ring q = s.ring q) ∧
    (∃ (d : Nat) (v : State), (s.post p recv r w evt).ring p = (s.ring p).append (recordBits v { r with detail := d } w evt)) ∧
    (recv = none → (s.post p recv r w evt).mem = s.mem ∧ (s.post p recv r w evt).poison = s.poison ∧ (s.post p recv r w evt).stores = s.stores ∧
      (s.post p recv r w evt).timers = s.timers) := by
  obtain ⟨u, d, hu, hn, hp⟩ := s.post_cases p recv r w evt
  have hr (q : Nat) : (s.post p recv r w evt).ring q = (u.toRing p { r with detail := d } w evt).ring q := by rw [hp]; rfl
  have hs (q : Nat) : u.ring q = s.ring q := by rw [hu]; rfl
  refine ⟨?_, ?_, ⟨d, u, ?_⟩, ?_⟩
  · rw [hp, hu]
    rfl
  · intro q hq
    rw [hr, State.ring_toRing, if_neg hq, hs]
  · rw [hr, State.ring_toRing, if_pos rfl, hs]
  · intro h
    obtain ⟨rfl, e⟩ := hn h
    rw [e]
    exact ⟨rfl, rfl, rfl, rfl⟩

/-- The ring after one more record. -/
theorem appended (g : Ring) (s : State) (r : Report) (w : Whom) (evt : Bool) :
    if g.written - g.read = 4096 then
      (g.append (recordBits s r w evt)).dropped = g.dropped + 1 ∧ (g.append (recordBits s r w evt)).written = g.written
    else (g.append (recordBits s r w evt)).written = g.written + 1 ∧
      (bits (spGet 0 (g.append (recordBits s r w evt)).recs (g.written % 4096)) 496 16 = r.cause.code ∧
       bits (spGet 0 (g.append (recordBits s r w evt)).recs (g.written % 4096)) 475 17 = r.pc.toNat ∧
       bits (spGet 0 (g.append (recordBits s r w evt)).recs (g.written % 4096)) 494 2 = r.eng.num) := by
  unfold Ring.append
  split
  · exact ⟨rfl, rfl⟩
  · have := record_fields s r w evt g.loss g.written
    rw [Nat.mod_eq_of_lt (code_lt r.cause)] at this
    simpa using this

/-- What a posted record leaves (R378 to R380). -/
theorem post_claim (s : State) (p : Nat) (recv : Option Nat) (r : Report) (w : Whom) (evt : Bool) :
    sameButInbox s (s.post p recv r w evt) ∧ Recorded s (s.post p recv r w evt) p r.cause.code r.pc.toNat r.eng.num ∧
    (recv = none → s.post p recv r w evt = { s with rings := (s.post p recv r w evt).rings }) := by
  obtain ⟨h1, h2, ⟨d, v, h3⟩, h4⟩ := posted s p recv r w evt
  refine ⟨h1, ⟨h2, ?_⟩, ?_⟩
  · rw [h3]
    exact appended (s.ring p) v { r with detail := d } w evt
  · intro h
    obtain ⟨a, b, c, d⟩ := h4 h
    rw [h1, a, b, c, d]

/-- A fault of C goes to the launch's supervisor unit (R83). -/
theorem faultHere_eq {s : State} (he : s.cur.eng = .c) (hu : s.cur.unit = none) (r : Report) (hr : r.cause ≠ .poison) :
    s.faultHere r = (s.modCore s.cur.core (fun c => c.freeze .c)).post ((s.modCore s.cur.core (fun c => c.freeze .c)).jobOf s.cur.core).1
      ((s.modCore s.cur.core (fun c => c.freeze .c)).superOf s.cur.core) (s.report r)
      ((s.modCore s.cur.core (fun c => c.freeze .c)).whom s.cur.core) false := by
  have e : (s.report r).eng = .c := he
  have c : (s.report r).cause ≠ .poison := hr
  unfold State.faultHere
  rw [hu]
  simp only [c, if_false, State.raise, e, if_true, State.toSuper]

theorem seat_freeze (c : Core) (e : Engine) : (c.freeze e).seat = c.seat := Core.modStream_seat ..

theorem jobOf_freeze (s : State) (n : Nat) (e : Engine) (m : Nat) : (s.modCore n (fun c => c.freeze e)).jobOf m = s.jobOf m := by
  unfold State.jobOf State.jobOfLaunch State.launch State.graph
  by_cases hm : m = n
  · subst hm
    simp [seat_freeze]
  · simp [State.core_modCore_ne _ _ _ _ hm]

theorem superOf_freeze (s : State) (n : Nat) (e : Engine) (m : Nat) : (s.modCore n (fun c => c.freeze e)).superOf m = s.superOf m := by
  have seat (k : Nat) : ((s.modCore n (fun c => c.freeze e)).core k).seat = (s.core k).seat := by
    by_cases hk : k = n
    · subst hk
      simp [seat_freeze]
    · simp [State.core_modCore_ne _ _ _ _ hk]
  unfold State.superOf State.launch
  simp only [seat, jobOf_freeze, State.modCore_launches]

/-- A fault of C at issue (R83). -/
theorem stopped {s : State} (he : s.cur.eng = .c) (hu : s.cur.unit = none) (r : Report) (hr : r.cause ≠ .poison) : StoppedC s (s.faultHere r) r.cause := by
  rw [faultHere_eq he hu r hr]
  simp only [jobOf_freeze, superOf_freeze]
  generalize hw : State.whom _ _ = w
  obtain ⟨rest, others, ⟨d, v, ring⟩, none_⟩ := posted (s.modCore s.cur.core (fun c => c.freeze .c)) (s.jobOf s.cur.core).1 (s.superOf s.cur.core)
    (s.report r) w false
  generalize State.post _ _ _ _ _ _ = t at *
  have hr (q : Nat) : (s.modCore s.cur.core (fun c => c.freeze .c)).ring q = s.ring q := rfl
  have hc (n : Nat) : t.core n = (s.modCore s.cur.core (fun c => c.freeze .c)).core n := by rw [rest]; rfl
  have cur : t.cur = s.cur := by rw [rest]; rfl
  refine ⟨by rw [rest]; rfl, ?_, ?_, ⟨?_, ?_⟩, ?_⟩
  · intro n hn
    rw [hc, State.core_modCore_ne _ _ _ _ hn]
  · rw [here, cur, hc, State.core_modCore]
    rfl
  · intro q hq
    rw [others q hq, hr]
  · rw [ring, hr]
    have := appended (s.ring (s.jobOf s.cur.core).1) v { s.report r with detail := d } w false
    have hp : (BitVec.ofNat 17 s.cur.pc).toNat = s.cur.pc % 2 ^ 17 := BitVec.toNat_ofNat ..
    have he : s.cur.eng.num = 0 := by rw [he]; rfl
    simp only [State.report, hp, he] at this
    exact this
  · intro hn
    exact none_ hn

/-- A word of C whose body faults. -/
theorem ReadyC.stop {s : State} (h : ReadyC s) {body : Core → Body} {r : Report} (hb : body (here s) = .fault r) (hr : r.cause ≠ .poison) :
    ∃ t, cOp s body = .next t ∧ StoppedC s t r.cause := ⟨_, h.fault hb, stopped h.eng h.core r hr⟩

/-- The same of a meaning that is a word of C. -/
theorem ReadyC.stops {s : State} (h : ReadyC s) {o : Out} {body : Core → Body} (ho : o = cOp s body) {r : Report}
    (hb : body (here s) = .fault r) (hr : r.cause ≠ .poison) : ∃ t, o = .next t ∧ StoppedC s t r.cause := ho ▸ h.stop hb hr

end Sys2Proof.Claim
end

