-- ==== Sys2Proof/Tests/Slice0.lean ====
section
/-! SUPPORT. The model's own tests: words of the manual, ill-formed terms, single steps, and states that meet the hypotheses of the statements. -/

namespace Sys2Proof.Tests

open Machine Claim

-- one test after another: as many at once as there are would each reserve a stack
set_option Elab.async false

/-! ## Helpers -/

/-- A unit on core 0 whose image region of 256 bytes at SPM 0 lies under an open lease, with the all-zero word at its entry. -/
def b0 : State := State.reset.withFetchWord 64 0

/-- `b0` with core 0 changed. -/
def b0With (f : Core → Core) : State := b0.modCore 0 f

/-- A state whose word under the cursor stands on engine `e` of core 0 and has no clause. -/
def onEng (e : Engine) (s : State) : State := { s with cur := { Cursor.none with eng := e } }

theorem ready_c {s : State} (h : s.cur.eng = .c) (hu : s.cur.unit = none) (hf : s.cur.frame = ⟨none, 0⟩) : ReadyC s := by
  refine ⟨h, hu, fun p => ?_, fun q hq => ?_⟩
  · rw [hf]; exact Nat.zero_le _
  · rw [hf] at hq; cases q <;> exact absurd hq (by decide)

theorem ready_v {s : State} (h : s.cur.eng = .v) (hu : s.cur.unit = none) (hf : s.cur.frame = ⟨none, 0⟩) : ReadyV s 0 := by
  refine ⟨h, hu, fun p => ?_, fun q hq => ?_, Nat.zero_le _, fun q hq => ?_⟩
  · rw [hf]; exact Nat.zero_le _
  · rw [hf] at hq; cases q <;> exact absurd hq (by decide)
  · simp at hq

theorem ready_m {s : State} (h : s.cur.eng = .m) (hu : s.cur.unit = none) (hf : s.cur.frame = ⟨none, 0⟩) : ReadyM s 0 := by
  refine ⟨h, hu, fun p => ?_, fun q hq => ?_, Nat.zero_le _, fun q hq => ?_⟩
  · rw [hf]; exact Nat.zero_le _
  · rw [hf] at hq; cases q <;> exact absurd hq (by decide)
  · simp at hq

theorem ready_x {s : State} (h : s.cur.eng = .x) (hu : s.cur.unit = none) (hf : s.cur.frame = ⟨none, 0⟩)
    (hr : (here s).xcmds.length < 16) (hp : (here s).copy.replay = []) : ReadyX s := by
  refine ⟨h, hu, fun p => ?_, hr, hp⟩
  rw [hf]; exact Nat.zero_le _

theorem b0_ready : ReadyC b0 := ready_c rfl rfl rfl

theorem b0With_ready (f : Core → Core) : ReadyC (b0With f) := ready_c rfl rfl rfl

/-! ## Ill-formed terms are refused (R73 and the entries) -/

theorem test_wf_ok : Instr.wf (.add 1 2 3) = true := by decide
theorem test_wf_addp : Instr.wf (.addp 1 2 4) = false ∧ Instr.wf (.addp 2 3 4) = false ∧ Instr.wf (.addp 2 4 5) = false := by decide
theorem test_wf_shift : Instr.wf (.shli 1 2 64) = false ∧ Instr.wf (.shri 1 2 64) = false ∧ Instr.wf (.sari 1 2 64) = false := by decide
theorem test_wf_packed : Instr.wf (.packed 3 0 0 0) = false ∧ Instr.wf (.packed 0 0 1 0) = false ∧ Instr.wf (.packed 1 0 0 1) = false := by decide
theorem test_wf_steer : Instr.wf (.cmp 12 0 1 2) = false ∧ Instr.wf (.cmp 0 6 1 2) = false ∧ Instr.wf (.gset 12 1) = false ∧
    Instr.wf (.gcomb 0 4 1 2) = false ∧ Instr.wf (.gcomb 0 0 12 2) = false ∧ Instr.wf (.go 0 3) = false ∧ Instr.wf (.loop 0 1 0) = false := by decide
theorem test_wf_memory : Instr.wf (.ldt 1 2 3 63 0) = false ∧ Instr.wf (.stt 1 2 3 63 0) = false ∧ Instr.wf (.amo 1 2 3 9 0) = false ∧
    Instr.wf (.qpush 2 1) = false ∧ Instr.wf (.qflush 2 0) = false ∧ Instr.wf (.enqrT 1 2 12 0) = false := by decide
theorem test_wf_lease : Instr.wf (.rent 1 2 3 4 5 0) = false ∧ Instr.wf (.sublet 1 2 3 4) = false ∧ Instr.wf (.sublet 1 2 4 3) = false ∧
    Instr.wf (.purseq 1 0 5) = false ∧ Instr.wf (.purseq 1 5 4) = false ∧ Instr.wf (.purseq 1 1 0) = false ∧ Instr.wf (.xlat 1 2 0) = false := by decide
theorem test_wf_csr : Instr.wf (.csrr 1 2) = false ∧ Instr.wf (.csrw 0x120 1) = false := by decide
theorem test_wf_vector : Instr.wf (.vadd 1 0 0 0 0 0) = false ∧ Instr.wf (.vadd 4 0 0 0 0 0) = false ∧ Instr.wf (.vadd 0 0 0 0 0 5) = false ∧
    Instr.wf (.vcmp 0 8 0 0 0 0) = false ∧ Instr.wf (.vcmp 0 0 0 0 0 6) = false ∧ Instr.wf (.vshl 0 0 0 0 0 1) = false ∧
    Instr.wf (.vshl 0 0 1 0 1 1) = false ∧ Instr.wf (.vmsk 0 0 0 7 0) = false := by decide

/-! ## Words of the manual's examples and of its encoding tables decode to what they stand for -/

theorem test_dec_c1 : decodeWord false .c 0x0000011844000000#64 = .ok ⟨none, 0⟩ (.add 3 1 2) := by decide
theorem test_dec_c2 : decodeWord false .c 0x0000302229800000#64 = .ok ⟨none, 0⟩ (.cmp 2 2 5 6) := by decide
theorem test_dec_c3 : decodeWord false .c 0x0000341000000140#64 = .ok ⟨none, 0⟩ (.prepImm 1 0x140) := by decide
theorem test_dec_c4 : decodeWord false .c 0x0000351000000000#64 = .ok ⟨none, 0⟩ (.go 1 0) := by decide
theorem test_dec_c5 : decodeWord false .c 0x0000370600000005#64 = .ok ⟨none, 0⟩ (.loop 0 3 5) := by decide
theorem test_dec_c6 : decodeWord false .c 0x0000501200000000#64 = .ok ⟨none, 0⟩ (.qpush 0 9) := by decide
theorem test_dec_c7 : decodeWord false .c 0x0000722000000000#64 = .ok ⟨none, 0⟩ (.csrr 4 0) := by decide
theorem test_dec_c8 : decodeWord false .c 0x00007301C40C0000#64 = .ok ⟨none, 0⟩ (.csrw 0x103 7) := by decide
theorem test_dec_c9 : decodeWord false .c 0x0000540A00000000#64 = .ok ⟨none, 0⟩ (.fork 5) := by decide
theorem test_dec_c10 : decodeWord false .c 0x00005348530000C8#64 = .ok ⟨none, 0⟩ (.enqrT 4 5 3 200) := by decide
theorem test_dec_v1 : decodeWord false .v 0x0000340AC0050000#64 = .ok ⟨none, 0⟩ (.vredr 0 5 6 1 1) := by decide
theorem test_dec_v2 : decodeWord false .v 0x0000382F120C0000#64 = .ok ⟨none, 0⟩ (.vperm 1 7 8 9 3 0) := by decide
theorem test_dec_v3 : decodeWord false .v 0x000040042880000F#64 = .ok ⟨none, 0⟩ (.vld 0 2 5 1 0 0 15) := by decide
theorem test_dec_v4 : decodeWord false .v 0x0000440123428B30#64 = .ok ⟨none, 0⟩ (.vmap 1 2 3 4 10 11 12) := by decide
theorem test_dec_v5 : decodeWord false .v 0x0000504000640007#64 = .ok ⟨none, 0⟩ (.vloop 1 100 7) := by decide
theorem test_dec_v6 : decodeWord false .v 0x0000502000000003#64 = .ok ⟨none, 0⟩ (.vloopQ 0 3) := by decide
theorem test_dec_v7 : decodeWord false .v 0x00002B4000000000#64 = .ok ⟨none, 0⟩ (.vmpop 2) := by decide
theorem test_dec_v8 : decodeWord false .v 0x0000580C20080000#64 = .ok ⟨none, 0⟩ (.vmov 0 6 1 2) := by decide
theorem test_dec_v9 : decodeWord false .v 0x0000540080140011#64 = .ok ⟨none, 0⟩ (.vdefer 4 5 1 2 0) := by decide
theorem test_dec_m1 : decodeWord false .m 0x0000010002000020#64 = .ok ⟨none, 0⟩ (.mnest 0 0 2 32) := by decide
theorem test_dec_m2 : decodeWord false .m 0x000002008000003F#64 = .ok ⟨none, 0⟩ (.msrcaRec 2 63) := by decide
theorem test_dec_m3 : decodeWord false .m 0x000002000103F000#64 = .ok ⟨none, 0⟩ (.msrcaDim 63 0) := by decide
theorem test_dec_m4 : decodeWord false .m 0x0000050000000002#64 = .ok ⟨none, 0⟩ (.mfmt 1 0) := by decide
theorem test_dec_m5 : decodeWord false .m 0xB000060000000000#64 = .ok ⟨some (.x, 1), 0⟩ (.mgo 0) := by decide
theorem test_dec_m6 : decodeWord false .m 0x0082081180000000#64 = .ok ⟨none, 2⟩ (.mdrain 1 6 0 0 0 0 0) := by decide
theorem test_dec_x1 : decodeWord false .x 0x0000011441020000#64 = .ok ⟨none, 0⟩ (.xcopy 5 4 2 0 0 1) := by decide
theorem test_dec_x2 : decodeWord false .x 0x0000022480040000#64 = .ok ⟨none, 0⟩ (.xred 9 8 0 1 0) := by decide
theorem test_dec_x3 : decodeWord false .x 0x0000080000840001#64 = .ok ⟨none, 0⟩ (.xsigF 1 1) := by decide
theorem test_dec_x4 : decodeWord false .x 0x00000F1C00000023#64 = .ok ⟨none, 0⟩ (.xinv 7 0x23) := by decide
theorem test_dec_x5 : decodeWord false .x 0x0000110002000003#64 = .ok ⟨none, 0⟩ (.xwait 4 3) := by decide
/-- The keeper-only words decode in an update program and nowhere else (R70). -/
theorem test_dec_k1 : decodeWord true .v 0x0000630000000000#64 = .ok ⟨none, 0⟩ .kstep ∧ decodeWord false .v 0x0000630000000000#64 = .illop := by decide
/-- WAIT on the word's own engine, SIGNAL to it, and other bytes are ILLOP (R58, R59). -/
theorem test_dec_illop : decodeWord false .c 0x8000010000000000#64 = .illop ∧ decodeWord false .c 0x0081010000000000#64 = .illop ∧
    decodeWord false .c 0x0080010000000000#64 = .illop ∧ decodeWord false .c 0x0100010000000000#64 = .illop := by decide
/-- The packed word of R64's example. -/
theorem test_dec_packed : decodeWord false .v 0x7E01014302400000#64 = .ok ⟨none, 0⟩ (.packed 1 0x143 0x240 0) := by decide

/-! ## States that meet the hypotheses of the statements: C -/

theorem test_w_scalar : scalar (.add 31 0 31) (here b0) = some (31, 1, 0) ∧ scalar (.divu 1 2 3) (here b0) = some (1, 34, 0xFFFFFFFFFFFFFFFF) ∧ ReadyC b0 :=
  ⟨by decide, by decide, b0_ready⟩

theorem test_w_immediate : immediateOp (.shli 1 2 63) b0.cur.ext (here b0) = some (1, 0) ∧ immediateOp (.movi 31 0x3FFFFFFF) b0.cur.ext (here b0) = some (31, 0xFFFFFFFFFFFFFFFF) ∧
    ReadyC b0 := ⟨by decide, by decide, b0_ready⟩

/-- `ADDI S1, S0, 5` at word offset 8, after an `IMMX` at 7. -/
def bPair : State := { State.reset.withFetchWord 64 0x0000200800000005 with cur := { Cursor.none with pc := 7 } }

theorem test_w_pair : (∀ l ∈ (here bPair).c.loops, l.act = true → l.stop.toNat ≠ bPair.cur.pc) ∧ bPair.cur.pc + 1 ≠ (here bPair).c.stop.toNat ∧
    fetchWord bPair 0 8 = .ok 0x0000200800000005#64 ∧ decodeWord false .c 0x0000200800000005#64 = .ok ⟨none, 0⟩ (.addi 1 0 5) ∧
    (here bPair).readable (sReads (.addi 1 0 5)) (now bPair) = true ∧ immediateOp (.addi 1 0 5) (some 0xFFFFFFFFFF) (here bPair) = some (1, 0xFFFFFFFFFF000005) ∧
    ReadyC { bPair with cur := pairCursor bPair.cur ⟨none, 0⟩ 0x0000200800000005 0xFFFFFFFFFF } :=
  ⟨by decide, by decide, by rfl, by decide, by decide, by decide, ready_c rfl rfl rfl⟩

theorem test_w_steer : steer (.cmp 11 5 0 0) (here b0) = some (11, true, 5) ∧ steer (.gset 0 31) (here b0) = some (0, false, 7) ∧
    steer (.gcomb 11 3 0 11) (here b0) = some (11, false, 7) ∧ ReadyC b0 := ⟨by decide, by decide, by decide, b0_ready⟩

/-- `G0` with TARGET 31, the last word of the image, and COND 1; `G1` with TARGET 32 and COND 1. -/
def bSteer : State := b0With (fun c => { (c.setG 0 (BitVec.ofNat 32 (31 * 32 + 16 + 8))).setG 1 (BitVec.ofNat 32 (32 * 32 + 16 + 8)) with
  regs := { ((c.setG 0 (BitVec.ofNat 32 (31 * 32 + 16 + 8))).setG 1 (BitVec.ofNat 32 (32 * 32 + 16 + 8))).regs with prepAc := [] } })

theorem test_w_branch : ReadyC { bSteer with dies := [⟨4, 0, 0, 0, 0, 0, 0, 0⟩] } ∧ ((here bSteer).G 0).getLsbD 4 = true ∧ takes (here bSteer) 0 0 = true ∧
    8 ≤ target (here bSteer) 0 ∧ target (here bSteer) 0 < 8 * bSteer.imgLen 0 ∧ spGet 0 (here bSteer).regs.prepAc 0 + 4 ≤ 4 :=
  ⟨ready_c rfl rfl rfl, by decide, by decide, by decide, by decide, by decide⟩
/-- A target outside the image, and one that was never set. -/
theorem test_w_branch_bad : takes (here bSteer) 1 0 = true ∧ 8 * bSteer.imgLen 0 ≤ target (here bSteer) 1 ∧ ((here bSteer).G 2).getLsbD 4 = false := by decide

def bLoop (n : Nat) (act : Bool) : State := b0With (fun c => (c.setS 1 (BitVec.ofNat 64 n)).modStream .c (fun st =>
  { st with loops := [⟨act, 1, 8, 9⟩, .zero, .zero, .zero] }))

theorem test_w_loop : 2 ^ 24 ≤ ((here (bLoop (2 ^ 24) false)).S 1).toNat ∧ ((here (bLoop (2 ^ 24 - 1) true)).S 1).toNat < 2 ^ 24 ∧
    ((here (bLoop 1 true)).c.loops.getD 0 .zero).act = true ∧ (here (bLoop 0 false)).S 1 = 0 ∧ 8 * b0.imgLen 0 = 32 ∧ ReadyC (bLoop 1 true) :=
  ⟨by decide, by decide, by decide, by decide, by decide, b0With_ready _⟩

/-- Loop 0 ends at offset 0 with counts 2 and 1. -/
def bEnds (n : BitVec 24) : State := b0With (fun c => c.modStream .c (fun st => { st with loops := [⟨true, n, 8, 0⟩, .zero, .zero, .zero] }))
theorem test_w_flow : ReadyC (bEnds 2) ∧ (bEnds 2).cur.ext = none ∧ endsAt (here (bEnds 2)).c 0 0 ∧ (bEnds 2).cur.packed = false ∧ (here (bEnds 2)).inh = false ∧
    endsAt (here (bEnds 1)).c 0 0 := ⟨b0With_ready _, by decide, ⟨by decide, by decide⟩, by decide, by decide, ⟨by decide, by decide⟩⟩
theorem test_w_flow_packed : ReadyC { b0 with cur := { Cursor.none with packed := true, lastCode := false } } := ready_c rfl rfl rfl

/-- `T0` names SPM 0 to 255 under lease 1 with BOUNDS 0; `T1` the same with BOUNDS 1, `T2` with BOUNDS 2. -/
def recImg (bounds : Nat) : BitVec 256 := BitVec.ofNat 256 (256 * 2 ^ 162 + bounds * 2 ^ 59 + 1 * 2 ^ 43)
def bRec : State := b0With (fun c => ((((c.setT 0 (recImg 0)).setT 1 (recImg 1)).setT 2 (recImg 2)).setS 1 248).setS 2 256)

theorem test_w_load : loadOf (.ld 31 1 3 0 0) (here bRec) = some (31, 0, 248, 8, 6) ∧ ReadyC bRec ∧
    cAccess bRec (here bRec) 0 248 8 = .ok (.at_ (keySpm 0 248)) ∧ bRec.poisoned (keySpm 0 248) 8 = false ∧ (here bRec).behindAtom (keySpm 0 248) 8 = false ∧
    cAccess bRec (here bRec) 2 256 8 = .ok .zero ∧ cAccess bRec (here bRec) 0 256 8 = .error .bounds ∧ cAccess bRec (here bRec) 0 252 8 = .error .bounds ∧
    cAccess bRec (here bRec) 0 4 8 = .error .align :=
  ⟨by decide, b0With_ready _, by rfl, by decide, by decide, by rfl, by rfl, by rfl, by rfl⟩
theorem test_w_store : storeOf (.stt 1 1 0 1 0) (here bRec) = some (1, 248, 1, 248) ∧ cAccess bRec (here bRec) 1 256 8 = .ok (.at_ (keySpm 0 248)) := ⟨by decide, by rfl⟩
theorem test_w_access_raw : cAccess b0 (here b0) 63 248 8 = .ok (.at_ (keySpm 0 248)) ∧ cAccess b0 (here b0) 63 (2 ^ 20) 8 = .error .bounds ∧
    cAccess b0 (here b0) 63 4 8 = .error .align ∧ checkCovering b0 (b0.jobOf 0).1 (b0.jobOf 0).2 (keySpm 0 248) 8 = none := ⟨by rfl, by rfl, by rfl, by decide⟩
theorem test_w_atomic : atomicOf (.cas 31 1 2 3 1) (here bRec) = some (31, 248, 8, 9, 256, 0) ∧ rawAccess bRec 0 248 8 8 = .ok (keySpm 0 248) ∧
    rawAccess bRec 0 (2 ^ 20) 8 8 = .error .bounds ∧ ReadyC bRec := ⟨by decide, by rfl, by rfl, b0With_ready _⟩
theorem test_w_own_store : ({ Core.reset with flights := [⟨1, .c, 0, [.store 8 (toBytes 8 5)], false, true⟩] } : Core).cStores = [(8, toBytes 8 5)] := by decide

/-- Record images at SPM 0 and 32: a legal tensor record, and one with BOUNDS 3; an iterator record at 64 with IDX0 above DIM0. -/
def bImg : State := { ((b0With (fun c => c.setS 1 32)).writeNat (keySpm 0 32) 32 (recImg 3).toNat).writeNat (keySpm 0 64) 16 (2 ^ 48) with cur := Cursor.none }
theorem test_w_records : ReadyC bImg ∧ rawAccess bImg 0 (((here bImg).S 1).toInt) 32 32 = .ok (keySpm 0 32) ∧ bImg.poisoned (keySpm 0 32) 32 = false ∧
    (here bImg).behindAtom (keySpm 0 32) 32 = false ∧ tBounds (BitVec.ofNat 256 (bImg.cNat (here bImg) (keySpm 0 32) 32)) = 3 ∧
    rawAccess bImg 0 (((here bImg).S 0).toInt) 16 16 = .ok (keySpm 0 0) :=
  ⟨ready_c rfl rfl rfl, by rfl, by decide, by decide, by decide, by rfl⟩

def bQueue (n : Nat) : State := b0With (fun c => { c with cqv := List.replicate n (0, 0), cqm := List.replicate n (0, 0), v := { c.v with run := .running }, m := { c.m with run := .running } })
theorem test_w_queues : ReadyC (bQueue 63) ∧ (here (bQueue 63)).cqv.length < 64 ∧ 64 ≤ (here (bQueue 64)).cqm.length ∧ (here (bQueue 48)).cqv.length ≤ 48 ∧
    rawAccess (bQueue 1) 0 0 128 8 = .ok (keySpm 0 0) ∧ (here (bQueue 0)).sweep = none ∧ (here (bQueue 0)).v.run = .running ∧ (here (bQueue 0)).m.run = .running := by
  have hv : ∀ n, (here (bQueue n)).cqv.length = n := fun n => List.length_replicate ..
  have hm : ∀ n, (here (bQueue n)).cqm.length = n := fun n => List.length_replicate ..
  have h64 : 64 ≤ (here (bQueue 64)).cqm.length := by have := hm 64; omega
  have h63 : (here (bQueue 63)).cqv.length < 64 := by have := hv 63; omega
  have h48 : (here (bQueue 48)).cqv.length ≤ 48 := by have := hv 48; omega
  exact ⟨b0With_ready _, h63, h64, h48, by rfl, by decide, by decide, by decide⟩

theorem test_w_csr : csrValue b0 0 0x044 = some 1 ∧ csrValue b0 0 0x11F = some 0 ∧ csrWritten (here b0) 0x012 1 ≠ none ∧ csrWritten (here b0) 0x11F 1 ≠ none ∧
    b0.captures = [] ∧ readOnlyCsr 0x051 = true ∧ ReadyC b0 := ⟨by decide +kernel, by decide +kernel, by decide +kernel, by decide +kernel, by decide, by decide, b0_ready⟩
theorem test_w_csr_busy : (here (b0With (fun c => { c with csr := { c.csr with offcutn := 1 } }))).csr.offcutn ≠ 0 := by decide

/-- A handler at offset 8; `inh`: it runs. -/
def bTrap (inh : Bool) : State := b0With (fun c => { c with csr := { c.csr with trapv := 8, trapret := if inh then 0x20000 else 0 } })
theorem test_w_trap : ReadyC (bTrap false) ∧ (here (bTrap false)).inh = false ∧ (here (bTrap false)).csr.trapv ≠ 0 ∧ (here (bTrap true)).inh = true ∧
    (here (bTrap true)).ctl.faults = [] ∧ (here b0).csr.trapv = 0 := ⟨b0With_ready _, by decide, by decide, by decide, by decide, by decide⟩
def bFault : State := b0With (fun c => { c with csr := { c.csr with trapv := 8 }, ctl := { c.ctl with faults := [{ Report.of .illop with eng := .v }] } })
theorem test_w_trap_entry : (bFault.core 0).ctl.faults = { Report.of .illop with eng := .v } :: [] ∧ (bFault.core 0).inh = false ∧ (bFault.core 0).c.run = .running ∧
    (bFault.core 0).seat.stopping = false ∧ (bFault.core 0).c.wait.kind ≠ .lease ∧ (bFault.core 0).c.wait.kind ≠ .cancel := by decide

theorem test_w_dictionary : ReadyC b0 ∧ ((here b0).stream (engineOf 1)).run = .ended ∧ (∀ l ∈ (here b0).ctl.loads, l.1 ≠ engineOf 1) ∧
    ((here (bQueue 0)).stream (engineOf 1)).run ≠ .ended := ⟨b0_ready, by decide, by decide, by decide⟩
/-- A lease over 8,192 bytes of SPM. -/
def bWide : State := { b0 with leases := [(1, { (default : Lease) with state := .open_, tier := 1, part := 1, job := 1, base := 0, len := 0x100000, paid := 1000, ranges := [(keySpm 0 0, 0x100000)] })] }
theorem test_w_dictionary_bytes : rawAccess bWide 0 0 8192 64 = .ok (keySpm 0 0) ∧ bWide.poisoned (keySpm 0 0) 8192 = false ∧ (here bWide).behindAtom (keySpm 0 0) 8192 = false := ⟨by rfl, by decide, by decide⟩
theorem test_w_dictionary_end : ∃ s : State, (s.core 0).ctl.loads = (.v, List.replicate 1024 0, 0) :: [] ∧ (List.replicate 1024 (0 : W64)).length = 1024 ∧ (s.core 0).seat.cancelling = false :=
  ⟨b0With (fun c => { c with ctl := { c.ctl with loads := [(.v, List.replicate 1024 0, 0)] } }), rfl, List.length_replicate .., rfl⟩

def bFlight (older : Bool) : State := b0With (fun c => { c with flights := (if older then [⟨1, .v, 0, [], false, true⟩] else []) ++ [⟨2, .v, 1, [.flags .v 8], false, true⟩] })
theorem test_w_retire : ((bFlight true).core 0).flights = [⟨1, .v, 0, [], false, true⟩] ++ ⟨2, .v, 1, [.flags .v 8], false, true⟩ :: [] ∧
    ((bFlight false).core 0).flights = [] ++ ⟨2, .v, 1, [.flags .v 8], false, true⟩ :: [] ∧ ((bFlight true).core 0).seat.cancelling = false := by decide
theorem test_w_effects : ((([(0, 1), (1023, 2)] : Tile)).Pairwise (fun p q => p.1 < q.1)) ∧ (∀ p ∈ ([(0, 1), (1023, 2)] : Tile), (BitVec.allOnes 1024).getLsbD p.1 = true) ∧
    (∀ x, some (0x7FFFFFFF : W32) = some x → x.toNat < 2 ^ 31) := ⟨by decide, fun p hp => by simp only [List.mem_cons, List.not_mem_nil, or_false] at hp; rcases hp with rfl | rfl <;> simp, by intro x h; injection h with h; subst h; decide⟩
theorem test_w_amo : (0xFFFFFFFF : Nat) < 2 ^ (8 * 4) ∧ (0xFFFFFFFFFFFFFFFF : Nat) < 2 ^ (8 * 8) := by decide

/-! ## C: words that wait -/

/-- A fork block of zeros at SPM 0, and one whose first doubleword starts V at offset 4, in the image. -/
theorem test_w_fork : ReadyC b0 ∧ (here b0).ctl.loads = [] ∧ (here b0).v.run = .ended ∧ (here b0).m.run = .ended ∧ (here b0).x.run = .ended ∧
    rawAccess b0 0 ((here b0).S 0).toInt 24 8 = .ok (keySpm 0 0) ∧ b0.poisoned (keySpm 0 0) 24 = false ∧ (here b0).behindAtom (keySpm 0 0) 24 = false ∧
    (∀ i, i < 3 → b0.cNat (here b0) (keySpm 0 0 + 8 * i) 8 = 0) ∧ forkLegal (BitVec.ofNat 64 0) ∧ forkLegal (BitVec.ofNat 64 (2 ^ 63 + 9 * 2 ^ 17 + 8)) ∧
    ¬ forkLegal (BitVec.ofNat 64 (2 ^ 63 + 9 * 2 ^ 17 + 7)) ∧ ¬ forkLegal (BitVec.ofNat 64 (2 ^ 62)) :=
  ⟨b0_ready, by decide, by decide, by decide, by decide, by rfl, by decide, by decide, by decide, by unfold forkLegal; decide, by unfold forkLegal; decide,
    by unfold forkLegal; decide, by unfold forkLegal; decide⟩
/-- The same block with its first doubleword 4 above a 63-bit start, which R42 forbids. -/
def bFork : State := b0.writeNat (keySpm 0 0) 8 (2 ^ 63 + 9 * 2 ^ 17 + 4)
theorem test_w_fork_bad : ReadyC bFork ∧ bFork.cNat (here bFork) (keySpm 0 0 + 8 * 0) 8 = 2 ^ 63 + 9 * 2 ^ 17 + 4 ∧
    ¬ forkLegal (BitVec.ofNat 64 (2 ^ 63 + 9 * 2 ^ 17 + 4)) ∧ rawAccess bFork 0 ((here bFork).S 0).toInt 24 8 = .ok (keySpm 0 0) ∧
    (here (bQueue 0)).v.run ≠ .ended := ⟨ready_c rfl rfl rfl, by decide, by unfold forkLegal; decide, by rfl, by decide⟩

def bStream (pc : BitVec 17) : State := b0With (fun c => { c with v := { c.v with run := .running, pc := pc, stop := 9 } })
theorem test_w_streamend : ((bStream 9).core 0).seat.stopping = false ∧ (((bStream 9).core 0).stream .v).run = .running ∧
    (((bStream 9).core 0).stream .v).pc = (((bStream 9).core 0).stream .v).stop ∧ (((bStream 9).core 0).stream .v).packed = false ∧
    ((bStream 9).core 0).retiredAll .v = true ∧ (((bStream 8).core 0).stream .v).pc ≠ (((bStream 8).core 0).stream .v).stop := by decide

/-- C of core 0 waits in `i`, with the wait `k` on `obj` for `goal`. -/
def bWait (k : WaitKind) (i : Instr) (obj goal : Nat) (f : Core → Core) : State :=
  b0With (fun c => f { c with c := { c.c with wait := ⟨k, 0, false, obj, goal, false, some (Cursor.none, i), 0, 0, none⟩ } })
theorem bWait_waits (k : WaitKind) (i : Instr) (obj goal : Nat) (f : Core → Core) (hf : ∀ c, (f c).c = c.c) :
    Waits (bWait k i obj goal f) 0 k Cursor.none i := by
  have hc : ((bWait k i obj goal f).core 0).c.wait = ⟨k, 0, false, obj, goal, false, some (Cursor.none, i), 0, 0, none⟩ := by
    show (f _).c.wait = _
    rw [hf]
  exact ⟨by rw [hc], by rw [hc], rfl, rfl, rfl⟩

theorem test_w_join : Waits (bWait .rend .rend 0 0 id) 0 .rend Cursor.none .rend ∧ joinable ((bWait .rend .rend 0 0 id).core 0) = true ∧
    ((bWait .rend .rend 0 0 id).core 0).ctl.lastEnd + 4 ≤ { bWait .rend .rend 0 0 id with dies := [⟨4, 0, 0, 0, 0, 0, 0, 0⟩] }.acOf 0 ∧
    ((bWait .rend .rend 0 0 id).core 0).seat.stopping = false ∧ ((bWait .rend .rend 0 0 id).core 0).cqv = [] ∧ ((bWait .rend .rend 0 0 id).core 0).cqm = [] ∧
    ((bWait .rend .rend 0 0 id).core 0).csr.offcutn = 0 := ⟨bWait_waits _ _ _ _ _ (fun _ => rfl), by decide, by decide, by decide, by decide, by decide, by decide⟩
theorem test_w_join_left : joinable ((bWait .halt .halt 0 0 (fun c => { c with ctl := { c.ctl with forked := true }, cqm := [(0, 1)] })).core 0) = true ∧
    ((bWait .halt .halt 0 0 (fun c => { c with cqm := [(0, 1)] })).core 0).cqm ≠ [] ∧
    ((bWait .halt .halt 0 0 (fun c => { c with csr := { c.csr with offcutn := 1 } })).core 0).csr.offcutn ≠ 0 := by decide

def bArr (n : Nat) (o : List BarWait) : State :=
  let b := b0With (fun c => { c with ctl := { c.ctl with bars := o } })
  { b with launches := b0.launches.map (fun l => { l with arrivals := [(15 * 4096, n)], gens := [(15, 1)] }) }
theorem test_w_bar : ∃ u l, (bArr 1 []).unitOf 0 = some u ∧ u.block = none ∧ (bArr 1 []).launch u.launch = some l ∧
    (∀ a ∈ (here (bArr 1 [])).ctl.bars, kept (bArr 1 []) 15 a = false) ∧ spGet 0 l.gens 15 ≤ arrivals l 15 u.no ∧ ReadyC (bArr 1 []) :=
  ⟨_, _, rfl, rfl, rfl, (fun _ h => nomatch h), by decide, ready_c rfl rfl rfl⟩
theorem test_w_bar_kept : (here (bArr 2 [⟨0, 0, 0, 15, 2⟩])).ctl.bars.find? (kept (bArr 2 [⟨0, 0, 0, 15, 2⟩]) 15) = some ⟨0, 0, 0, 15, 2⟩ ∧
    (here (bArr 1 [⟨0, 0, 0, 15, 1⟩])).ctl.bars.find? (kept (bArr 1 [⟨0, 0, 0, 15, 1⟩]) 15) = some ⟨0, 0, 0, 15, 1⟩ ∧
    ((bArr 2 [⟨0, 0, 0, 15, 2⟩]).launch 1).map (fun l => spGet 0 l.gens 15) = some 1 := by decide
theorem test_w_bar_due : Waits (bWait .bar (.bar 15) 15 1 (fun c => { c with c := { c.c with wait := { c.c.wait with due := some 0 } } })) 0 .bar Cursor.none (.bar 15) ∧
    Due (bWait .bar (.bar 15) 15 1 (fun c => { c with c := { c.c with wait := { c.c.wait with due := some 0 } } })) 0 := ⟨⟨rfl, rfl, rfl, rfl, rfl⟩, ⟨⟨0, rfl, by decide⟩, rfl, rfl⟩⟩
theorem test_w_bar_scope : ∀ u, { b0 with units := [] }.unitOf 0 = some u → u.block ≠ none :=
  fun _ h => nomatch h
theorem test_w_generation : ∃ l, (bArr 2 []).launch 1 = some l ∧ l.done = false ∧ spGet 0 l.gens 15 = 1 ∧ (bArr 2 []).allArrived l 15 2 = true := by
  refine ⟨_, rfl, rfl, rfl, ?_⟩
  decide +kernel
theorem test_w_generation_not : (bArr 2 []).plainLanded 1 = true ∧ ((bArr 1 []).launch 1).map (fun l => (bArr 1 []).allArrived l 15 2) = some false := by decide +kernel

/-- `O31` names the local object at SPM 8, under a SYNC lease; `O1` is empty; `O2` names SPM 2^20 − 8, which no lease covers. -/
def bObj : State :=
  let b := b0With (fun c => ((c.setO 31 (BitVec.ofNat 64 (2 ^ 62 + 8))).setO 2 (BitVec.ofNat 64 (2 ^ 62 + 2 ^ 20 - 8))).setS 1 5)
  { b with leases := b0.leases.map (fun e => (e.1, { e.2 with sync := true })) }
theorem test_w_object : ObjectAt bObj 31 (keySpm 0 8) ∧ (here bObj).cPending (keySpm 0 8) 8 = false ∧ ReadyC bObj ∧ bObj.homeNat (keySpm 0 8) 8 = 0 ∧
    ¬ (2 ^ 64 ≤ keySpm 0 8 ∧ keySpm 0 8 < 2 * 2 ^ 64) :=
  ⟨⟨by decide +kernel, by rfl, by decide +kernel⟩, by decide +kernel, ready_c rfl rfl rfl, by decide +kernel, by decide⟩
theorem test_w_object_none : bits ((here bObj).O 1) 62 2 = 0 ∧ bits ((here bObj).O 2) 62 2 = 1 ∧ ∀ k, ¬ ObjectAt bObj 2 k :=
  ⟨by decide +kernel, by decide +kernel, fun k ⟨_, h, hs⟩ => by
    have hk : objHome bObj bObj.cur.core ((here bObj).O 2) = some (keySpm 0 (2 ^ 20 - 8)) := by rfl
    rw [hk] at h; injection h with h; subst h; exact absurd hs (by decide +kernel)⟩
theorem test_w_waito : Waits (bWait .object (.waito 31 1 2) (keySpm 0 8) 0 id) 0 .object Cursor.none (.waito 31 1 2) ∧
    ((bWait .object (.waito 31 1 2) (keySpm 0 8) 0 id).core 0).paused = false ∧
    ((bWait .object (.waito 31 1 2) (keySpm 0 8) 0 id).core 0).c.wait.goal ≤ (bWait .object (.waito 31 1 2) (keySpm 0 8) 0 id).homeNat (keySpm 0 8) 8 ∧
    ((bWait .object (.waitoT 31 1 2 0) (keySpm 0 8) 1 id).core 0).c.wait.since + 0 ≤ (bWait .object (.waitoT 31 1 2 0) (keySpm 0 8) 1 id).tick ∧
    ¬ ((bWait .object (.waitoT 31 1 2 0) (keySpm 0 8) 1 id).core 0).c.wait.goal ≤ (bWait .object (.waitoT 31 1 2 0) (keySpm 0 8) 1 id).homeNat (keySpm 0 8) 8 :=
  ⟨bWait_waits _ _ _ _ _ (fun _ => rfl), by decide, by decide, by decide, by decide⟩
theorem test_w_waito_cancelled : ((bWait .object (.waito 31 1 2) (keySpm 0 8) 1 (fun c => { c with c := { c.c with wait := { c.c.wait with cancelled := true } } })).core 0).c.wait.cancelled = true := by decide

/-! ## Enqueues, buffer phases, halts, cancels -/

/-- Core 0 belongs to partition 1; a block of zeros but IMGLEN 16384 stands at SPM 0. -/
def bEnq (n : Nat) : State :=
  let b := (b0With (fun c => { c with seat := { c.seat with queue := List.replicate n (0, 1, 0) } })).writeNat (keySpm 0 0) 64 (16384 * 2 ^ 340)
  { b with owners := [(0, 65)], cur := Cursor.none }
theorem test_w_enqr : ReadyC (bEnq 7) ∧ ((here (bEnq 7)).S 0).toNat < 2048 ∧ (bEnq 7).partOfCore 0 = some ((bEnq 7).jobOf 0).1 ∧
    rawAccess (bEnq 7) 0 ((here (bEnq 7)).S 0).toInt 64 64 = .ok (keySpm 0 0) ∧ (bEnq 7).poisoned (keySpm 0 0) 64 = false ∧
    (here (bEnq 7)).behindAtom (keySpm 0 0) 64 = false ∧ blockOk (BitVec.ofNat 512 (16384 * 2 ^ 340)) ∧
    (bEnq 7).cNat (here (bEnq 7)) (keySpm 0 0) 64 = 16384 * 2 ^ 340 ∧ ((bEnq 7).core 0).seat.queue.length < 8 ∧ 8 ≤ ((bEnq 8).core 0).seat.queue.length :=
  ⟨ready_c rfl rfl rfl, by decide, by decide, by rfl, by decide, by decide, by unfold blockOk; decide, by decide, by decide, by decide⟩
theorem test_w_issuer : ∃ u l, issuer (bEnq 7) 0 u l := ⟨_, _, rfl, rfl⟩
theorem test_w_enqr_bad : ¬ blockOk (BitVec.ofNat 512 (2 ^ 326 + 16384 * 2 ^ 340)) ∧ { bEnq 7 with owners := [] }.partOfCore 0 ≠ some 1 := by unfold blockOk; decide
theorem test_w_enqr_wait : Waits (bWait .enqr (.enqrT 1 2 3 5) 0 0 id) 0 .enqr Cursor.none (.enqrT 1 2 3 5) ∧
    ((bWait .enqr (.enqrT 1 2 3 5) 0 0 id).core 0).seat.stopping = false ∧ ((bWait .enqr (.enqrT 1 2 3 5) 0 0 id).core 0).seat.queue.length < 8 ∧
    ((bWait .enqr (.enqrT 1 2 3 5) 0 0 id).core 0).c.wait.since + 5 ≤ { bWait .enqr (.enqrT 1 2 3 5) 0 0 id with tick := 5 }.tick ∧
    ((bWait .enqr (.enqrT 1 2 3 5) 0 0 id).core 0).paused = false ∧ (∃ u l, issuer (bWait .enqr (.enqrT 1 2 3 5) 0 0 id) 0 u l) :=
  ⟨bWait_waits _ _ _ _ _ (fun _ => rfl), by decide, by decide, by decide, by decide, _, _, rfl, rfl⟩

theorem test_w_bphase : Waits (bWait .bphase (.bphase 1) 0 0 id) 0 .bphase Cursor.none (.bphase 1) ∧ ((bWait .bphase (.bphase 1) 0 0 id).core 0).seat.stopping = false ∧
    ((bWait .bphase (.bphase 1) 0 0 id).core 0).v.run = .ended ∧ ((bWait .bphase (.bphase 1) 0 0 id).core 0).m.run = .ended ∧ ((bWait .bphase (.bphase 1) 0 0 id).core 0).x.run = .ended ∧
    ((bWait .bphase (.bphase 1) 0 0 id).core 0).flights = [] ∧ ((bWait .bphase (.bphase 1) 0 0 id).core 0).mat.ops = [] ∧
    ((bWait .bphase (.bphase 1) 0 0 (fun c => { c with v := { c.v with run := .running } })).core 0).v.wait.kind = .none :=
  ⟨bWait_waits _ _ _ _ _ (fun _ => rfl), by decide, by decide, by decide, by decide, by decide, by decide, by decide⟩
theorem test_w_halt : Waits (bWait .halt .halt 0 0 id) 0 .halt Cursor.none .halt ∧ (∃ u, (bWait .halt .halt 0 0 id).unitOf 0 = some u) ∧ allRetired ((bWait .halt .halt 0 0 id).core 0) ∧
    ((bWait .halt .halt 0 0 id).core 0).seat.stopping = false ∧ ((bWait .halt .halt 0 0 id).core 0).ctl.countedC = none ∧ ((bWait .halt .halt 0 0 id).core 0).ctl.countedX = none ∧
    ¬ allRetired ((bWait .halt .halt 0 0 (fun c => { c with flights := [⟨1, .c, 0, [], false, true⟩] })).core 0) :=
  ⟨bWait_waits _ _ _ _ _ (fun _ => rfl), ⟨_, rfl⟩, by unfold allRetired; decide, by decide, by decide, by decide, by unfold allRetired; decide⟩

/-- Core 1 holds unit 1 of launch 1, which unit 0 on core 0 enqueued. -/
def bTwo (super issuer : Nat) : State :=
  let b := b0.modCore 1 (fun c => { c with seat := { c.seat with unit := some (1, 1) } })
  { b with units := b0.units ++ [⟨1, 1, .resident, 1, none, some 0, issuer, 0, 4⟩]
           cores := b.cores.map (fun e => if e.1 = 0 then (e.1, { e.2 with regs := { e.2.regs with s := [(1, 1), (2, 9)] } }) else e)
           launches := b0.launches.map (fun l => { l with record := BitVec.ofNat 512 (super * 2 ^ 263 + 2 ^ 274) }) }
theorem test_w_cancel_unit : ∃ u, namesResident (bTwo 5 0) ((bTwo 5 0).jobOf 0) ((here (bTwo 5 0)).S 1).toNat u ∧ owns (bTwo 5 0) 0 u ∧ ((here (bTwo 5 0)).S 1).toNat ≠ 0 ∧
    (here (bTwo 5 0)).seat.unit ≠ none ∧ notInWaito ((bTwo 5 0).core 1) ∧ ReadyC (bTwo 5 0) :=
  ⟨_, ⟨by decide, by decide, by decide, by decide, rfl, rfl, rfl⟩, Or.inr ⟨by decide, by decide⟩, by decide, by decide,
    (fun _ _ h => nomatch h), ready_c rfl rfl rfl⟩
theorem test_w_cancel_denied : ∃ u, namesResident (bTwo 5 7) ((bTwo 5 7).jobOf 0) 1 u ∧ ¬ owns (bTwo 5 7) 0 u :=
  ⟨_, ⟨by decide, by decide, by decide, by decide, rfl, rfl, rfl⟩, fun h => by
    rcases h with ⟨l, hl, hb⟩ | ⟨_, h⟩
    · have : l = ((bTwo 5 7).launch 1).getD default := by rw [show (1 : Nat) = 1 from rfl]; exact (congrArg (Option.getD · default) hl).symm
      subst this; exact absurd hb (by decide)
    · exact absurd h (by decide)⟩
theorem test_w_cancel_none : namesNone (bTwo 5 0) ((bTwo 5 0).jobOf 0) 9 ∧ namesNone (bTwo 5 0) ((bTwo 5 0).jobOf 0) 0x10000 :=
  ⟨⟨fun _ => Or.inl (by decide), fun h => absurd h (by decide)⟩, ⟨fun h => absurd h (by decide), fun _ _ v hv => absurd hv (List.not_mem_nil)⟩⟩
theorem test_w_cancel_launch : ∃ l, (bTwo 0 0).launch ((here (bTwo 0 0)).S 1).toNat = some l ∧ (bTwo 0 0).jobOfLaunch 1 = (bTwo 0 0).jobOf 0 ∧ l.done = false ∧ l.cancelled = false ∧
    (bTwo 0 0).jobSuper ((bTwo 0 0).jobOf 0).1 ((bTwo 0 0).jobOf 0).2 = some 0 ∧ savesOk (bTwo 0 0) :=
  ⟨_, rfl, by decide, rfl, rfl, by decide, by decide, List.Pairwise.nil⟩
theorem test_w_cancel_super : { bTwo 0 0 with jobs := [(jobIx 1 1, { Job.reset with super := 9 })] }.jobSuper 1 1 ≠ some 0 ∧ (bTwo 0 0).launch 9 = none ∧
    (∃ g ∈ (bTwo 0 0).graphs, g.part = 1 ∧ bits g.record 464 16 = 1 ∧ bits g.record 480 32 = 0 ∧ g.cancelled = false) ∧ ((bTwo 0 0).jobOf 0).2 = 1 := by decide

/-! ## Leases, purses, handles -/

theorem test_w_lease_args : rentLegal 0 0 64 1 ∧ rentLegal 1 0 0x100000 (2 ^ 32 - 1) ∧ rentLegal 0 0x3FFC0 64 1 ∧ ¬ rentLegal 0 0x40000 64 1 ∧ ¬ rentLegal 1 0 64 0 ∧
    ¬ rentLegal 3 64 262144 1 ∧ rentLegal 4 262144 262144 1 ∧ ReadyC b0 :=
  ⟨by unfold rentLegal; decide, by unfold rentLegal; decide, by unfold rentLegal; decide, by unfold rentLegal; decide, by unfold rentLegal; decide,
    by unfold rentLegal; decide, by unfold rentLegal; decide, b0_ready⟩

/-- Core 0 waits in a lease instruction `i` since ac 0, at ac 20, with a purse of 100 points; `S1` = 64 or as given, `S2` = 1, `S3` = the lease's id. -/
def bLease (i : Instr) (s1 : Nat) (f : Lease → Lease) : State :=
  let b := bWait .lease i 0 0 (fun c => { c with regs := { c.regs with s := [(1, BitVec.ofNat 64 s1), (2, 1), (3, 1)] } })
  { b with dies := [⟨20, 0, 0, 0, 0, 0, 0, 0⟩, .reset, .reset, .reset], purses := [(jobIx 1 1, ⟨100, 0, 1000, 0, 0, false⟩)]
           leases := b.leases.map (fun e => (e.1, f e.2)), jobs := [(jobIx 1 1, { Job.reset with valid := true })] }
theorem bLease_waits (i : Instr) (s1 : Nat) (f : Lease → Lease) : Waits (bLease i s1 f) 0 .lease Cursor.none i := ⟨rfl, rfl, rfl, rfl, rfl⟩
theorem test_w_rent : Waits (bLease (.rent 4 1 1 2 1 0) 256 id) 0 .lease Cursor.none (.rent 4 1 1 2 1 0) ∧
    ((bLease (.rent 4 1 1 2 1 0) 256 id).core 0).c.wait.ac + 20 ≤ (bLease (.rent 4 1 1 2 1 0) 256 id).acOf 0 ∧
    rentRanges (bLease (.rent 4 1 1 2 1 0) 256 id) 1 1 0 1 256 256 false = some [(keySpm 0 256, 256)] ∧
    (bLease (.rent 4 1 1 2 1 0) 256 id).taken [(keySpm 0 256, 256)] = false ∧ (bLease (.rent 4 1 1 2 1 0) 256 id).freeSlot 0 = some 2 ∧
    (bLease (.rent 4 1 1 2 1 0) 256 id).taken [(keySpm 0 192, 256)] = true ∧ rentRanges (bLease (.rent 4 1 1 2 3 0) 0 id) 1 1 0 3 0 262144 false = none :=
  ⟨bLease_waits .., by decide, by rfl, by decide +kernel, by decide +kernel, by decide +kernel, by rfl⟩
theorem test_w_pays : pays (bLease .halt 0 id) 1 1 100 ∧ ¬ pays (bLease .halt 0 id) 1 1 101 := by unfold pays; decide
theorem test_w_renew : ∃ l, owned (bLease (.renew 4 3 2) 0 id) 1 1 1 l ∧ l.state = .open_ ∧ 0 < l.paid ∧ l.vacating = false ∧ l.parent = 0 :=
  ⟨_, ⟨rfl, rfl, rfl⟩, rfl, by decide, rfl, rfl⟩
theorem test_w_renew_sub : ∃ l, owned (bLease (.renew 4 3 2) 0 (fun l => { l with parent := 9, state := .lapsed })) 1 1 1 l ∧ l.parent ≠ 0 ∧ l.state = .lapsed :=
  ⟨_, ⟨rfl, rfl, rfl⟩, by decide, rfl⟩
theorem test_w_renew_none : ∀ l, ¬ owned (bLease (.renew 4 1 2) 7 id) 1 1 7 l := fun _ h => nomatch h.1
theorem test_w_prepay : ((bLease (.prepay 4 3 1 2) 100 id).core 0).S 1 = 100 ∧ ((bLease (.prepay 4 3 1 2) (2 ^ 64 - 1) (fun l => { l with escrow := 5 })).core 0).S 1 = BitVec.allOnes 64 := by decide
theorem test_w_sublet : ∃ l, owned (bLease (.sublet 4 3 2 2) 0 id) 1 1 1 l ∧ ((bLease .halt 0 id).job 1 1).valid = true ∧ l.state = .open_ ∧ l.vacating = false ∧ l.parent = 0 ∧
    0 + 64 ≤ l.len ∧ (bLease .halt 0 id).tick < l.paid ∧ (bLease .halt 0 id).freeSlot (1 / 8192) = some 2 :=
  ⟨_, ⟨rfl, rfl, rfl⟩, by decide, rfl, rfl, rfl, by decide, by decide, by decide +kernel⟩
theorem test_w_vacate : (∃ l, owned (bLease (.vacate 4 3) 0 (fun l => { l with holds := 1 })) 1 1 1 l ∧ l.holds ≠ 0 ∧ l.sync = false) ∧
    ((bLease (.vacate 4 3) 0 id).core 0).c.wait.obj = 0 ∧ (∃ l, owned (bLease (.vacate 4 3) 0 (fun l => { l with sync := true, waiters := 1 })) 1 1 1 l ∧ 0 < l.waiters) :=
  ⟨⟨_, ⟨rfl, rfl, rfl⟩, by decide, rfl⟩, rfl, ⟨_, ⟨rfl, rfl, rfl⟩, by decide⟩⟩
theorem test_w_leaseq : (∃ l, owned b0 1 1 1 l) ∧ (∀ l, ¬ owned b0 1 1 0 l) ∧ b0.jobOf 0 = (1, 1) := ⟨⟨_, rfl, rfl, rfl⟩, (fun _ h => nomatch h.1), by decide⟩

/-- `H31` is READY, and a walk for `H30` is pending. -/
def bHandle : State := b0With (fun c => { c.setH 31 (BitVec.ofNat 128 (2 * 2 ^ 126)) with ctl := { c.ctl with walks := [(30, 0, true, false)] } })
theorem test_w_handles : bits ((here bHandle).H 0) 126 2 = 0 ∧ bits ((here bHandle).H 31) 126 2 ≠ 0 ∧
    (bHandle.core 0).ctl.walks.find? (fun w => w.1 == 30) = some (30, 0, true, false) ∧ invCovers bHandle 1 1 0 = false ∧
    (spGet (0, 0) (bHandle.core 0).regs.due 62).1 ≤ bHandle.acOf 0 ∧ strays bHandle 1 1 0 = false ∧ ReadyC bHandle :=
  ⟨by decide +kernel, by decide +kernel, by decide, by decide +kernel, by decide, by decide +kernel, ready_c rfl rfl rfl⟩

/-! ## V -/

/-- V's word is under the cursor; `n` entries of `w` stand in CQV; `V1` has lane 1023 = 3; `K1` has lanes 0 and 1023. -/
def bV (n : Nat) (w : W64) : State := onEng .v (b0With (fun c => { c with
  cqv := List.replicate n (0, w), vec := ⟨[(1, [(1023, 3)])], [(1, BitVec.ofNat 1024 (2 ^ 1023 + 1))]⟩, v := { c.v with run := .running } }))
theorem bV_ready (n pops : Nat) (w : W64) (h : pops ≤ n) : ReadyV (bV n w) pops := by
  have hf : (bV n w).cur.frame = ⟨none, 0⟩ := rfl
  have hc : (here (bV n w)).cqv = List.replicate n (0, w) := rfl
  refine ⟨rfl, rfl, fun p => Nat.zero_le _, fun q hq => ?_, ?_, fun q hq => ?_⟩
  · rw [hf] at hq; cases q <;> exact absurd hq (by decide)
  · rw [hc, List.length_replicate]; exact h
  · rw [hc] at hq
    have := List.mem_of_mem_take hq
    rw [List.eq_of_mem_replicate this]; exact Nat.zero_le _

/-- An application on update unit 0 of a group of one array whose PROG is 0. -/
def bA : App := { (default : App) with unit := 0, part := 1, job := 1, prog := [0, 0, 0], loops := [.zero, .zero, .zero, .zero] }
def bKeeper (a : App) : State := { b0 with
  cur := { Cursor.none with eng := .v, unit := some 0 }
  keeper := { b0.keeper with groups := [{ (default : KGroup) with part := 1, job := 1, setup := BitVec.ofNat 3072 0 }], apps := [a] } }
theorem test_w_tile : ReadyV (bV 0 0) 0 ∧ ReadyV (bV 16 5) 16 ∧ (bKeeper bA).cur.unit = some 0 ∧ (bKeeper bA).keeper.apps.find? (fun a => a.unit == 0) = some bA :=
  ⟨bV_ready 0 0 0 (Nat.le_refl 0), bV_ready 16 16 5 (Nat.le_refl 16), rfl, by decide +kernel⟩

/-- `T0` names SPM 0 to 255 under lease 1, `T1` is a record of HBM; the ports are held until `p`. -/
def bVM (p : Nat) : State := onEng .v (b0With (fun c => { (c.setT 0 (recImg 0)).setT 1 (BitVec.ofNat 256 (2 ^ 255)) with
  vec := ⟨[], [(1, 1)]⟩, portR := p, portW := p, csr := { c.csr with trapv := 8 }, v := { c.v with run := .running } }))
theorem test_w_vmem : ReadyV (bVM 0) 0 ∧ (here (bVM 0)).portR ≤ now (bVM 0) ∧ now (bVM 1) < (here (bVM 1)).portW ∧ tBkind ((here (bVM 0)).T 0) ≤ 1 ∧
    recAccess (bVM 0) 0 ((here (bVM 0)).T 0) 252 4 = .ok (.at_ (keySpm 0 252)) ∧ recAccess (bVM 0) 0 ((here (bVM 0)).T 0) 256 4 = .error .bounds ∧
    (∀ j, ((here (bVM 0)).vec.K 1).getLsbD j = true → j = 0) ∧ (here (bVM 0)).csr.trapv ≠ 0 ∧ (bVM 0).poisoned (keySpm 0 252) 4 = false :=
  ⟨ready_v rfl rfl rfl, by decide, by decide, by decide +kernel, by rfl, by rfl, fun j h => by
    have hk : (here (bVM 0)).vec.K 1 = 1 := rfl
    rw [hk] at h
    simpa using h, by decide, by decide +kernel⟩
theorem test_w_vmem_kind : 1 < tBkind ((here (bVM 0)).T 1) := by decide +kernel

theorem test_w_vmap : mapCode 1 ∧ mapCode 0x10 ∧ mapCode 0x18 ∧ mapCode 0x22 ∧ ¬ mapCode 0x17 ∧ tFmt ((here (bVM 0)).T 0) = 0 ∧
    bits ((here (bVM 0)).I 0) 96 4 = 0 ∧ Nat.min 64 (iDim ((here (bVM 0)).I 0) 0 + 1 - iIdx ((here (bVM 0)).I 0) 0) = 1 ∧ (here (bVM 0)).sweep = none ∧ (here (bVM 0)).vtarget = none :=
  ⟨by unfold mapCode; decide, by unfold mapCode; decide, by unfold mapCode; decide, by unfold mapCode; decide, by unfold mapCode; decide, by decide +kernel, by decide +kernel,
    by decide +kernel, by decide, by decide⟩

theorem test_w_vloop : ReadyV (bV 1 (BitVec.ofNat 64 (2 ^ 24))) 1 ∧ (((here (bV 1 (BitVec.ofNat 64 (2 ^ 24)))).cqv.map Prod.snd).headD 0).toNat = 2 ^ 24 ∧
    ((here (bV 0 0)).v.loops.getD 3 .zero).act = false ∧ 8 * (bV 0 0).imgLen 0 = 32 ∧ (bA.loops.getD 3 .zero).act = false ∧ bA.pc + 2 < bA.prog.length :=
  ⟨bV_ready _ _ _ (Nat.le_refl 1), by decide, by decide, by decide, by decide, by decide⟩
theorem test_w_vtake : ReadyV (bV 1 8) 1 ∧ ReadyV (bV 1 31) 1 ∧ ReadyV (bV 1 (BitVec.ofNat 64 (2 ^ 17))) 1 :=
  ⟨bV_ready _ _ _ (Nat.le_refl 1), bV_ready _ _ _ (Nat.le_refl 1), bV_ready _ _ _ (Nat.le_refl 1)⟩

/-- The offcut queue's region, SPM 0 to 32767, lies under lease 1; `PENDN` is `n`. -/
def bOff (n : Nat) : State :=
  let b := onEng .v (b0With (fun c => { c with pendn := n, vec := ⟨[], [(1, 1)]⟩, v := { c.v with run := .running } }))
  { b with leases := b.leases.map (fun e => (e.1, { e.2 with len := 32768, ranges := [(keySpm 0 0, 32768)] })) }
theorem test_w_offcut : ReadyV (bOff 511) 0 ∧ (here (bOff 511)).csr.offcutb.toNat + 32768 ≤ 2 ^ 20 ∧
    checkCovering (bOff 511) ((bOff 511).jobOf 0).1 ((bOff 511).jobOf 0).2 (keySpm 0 0) 32768 = none ∧ (here (bOff 511)).pendn = 511 ∧ (here (bOff 512)).pendn = 512 ∧
    (here (bOff 511)).portW ≤ now (bOff 511) ∧ (here (bOff 511)).portR ≤ now (bOff 511) ∧ checkCovering b0 (b0.jobOf 0).1 (b0.jobOf 0).2 (keySpm 0 0) 32768 ≠ none :=
  ⟨ready_v rfl rfl rfl, by decide, by decide +kernel, rfl, rfl, by decide, by decide, by decide +kernel⟩

theorem test_w_keeper : ∃ g, (bKeeper bA).kgroup 1 1 0 = some g ∧ gArrays g.setup = 1 ∧ gFmt g.setup = 0 ∧ g.retiring = 0 ∧
    (bKeeper bA).keeper.consts.find? (fun k => k.part == bA.part && k.job == bA.job && k.prog == gProg g.setup && k.tag == bA.step) = none ∧
    spFind bA.stores 0 = none ∧ bA.emit = none := ⟨_, rfl, by decide +kernel, by decide +kernel, rfl, rfl, rfl, rfl⟩
theorem test_w_keeper_illop : (bV 0 0).cur.unit = none ∧ (bV 0 0).cur.eng = .v := ⟨rfl, rfl⟩

/-! ## M -/

/-- M's word is under the cursor; `n` entries of `w` stand in CQM; `T0` is a record of SPM and `T1` one of MSM under lease 1 and 2; the shadow nest reads A through `T0` and B through `T1`. -/
def bM (n : Nat) (w : W64) (ops : Nat) : State :=
  let b := onEng .m (b0With (fun c => { (c.setT 0 (BitVec.ofNat 256 (4096 * 2 ^ 162 + 1 * 2 ^ 43))).setT 1 (BitVec.ofNat 256 (2 ^ 254 + 4096 * 2 ^ 162 + 2 * 2 ^ 43)) with
    cqm := List.replicate n (0, w), mat := { c.mat with ops := List.replicate ops { (default : MOp) with stream := 3 } }, m := { c.m with run := .running } }))
  { b with leases := [(1, { (default : Lease) with state := .open_, tier := 1, part := 1, job := 1, base := 0, len := 4096, paid := 1000, ranges := [(keySpm 0 0, 4096)] }),
                      (2, { (default : Lease) with state := .open_, tier := 0, part := 1, job := 1, base := 0, len := 4096, paid := 1000, ranges := [(keyMsm 0 0, 4096)] })] }
theorem bM_ready (n pops : Nat) (w : W64) (o : Nat) (h : pops ≤ n) : ReadyM (bM n w o) pops := by
  have hf : (bM n w o).cur.frame = ⟨none, 0⟩ := rfl
  have hc : (here (bM n w o)).cqm = List.replicate n (0, w) := rfl
  refine ⟨rfl, rfl, fun p => Nat.zero_le _, fun q hq => ?_, ?_, fun q hq => ?_⟩
  · rw [hf] at hq; cases q <;> exact absurd hq (by decide)
  · rw [hc, List.length_replicate]; exact h
  · rw [hc] at hq
    have := List.mem_of_mem_take hq
    rw [List.eq_of_mem_replicate this]; exact Nat.zero_le _
theorem test_w_shadow : ReadyM (bM 0 0 0) 0 ∧ ReadyM (bM 1 4096 0) 1 ∧ ReadyM (bM 1 0 0) 1 ∧ ReadyM (bM 1 (BitVec.ofNat 64 (2 ^ 24)) 0) 1 :=
  ⟨bM_ready _ _ _ _ (Nat.le_refl 0), bM_ready _ _ _ _ (Nat.le_refl 1), bM_ready _ _ _ _ (Nat.le_refl 1), bM_ready _ _ _ _ (Nat.le_refl 1)⟩
theorem test_w_placing : ((here (bM 0 0 4)).mat.ops.filter (fun o => o.stream == 3)).length = 4 ∧ ((here (bM 0 0 3)).mat.ops.filter (fun o => o.stream == 3)).length = 3 := by decide
theorem test_w_mloadb : let c := here (bM 0 0 0)
    tBkind (c.T 0) = 0 ∧ tBkind (c.T 1) = 1 ∧ tBase (c.T 0) = 0 ∧ tBase (c.T 1) = 0 ∧ 4096 ≤ window (c.T 0) ∧ 4096 ≤ window (c.T 1) ∧ tLease (c.T 0) = 1 ∧ tLease (c.T 1) = 2 := by decide +kernel
theorem test_w_mloadb_leases : (∃ l, leaseCheck (bM 0 0 0) 1 1 1 = .ok l ∧ l.holdsRange (keySpm 0 0) 4096 = true) ∧
    (∃ l, leaseCheck (bM 0 0 0) 1 1 2 = .ok l ∧ l.holdsRange (keyMsm 0 0) 4096 = true) := ⟨⟨_, rfl, by decide +kernel⟩, ⟨_, rfl, by decide +kernel⟩⟩
theorem test_w_mgo : let c := here (bM 0 0 0)
    0 < outRows (c.T 0) c.mat.shadow ∧ 0 < outCols (c.T 0) c.mat.shadow ∧ tBounds (c.T 0) ≠ 1 ∧ isBlock (tFmt (c.T 0)) = false ∧ c.mat.shadow.acc = false := by decide +kernel

/-! ## M and X at work -/

/-- Core 0 has one operation of M, `i`, alone in stream 3, whose step runs. -/
def bOp (i : Instr) (stepping : Bool) : State := b0With (fun c => { c with
  mat := { c.mat with ops := [{ (default : MOp) with id := 7, stream := 3, instr := i, started := stepping }], stepping := if stepping then some 7 else none } })
theorem test_w_msteps : headOf (bOp (.mzero 3 0x8000) false) 0 3 = some { (default : MOp) with id := 7, stream := 3, instr := .mzero 3 0x8000 } ∧
    headOf (bOp (.mzero 3 0x8000) false) 0 2 = none ∧ (∀ x ∈ ((bOp (.mzero 3 0x8000) false).core 0).mat.ops, 0 ≤ x.epoch) ∧
    ((bOp (.mzero 3 0x8000) false).core 0).seat.stopping = false ∧ ((bOp (.mzero 3 0x8000) true).core 0).mat.stepping = some 7 ∧
    ((bOp (.mzero 3 0x8000) true).core 0).mat.stepDue ≤ (bOp (.mzero 3 0x8000) true).acOf 0 ∧ (bOp (.mzero 3 0x8000) true).poison = [] ∧
    ((bOp (.mzero 3 0x8000) true).core 0).copy.kept = [] := ⟨rfl, rfl, fun _ _ => Nat.zero_le _, rfl, rfl, by decide, rfl, rfl⟩
theorem test_w_msteps_dry (c seed : Nat) : ∃ check : BitVec 24, dryCheck c seed = check.toNat := ⟨BitVec.ofNat 24 (dryCheck c seed), by
  rw [BitVec.toNat_ofNat, Nat.mod_eq_of_lt]; have h : ∀ v, wrap 24 v < 2 ^ 24 := fun v => by unfold wrap; omega
  exact h _⟩

/-- X's word is under the cursor; `T0` and `T1` name 64 bytes at SPM 0 and SPM 64; `O31` is a local object. -/
def copyImg (base : Nat) : BitVec 256 := BitVec.ofNat 256 (base * 2 ^ 202 + 64 * 2 ^ 162 + 1 * 2 ^ 43)
def bX : State := onEng .x (b0With (fun c => { ((c.setT 0 (copyImg 0)).setT 1 (copyImg 64)).setO 31 (BitVec.ofNat 64 (2 ^ 62 + 8)) with x := { c.x with run := .running } }))
theorem bX_ready : ReadyX bX := ready_x rfl rfl rfl (by decide) rfl
theorem test_w_xcopy : xGood ((here bX).T 0) true ∧ xGood ((here bX).T 1) false ∧ tFmt ((here bX).T 0) = tFmt ((here bX).T 1) ∧ tExtent ((here bX).T 0) = tExtent ((here bX).T 1) := by
  have h0 : (here bX).T 0 = copyImg 0 := by decide +kernel
  have h1 : (here bX).T 1 = copyImg 64 := by decide +kernel
  rw [h0, h1]
  refine ⟨⟨by unfold shaped; decide +kernel, by decide +kernel, by decide +kernel, by decide +kernel, fun _ r hr => ?_⟩,
    ⟨by unfold shaped; decide +kernel, by decide +kernel, by decide +kernel, by decide +kernel, fun _ r hr => ?_⟩, by decide +kernel, by decide +kernel⟩
  · rw [show rowsOf (copyImg 0) = 1 from by decide +kernel] at hr
    obtain rfl : r = 0 := by omega
    exact ⟨fun _ => by decide +kernel, fun h => absurd h (by decide +kernel)⟩
  · rw [show rowsOf (copyImg 64) = 1 from by decide +kernel] at hr
    obtain rfl : r = 0 := by omega
    exact ⟨fun _ => by decide +kernel, fun h => absurd h (by decide +kernel)⟩
theorem test_w_xnop : ReadyX bX ∧ (here bX).xcmds = [] := ⟨bX_ready, rfl⟩

/-- Command 7 of core 0 copies 64 bytes from SPM 64 to SPM 0; `f` changes it. -/
def bCmd (f : XCmd → XCmd) (issuing : Bool) : State := b0With (fun c =>
  let x := f { (default : XCmd) with id := 7, instr := .xcopy 0 1 0 0 0 0, ra := copyImg 0, rb := copyImg 64 }
  { c with copy := { c.copy with cmds := if issuing then [] else [x], issuing := if issuing then some x else none } })
theorem test_w_copy_accept : ∃ x, ((bCmd id true).core 0).copy.issuing = some x ∧ tBkind x.ra ≠ 2 ∧ tBkind x.rb ≠ 2 := ⟨_, rfl, by decide +kernel, by decide +kernel⟩
theorem test_w_copy_chunk : ∃ x, ((bCmd id false).core 0).cmd 7 = some x ∧ x.id = 7 ∧ x.parked = none ∧ x.flight.length < 4 ∧ 65536 * 0 < tExtent x.ra ∧ x.pp ≤ 0 ∧
    ¬ hasLanded x 0 ∧ chunkBytes x 0 = 64 ∧ chunkHome 0 x.ra 0 = keySpm 0 0 ∧ chunkHome 0 x.rb 0 = keySpm 0 64 :=
  ⟨_, rfl, rfl, rfl, by decide, by decide +kernel, by decide, fun h => by rcases h with h | ⟨h, _⟩ <;> exact absurd h (by decide), by decide +kernel, by decide +kernel, by decide +kernel⟩
theorem test_w_copy_own : OwnCopy { (default : XCmd) with id := 7, instr := .xcopy 0 1 0 0 0 0, ra := copyImg 0, rb := copyImg 64 } :=
  ⟨⟨0, 1, 0, 0, 0, 0, rfl⟩, by decide +kernel, ⟨by decide +kernel, by decide +kernel⟩, ⟨by decide +kernel, by decide +kernel⟩, ⟨by decide +kernel, by decide +kernel⟩,
    ⟨by decide +kernel, by decide +kernel⟩, rfl⟩
theorem chunkLease_of {s : State} {n : Nat} {t : BitVec 256} {k len : Nat}
    (h : (match leaseCheck s (s.jobOf n).1 (s.jobOf n).2 (tLease t) with
      | .ok l => l.holdsRange (chunkHome n t k) len
      | .error _ => false) = true) : chunkLease s n t k len := by
  unfold chunkLease
  split at h
  · exact ⟨_, ‹_›, h⟩
  · cases h
theorem test_w_copy_lease : chunkLease (bCmd id false) 0 (copyImg 0) 0 64 ∧ chunkLease (bCmd id false) 0 (copyImg 64) 0 64 :=
  ⟨chunkLease_of (by decide +kernel), chunkLease_of (by decide +kernel)⟩
theorem test_w_copy_land : let f : Chunk := ⟨0, [(some (keySpm 0 64), 64)], [(some (keySpm 0 0), 64)], [1, 1], [], 0, 0, [], none, none⟩
    ∃ x, ((bCmd (fun x => { x with flight := [f] }) false).core 0).cmd 7 = some x ∧ x.flight.find? (fun g => g.no == 0) = some f ∧
      isOwnKey 0 (keySpm 0 64) = true ∧ isOwnKey 0 (keySpm 0 0) = true ∧ f.due ≤ (bCmd id false).acOf 0 ∧ x.lb < 16 := ⟨_, rfl, rfl, by decide +kernel, by decide +kernel, by decide, by decide⟩
theorem test_w_copy_retire : ∃ x, ((bCmd (fun x => { x with pp := 1 }) false).core 0).cmd 7 = some x ∧ x.parked = none ∧ x.flight = [] ∧ x.pp = (tExtent x.ra + 65535) / 65536 ∧ x.ob = false ∧
    (∀ q : Engine, x.signal.toNat.testBit q.num = true → ((bCmd id false).core 0).dowelN .x q < 16) ∧ ((bCmd id false).core 0).health.recovering = none :=
  ⟨_, rfl, rfl, rfl, by decide +kernel, rfl, fun q h => by cases q <;> exact absurd h (by decide), rfl⟩

/-! ## Fabric, graphs, collectives -/


/-- A header to all chips from chip `n`, of partition 0 and job 0, with number `q`. -/
def hdrFrom (n q : Nat) : BitVec 512 := BitVec.ofNat 512 (n * 2 ^ 496 + 0xFFF * 2 ^ 484 + q * 2 ^ 452)
theorem test_w_fabric : ∃ n, forMe b0 (hdrFrom n 0) ∧ ahead b0 (hdrFrom n 0) = 0 ∧ ahead b0 (hdrFrom n 4095) = 4095 := by
  by_cases h : Config.chip = 1
  · exact ⟨2, ⟨by rw [h]; decide +kernel, Or.inr (by decide +kernel), by decide +kernel, (fun c hc => nomatch hc)⟩, by decide +kernel, by decide +kernel⟩
  · exact ⟨1, ⟨fun hc => h (hc ▸ (by decide +kernel : pkSrc (hdrFrom 1 0) = 1)), Or.inr (by decide +kernel), by decide +kernel, (fun c hc => nomatch hc)⟩, by decide +kernel, by decide +kernel⟩
theorem test_w_fabric_not : ∀ p : Packet, pkSrc p.hdr = Config.chip → ¬ forMe b0 p.hdr := fun _ h hf => hf.1 h

theorem test_w_port : portUp b0 31 ∧ ¬ portUp b0 32 := ⟨⟨by decide, by decide⟩, fun h => absurd h.1 (by decide)⟩

/-- The page table of the manual's example in "Translation, handles and invalidation": ROOT, four entries, and a partition with all of HBM. -/
def bTable : State :=
  let put (m : Memory) (e : Nat × Nat) : Memory := memWrite m e.1 (toBytes 8 e.2)
  { b0 with
    mem := [(0x1200000000, 0x8000001200008000), (0x1200008800, 0x800000120000A000), (0x120000A000, 0x800000120000A100), (0x120000A140, 0xC012000123443000)].foldl put b0.mem
    parts := [(1, { Partition.reset with valid := true, hpages := BitVec.ofNat 22 (2 ^ 21) })]
    jobs := [(jobIx 1 1, { Job.reset with valid := true, root := 0x1200000000 })] }
/-- The example: a leaf of 2 MiB with FRAME `0x4_8D10`, at physical address `0x12_3440_0000`; with the page's next one unmapped. -/
theorem test_walk_example : (walk bTable 1 1 0x4001000000 true true).map (fun l => (l.size, l.frame, l.keyOf 0x4001000000)) = some (1, 0x48D10, 0x1234400000) ∧
    walk bTable 1 1 0x4001200000 true false = none := by decide +kernel

/-- Partition 63 and its job 1 exist. -/
def bPart : State := { b0 with parts := [(63, { Partition.reset with valid := true }), (1, { Partition.reset with valid := true })], jobs := [(jobIx 63 1, { Job.reset with valid := true })] }
theorem test_w_posts : posts bPart 63 63 (toBytes 64 (2 ^ 464)) ∧ ¬ posts bPart 64 0 [] ∧ graphOk bPart 63 (BitVec.ofNat 512 (2 ^ 464)) ∧ ¬ graphOk bPart 63 (BitVec.ofNat 512 (2 ^ 464 + 2 ^ 448)) :=
  ⟨⟨by decide, by decide, by decide +kernel, (fun c hc => nomatch hc)⟩, fun h => absurd h.1 (by decide), by unfold graphOk; decide +kernel, by unfold graphOk; decide +kernel⟩
theorem test_w_launch_ends : ∃ l, (b0With id).launch 1 = some l ∧ l.done = false ∧ launchEnds { b0 with units := b0.units.map (fun u => { u with state := .halted }) } l := by
  refine ⟨_, rfl, rfl, ⟨fun u hu _ => ?_, Or.inr (by decide +kernel), by decide +kernel⟩⟩
  simp only [List.mem_map] at hu
  obtain ⟨v, _, rfl⟩ := hu
  exact Or.inl rfl

/-- A record of one iteration of a group of one chip, this one, that runs and has emitted nothing. -/
def bColl (f : Coll → Coll) : State := { b0 with colls := [f { (default : Coll) with id := 3, part := 1, job := 1, copies := [⟨0, 1, 0, 7, 0⟩], peers := [Config.chip], running := true }] }
theorem test_w_coll : ∃ k, (bColl id).coll 3 = some k ∧ runs (bColl id) k ∧ iterations k = 1 ∧ k.emitted < iterations k ∧ Claim.sizeOf (lowest k) = 64 :=
  ⟨_, rfl, ⟨rfl, rfl, by rfl⟩, by decide +kernel, by decide +kernel, by decide +kernel⟩
theorem test_w_coll_ends : ∃ k, (bColl (fun k => { k with cancelled := true })).coll 3 = some k ∧ Claim.ends (bColl (fun k => { k with cancelled := true })) k 4 := ⟨_, rfl, by unfold Claim.ends; rfl⟩
theorem test_w_coll_next : ∃ k, (bColl (fun k => { k with lost := [0] })).coll 3 = some k ∧ isNext (bColl (fun k => { k with lost := [0] })) k (0, 0) := by
  refine ⟨_, rfl, ⟨⟨⟨by decide +kernel, by decide +kernel, ?_⟩, by decide +kernel⟩, Or.inl (by decide +kernel), fun b _ h => ?_⟩, fun b _ h => ?_⟩
  · exact congrArg (fun n => [Config.chip].getD n 0) (show peerOf (lowest _) 0 0 = 0 by decide +kernel)
  all_goals
    rcases h with h | ⟨_, h⟩ <;> exact absurd h (Nat.not_lt_zero _)

/-! ## The keeper -/

theorem test_w_keeper_group : ∃ g, (bKeeper bA).kgroup 1 1 0 = some g ∧ gradOk g ⟨0, 0, [], []⟩ ∧ appliedStep g 0 = 0 ∧ setupLegal g.setup ∧ g.lost = false ∧ g.primary = false ∧ g.frozen = false :=
  ⟨_, rfl, ⟨rfl, rfl, by decide +kernel, by decide +kernel, by decide +kernel, by decide +kernel, rfl⟩, by decide +kernel, by unfold setupLegal; decide +kernel, rfl, rfl, rfl⟩
theorem test_w_applying : (bKeeper bA).kApplying 1 1 0 0 = some bA ∧ bA.aborted = false ∧ bA.pc < bA.prog.length ∧ ({ bA with pc := 3 } : App).prog.length ≤ 3 ∧ (bKeeper bA).kApplying 1 1 0 1 = none :=
  ⟨by decide +kernel, rfl, by decide, by decide, by decide +kernel⟩

/-- A group with a held block whose application the arbiter may grant. -/
def bStart : State := { b0 with keeper := { b0.keeper with
  groups := [{ (default : KGroup) with part := 1, job := 1, held := [⟨0, 1, ⟨0, 0, [], []⟩, none⟩] }], queue := [(1, 1, 0, 0)] } }
theorem test_w_start : bStart.kStartable = [(1, 1, 0, 0)] ∧ bStart.keeper.apps.length < 16 ∧ ∃ arb, bStart.keeper.arb.choose [1025]
    ⟨fun n => if n = 1025 then some 1 else none, fun _ => 16, fun _ => 64⟩ = some (1025, arb) := ⟨by decide +kernel, by decide, _, by rfl⟩

/-- Command 7 of core 0 fetches block 0 for step `step`. -/
def bFetch (step : Nat) : State :=
  let b := bCmd (fun x => { x with instr := .xkfetch 0 1 0 0 0, ra := BitVec.ofNat 256 (64 * 2 ^ 162) }) false
  { b with keeper := { b.keeper with groups := [{ (default : KGroup) with part := 1, job := 1 }], fetches := [⟨0, 7, 1, 1, 0, 0, step⟩] } }
theorem test_w_fetch : ∃ f x g, (bFetch 1).keeper.fetches[0]? = some f ∧ ((bFetch 1).core f.core).cmd f.cmd = some x ∧ x.id = f.cmd ∧ f.block = 0 ∧ x.parked = none ∧
    (bFetch 1).kgroup 1 1 0 = some g ∧ fetchRefused x g ∧ appliedStep g 0 < f.step := ⟨_, _, _, rfl, rfl, rfl, rfl, rfl, rfl, by unfold fetchRefused; decide +kernel, by decide +kernel⟩
/-- The emission area at the address of the manual's page table, its page leased by the job; the destination in SPM under an open lease. -/
def bServe : State :=
  let b := bFetch 0
  let img : BitVec 256 := BitVec.ofNat 256 (4096 * 2 ^ 202 + 4096 * 2 ^ 162 + 2 ^ 43)
  { b with
    mem := bTable.mem, parts := bTable.parts, jobs := bTable.jobs
    leases := [(1, { (default : Lease) with tier := 1, part := 1, job := 1, len := 8192, paid := 1000, ranges := [(keySpm 0 0, 8192)] }),
      (0x8001, { (default : Lease) with tier := 3, part := 1, job := 1, base := 0x4001000000, len := 2 ^ 21, paid := 1000, ranges := [(0x1234400000, 2 ^ 21)] })]
    cores := (bCmd (fun x => { x with instr := .xkfetch 0 1 0 0 0, ra := img }) false).cores
    keeper := { b.keeper with groups := [{ (default : KGroup) with part := 1, job := 1, setup := BitVec.ofNat 3072 (0x4001000000 * 2 ^ 230) }] } }
theorem test_w_fetch_delivers : ∃ f x g, bServe.keeper.fetches[0]? = some f ∧ (bServe.core f.core).cmd f.cmd = some x ∧ x.id = f.cmd ∧ f.block = 0 ∧ x.parked = none ∧
    (bServe.core f.core).seat.stopping = false ∧ bServe.kgroup 1 1 0 = some g ∧ ¬ fetchRefused x g ∧ g.frozen = false ∧ f.step ≤ appliedStep g 0 ∧ x.pp = 0 ∧ (bServe.core f.core).inFlight < 32 :=
  ⟨_, _, _, rfl, rfl, rfl, rfl, rfl, rfl, rfl, by unfold fetchRefused; decide +kernel, rfl, by decide +kernel, rfl, by decide +kernel⟩
theorem test_w_fetch_sides : ioOpen bServe 1 1 0x4001000000 4096 false false = some [(0x1234400000, 4096)] ∧
    ((bServe.core 0).cmd 7).bind (fun x => (resolveSpans bServe 0 x.ra true true (spansOf x.ra 0 4096)).toOption.map (·.pieces)) = some [(some (keySpm 0 4096), 4096)] := by decide +kernel
theorem test_w_missing : ∃ g d, { b0 with keeper := { b0.keeper with groups := [{ (default : KGroup) with part := 1, job := 1, deadlines := [(1, 0, false)] }] } }.kgroup 1 1 0 = some g ∧
    g.deadlines.find? (fun e => e.1 == 1) = some d ∧ d.2.2 = false ∧ d.2.1 ≤ b0.tick := ⟨_, _, rfl, rfl, rfl, by decide⟩

/-! ## Scheduling, saves, rent -/

theorem test_w_arbiter : ∃ a, Arbiter.zero.choose [1, 2] ⟨fun _ => some 5, fun _ => 3, fun _ => 12⟩ = some (1, a) := ⟨_, by rfl⟩

/-- Unit 0 of launch 1 waits, and core 0 is free, of partition 1. -/
def bFree (image : Nat) : State :=
  let b := b0.modCore 0 (fun c => { c with seat := { c.seat with unit := none } })
  { b with owners := [(0, 65)], parts := [(1, { Partition.reset with valid := true })]
           units := b.units.map (fun u => { u with state := .waiting })
           launches := b.launches.map (fun l => { l with record := BitVec.ofNat 512 (image * 2 ^ 460 + 4 * 2 ^ 340 + 8 * 2 ^ 309) }) }
theorem test_w_place : ∃ u arb, Chosen (bFree 0) 0 (.new u) arb := by
  refine ⟨_, _, 1, ⟨by decide, rfl, rfl, by decide +kernel, by decide +kernel, (fun m hm => nomatch hm)⟩, rfl, [], [], rfl, (fun q hq => nomatch hq), (fun q hq => nomatch hq)⟩
theorem test_w_place_region : checkCovering (bFree 0) 1 1 (keySpm 0 0) (64 * 4) = none ∧ bits (BitVec.ofNat 512 (4 * 2 ^ 340 + 8 * 2 ^ 309)) 460 52 = 0 := ⟨by decide +kernel, by decide +kernel⟩

def bSlice (capped : Bool) (from_ : Nat) : State :=
  let st (s : Stream) : Stream := { s with run := .running, heldFrom := some from_, wait := { Wait.idle with kind := .tokens } }
  let b := b0With (fun c => { c with c := st c.c, v := st c.v, m := st c.m, x := st c.x })
  { b with tick := 2000, purses := [(jobIx 1 1, ⟨0, 0, 0, 0, 0, capped⟩)] }
theorem test_w_slice : ((bSlice true 256).core 0).seat.unit ≠ none ∧ ((bSlice true 256).core 0).seat.stopping = false ∧ ((bSlice true 256).core 0).seat.leaving = false ∧
    ((bSlice true 256).core 0).seat.sliceTick + ((bSlice true 256).part 1).slice.toNat ≤ (bSlice true 256).tick ∧ ((bSlice true 256).purse 1 1).capped = true ∧
    (∀ e ∈ [Engine.c, .v, .m, .x], (((bSlice true 256).core 0).stream e).heldFrom = some 256 ∧ (((bSlice true 256).core 0).stream e).wait.kind ≠ .none) ∧ ((bSlice false 0).purse 1 1).capped = false ∧ (bSlice false 0).readyUnits 1 0 none = [] := by decide +kernel
theorem test_w_stall : let s := bWait .rend .rend 0 0 id
    ((s.core 0).stream .c).run = .running ∧ ((s.core 0).stream .c).wait.kind ≠ .none ∧ ((s.core 0).stream .c).wait.stalled = false ∧
    ((s.core 0).stream .c).wait.since + (s.part 1).stallt.toNat ≤ { s with tick := 20000 }.tick := by decide +kernel
theorem test_w_save : ∃ u, (b0With (fun c => { c with seat := { c.seat with leaving := true, stopping := true } })).unitOf 0 = some u ∧
    atRest (b0With (fun c => { c with seat := { c.seat with leaving := true, stopping := true } })) 0 ∧ ¬ atRest b0 0 :=
  ⟨_, rfl, ⟨rfl, rfl, rfl, by decide +kernel, by decide, rfl⟩, fun h => absurd h.1 (by decide)⟩
theorem test_w_restore : ∃ v arb, Chosen { bFree 0 with units := [], saves := [{ (default : Saved) with part := 1, job := 1, launch := 1 }] } 0 (.saved v) arb := by
  refine ⟨_, _, 1, ⟨by decide, rfl, rfl, by decide +kernel, by decide +kernel, (fun m hm => nomatch hm)⟩, rfl, [], [], rfl, (fun q hq => nomatch hq), (fun q hq => nomatch hq)⟩

def bFall (f : Lease → Lease) : State := { b0 with tick := 1000, leases := b0.leases.map (fun e => (e.1, f e.2)) }
theorem test_w_fall : (∃ l, falling (bFall (fun l => { l with step := 1, escrow := 128 })) 1 l ∧ covered (bFall (fun l => { l with step := 1, escrow := 128 })) l) ∧
    (∃ l, falling (bFall id) 1 l ∧ ¬ covered (bFall id) l ∧ l.sync = false) ∧ (∃ l, falling (bFall (fun l => { l with sync := true, waiters := 1 })) 1 l ∧ l.sync = true ∧ l.waiters ≠ 0) ∧
    ∀ l, ¬ falling b0 1 l :=
  ⟨⟨_, ⟨rfl, rfl, rfl⟩, by unfold covered; decide +kernel⟩, ⟨_, ⟨rfl, rfl, rfl⟩, by unfold covered; decide +kernel, rfl⟩, ⟨_, ⟨rfl, rfl, rfl⟩, rfl, by decide⟩, fun l h => by
    have hl := h.1; injection hl with hl; subst hl; exact absurd h.2.2 (by decide)⟩
theorem test_w_reclaim : ∃ l, (bFall (fun l => { l with state := .lapsed, lapseAt := 936 })).lease 1 = some l ∧ l.state = .lapsed ∧
    l.lapseAt + ((bFall id).part l.part).grace.toNat ≤ 1000 ∧ l.holds = 0 ∧ subsOf (bFall (fun l => { l with state := .lapsed, lapseAt := 936 })) 1 = [] :=
  ⟨_, rfl, rfl, by decide +kernel, rfl, by decide +kernel⟩
theorem test_w_scrub : ([⟨9, [(keySpm 0 0, 64)], 0⟩] : List Scrub).find? (fun c : Scrub => c.id == 9) = some ⟨9, [(keySpm 0 0, 64)], 0⟩ ∧ b0.scrubs = [] := ⟨rfl, rfl⟩
theorem test_w_vacating_sub : let s : State := { b0 with leases := [(1, { (default : Lease) with vacating := true }), (2, { (default : Lease) with vacating := true, parent := 1 })] }
    (∃ l q, s.lease 2 = some l ∧ l.vacating = true ∧ l.holds = 0 ∧ l.parent ≠ 0 ∧ s.lease l.parent = some q ∧ q.vacating = true) := ⟨_, _, rfl, rfl, rfl, by decide, rfl, rfl⟩
theorem test_w_vacating : ∃ l, (bFall (fun l => { l with vacating := true })).lease 1 = some l ∧ l.vacating = true ∧ l.holds = 0 := ⟨_, rfl, rfl, rfl⟩

/-! ## The hypervisor, the platform, steps -/

theorem test_w_mail : b0.platform.recovery = false ∧ (bPart.part 63).valid = true ∧ (b0.part 63).valid = false ∧ 1000 ≤ bits (BitVec.ofNat 128 (1000 * 2 ^ 81)) 81 24 ∧
    100 ≤ bits (BitVec.ofNat 128 (100 * 2 ^ 105)) 105 16 ∧ (∀ q ∈ b0.parts, q.2.valid = false) := by decide +kernel
theorem test_w_quads : (ownerOf b0 511).toNat < 64 ∧ ¬ unscrubbed b0 511 ∧ unscrubbed b0 0 ∧ 64 ≤ (ownerOf (bFree 0) 0).toNat :=
  ⟨by decide +kernel, fun ⟨c, h1, h2, h⟩ => by
    have : c = 2044 ∨ c = 2045 ∨ c = 2046 ∨ c = 2047 := by omega
    rcases this with rfl | rfl | rfl | rfl <;> exact absurd h (by decide +kernel), ⟨0, by decide, by decide, by decide +kernel⟩, by decide +kernel⟩
theorem test_w_job : jobThere bPart 63 1 ∧ ¬ jobThere bPart 63 1024 ∧ workOver { bPart with leases := [] } 63 1 :=
  ⟨⟨by decide, by decide, by decide +kernel⟩, fun h => absurd h.2.1 (by decide), ⟨by decide +kernel, (fun e he => nomatch he), (fun e he => nomatch he), (fun e he => nomatch he)⟩⟩
theorem test_w_suspect : ((b0With (fun c => { c with health := { c.health with suspect := true } })).core 0).health.suspect = true := rfl
theorem test_w_firmware : b0.platform.slots.length = 2 ∧ b0.platform.transferring = none ∧ { b0.platform with transferring := some 1 }.transferring ≠ none := by decide
theorem test_w_measured : measured b0 0 1 = some [] ∧ measured b0 0 3 = some [] ∧ measured b0 0 0 = none ∧ measured b0 63 16 = some [] ∧ measured b0 64 16 = none := by decide +kernel
theorem test_w_droop : b0.dies.length = 4 ∧ ({ (b0.die 3) with droop := 1 } : Die).droop ≠ 0 ∧ (b0.die 3).droop = 0 := by decide
theorem test_w_errors : (b0.core 0).health.foundAc ≠ b0.acOf 0 + 1 ∧ isStorage 0 = true ∧ isStorage (2 ^ 39) = false ∧ keySpm 0 0 < keyMsm 2048 0 := by decide +kernel

/-- Core 0 rolls back; granules `hot` of its SPM are poisoned, and X keeps what wrote granules `kept`. -/
def bRoll (hot kept : List Nat) : State :=
  let b := b0With (fun c => { c with snap := { c.snap with replayable := true }, health := { c.health with recovering := some (.of .poison) }, copy := { c.copy with kept := [(default, kept)] } })
  { b with poison := hot }
theorem test_w_rollback : let g := keySpm 0 0 / 64
    (∀ h k, ((bRoll h k).core 0).health.refetching = false ∧ ((bRoll h k).core 0).seat.cancelling = false ∧ ((bRoll h k).core 0).c.wait.due = none ∧ ((bRoll h k).core 0).calm = true ∧
      ((bRoll h k).core 0).copy.log = []) ∧ isOwnKey 0 (g * 64) = true ∧ g ∈ (bRoll [g] [g]).poison ∧
    (∃ e ∈ ((bRoll [g] [g]).core 0).copy.kept, g ∈ e.2) ∧ (∀ e ∈ ((bRoll [g] []).core 0).copy.kept, g ∉ e.2) ∧ (b0.core 0).health.recovering = none ∧ (b0.core 0).snap.replayable = false ∧
    ((bRoll [] []).core 0).snap.replayable = true ∧ ((bRoll [] []).core 0).snap.rollbacks < 2 := by
  refine ⟨fun h k => ⟨rfl, rfl, rfl, rfl, rfl⟩, by decide +kernel, by decide, ⟨_, List.mem_singleton.mpr rfl, by decide⟩, ?_, rfl, rfl, rfl, by decide⟩
  intro e he
  rw [List.mem_singleton.mp he]
  decide
theorem test_w_refetch : let s := b0With (fun c => { c with
      ctl := { c.ctl with faults := [{ Report.of .expiry with eng := .x, cmd := some 7 }] }
      health := { c.health with recovering := some (.of .poison), refetching := true }
      copy := { c.copy with cmds := [{ (default : XCmd) with id := 7, refetch := true }] } })
    (s.core 0).ctl.faults = [{ Report.of .expiry with eng := .x, cmd := some 7 }] ∧ (s.core 0).health.refetching = true ∧
    ∃ x ∈ (s.core 0).copy.cmds, x.refetch = true ∧ some 7 = some x.id := ⟨rfl, rfl, _, List.mem_singleton.mpr rfl, rfl, rfl⟩
theorem test_w_host : (bPart.part 63).valid = true ∧ ¬ (∃ q ∈ ([] : List (Nat × Nat)), ∃ c ∈ bPart.captures, c.part = q.1 ∧ c.job = q.2 ∧ c.replay = true) := ⟨by decide +kernel, fun ⟨_, h, _⟩ => nomatch h⟩
theorem test_w_xwait : ReadyX { bX with leases := b0.leases.map (fun e => (e.1, { e.2 with sync := true })) } ∧
    ObjectAt { bX with leases := b0.leases.map (fun e => (e.1, { e.2 with sync := true })) } 31 (keySpm 0 8) :=
  ⟨ready_x rfl rfl rfl (by decide) rfl, ⟨Or.inl (by decide +kernel), by rfl, by decide +kernel⟩⟩
theorem test_w_xwait_end : let s := b0With (fun c => { c with x := { c.x with wait := ⟨.xwait, 0, false, keySpm 0 8, 0, false, some (Cursor.none, .xwait 31 0), 0, 0, none⟩ } })
    (s.core 0).x.wait.kind = .xwait ∧ (s.core 0).x.wait.held = some (Cursor.none, .xwait 31 0) ∧ (s.core 0).paused = false ∧ (s.core 0).x.wait.goal ≤ s.homeNat (keySpm 0 8) 8 := by decide +kernel

/-- `ADD S3, S1, S2` is next. -/
def bStep (w : Nat) : State := State.reset.withFetchWord 64 w
theorem test_w_step : turnsTo (bStep 0x0000011844000000) { bStep 0x0000011844000000 with script := [] } 0 .c ∧ Awake (bStep 0x0000011844000000) 0 .c ∧
    Word (bStep 0x0000011844000000) 0 .c 0x0000011844000000 ∧ ((bStep 0x0000011844000000).core 0).c.packed = false ∧
    ((bStep 0x0000011844000000).core 0).readable (sReads (.add 3 1 2)) 0 = true :=
  ⟨⟨rfl, rfl, rfl⟩, ⟨rfl, by decide, by decide, by decide, fun h => absurd rfl h, rfl, (fun h => nomatch h), (fun _ l hl => nomatch hl), (fun h => nomatch h)⟩,
    ⟨⟨by decide, by decide⟩, by decide +kernel, by decide +kernel, by decide +kernel⟩, rfl, by decide +kernel⟩
theorem test_w_step_illegal : decodeWord false .c 0x0000FF0000000000#64 = .illop ∧ Word (bStep 0x0000FF0000000000) 0 .c 0x0000FF0000000000 :=
  ⟨by decide, ⟨by decide, by decide⟩, by decide +kernel, by decide +kernel, by decide +kernel⟩
theorem test_w_step_bounds : let s := (bStep 0).modCore 0 (fun c => { c with c := { c.c with pc := 32 } })
    turnsTo s { s with script := [] } 0 .c ∧ 8 * s.imgLen 0 ≤ ((s.core 0).stream .c).pc.toNat := ⟨⟨rfl, rfl, rfl⟩, by decide +kernel⟩
theorem test_w_step_held : let s := (bStep 0x0000011844000000).modCore 0 (fun c => c.awaitS 1 1 0)
    1 ∈ sReads (.add 3 1 2) ∧ s.acOf 0 < (spGet (0, 0) (s.core 0).regs.due 1).1 := by decide +kernel
theorem test_w_step_keeper : let s : State := { bKeeper bA with script := [.issueKeeper 0], agenda := [] }
    s.keeper.apps.find? (fun a => a.unit == 0) = some bA ∧ bA.prog[bA.pc]? = some 0 ∧ bA.aborted = false ∧ decodeWord true .v 0 = .ok ⟨none, 0⟩ .vnop := ⟨by decide +kernel, rfl, rfl, by decide +kernel⟩
theorem next_of {o : Host.Outcome State Fault Refusal} (h : (match o with
    | .next _ => true
    | _ => false) = true) : ∃ t, o = .next t := by
  split at h
  · exact ⟨_, rfl⟩
  · cases h
theorem test_w_memory : b0.memOk ∧ ∃ t, step b0 = .next t := ⟨by unfold State.memOk; decide +kernel, next_of (by decide +kernel)⟩
theorem test_w_encode : Instr.wf (.add 31 0 31) = true ∧ on .c (.add 31 0 31) := ⟨by decide, 1, by decide⟩
theorem test_w_frame : FrameFits false .c ⟨some (.x, 16), 14⟩ (.add 31 0 31) where
  wait p n h := by
    obtain ⟨rfl, rfl⟩ := Prod.mk.inj (Option.some.inj h)
    decide
  signal := by decide
  bare h := by rcases h with h | ⟨_, h⟩ | ⟨_, _, _, _, h⟩ <;> cases h
  unpacked h := by cases h
  only _ := by
    refine ⟨fun t n h => ?_, fun t n h => ?_, fun t n m h => ?_, fun h => ?_⟩ <;> cases h
theorem test_w_numbers : fmtE2M1 ∈ formats ∧ codes fmtFP32 (2 ^ 32 - 1) ∧ decodeF fmtFP32 0x3F800000 = .fin false (2 ^ 23) (-23) ∧
    (∃ s m e, Machine.Num.fin s m e ∈ [(nMul (.fin false 1 0) (.fin true 3 2)).1] ∧ 0 < m ∧ (m.log2 : Int) + e = 3) :=
  ⟨by decide +kernel, by unfold codes; decide +kernel, by decide +kernel, ⟨true, 3, 2, by decide +kernel, by decide, by decide⟩⟩

/-! ## Results of the manual's own examples and of corner cases worked by hand -/

theorem test_dec_frame : decodeWord false .v 0xB18C010624080000#64 = .ok ⟨some (.x, 2), 12⟩ (.vadd 0 3 1 2 2 0) := by decide
theorem test_dec_pair : decodeWord false .c 0x0000280000123456#64 = .ok ⟨none, 0⟩ (.immx 0x123456) ∧ decodeWord false .c 0x000027180078ABC0#64 = .ok ⟨none, 0⟩ (.movi 3 0x78ABC0) := by decide
theorem test_dec_lease : decodeWord false .c 0x0000602886420000#64 = .ok ⟨none, 0⟩ (.rent 5 2 3 4 1 0) ∧ decodeWord false .c 0x0000602886421000#64 = .ok ⟨none, 0⟩ (.rent 5 2 3 4 1 1) ∧
    decodeWord false .c 0x00006819C0003000#64 = .ok ⟨none, 0⟩ (.xlat 3 7 3) := by decide
/-- `S1` and `S2`, and what a word of C leaves in `S3`. -/
def leaves3 (x y : W64) (i : Instr) : Option W64 :=
  match exec i (b0With (fun c => (c.setS 1 x).setS 2 y)) with
  | .next t => some ((t.core 0).S 3)
  | _ => none
theorem test_add_wraps : leaves3 (BitVec.allOnes 64) 2 (.add 3 1 2) = some 1 := by decide +kernel
theorem test_sub_wraps : leaves3 1 2 (.sub 3 1 2) = some (BitVec.allOnes 64) := by decide +kernel
theorem test_mulh_signed : leaves3 (BitVec.allOnes 64) 2 (.mulh 3 1 2) = some (BitVec.allOnes 64) ∧ leaves3 (BitVec.allOnes 64) 2 (.mulhu 3 1 2) = some 1 := by decide +kernel
theorem test_div_zero : leaves3 7 0 (.divu 3 1 2) = some (BitVec.allOnes 64) ∧ leaves3 7 0 (.remu 3 1 2) = some 7 := by decide +kernel
theorem test_shift_count : leaves3 (BitVec.ofNat 64 (2 ^ 63)) 65 (.sar 3 1 2) = some (BitVec.ofNat 64 (3 * 2 ^ 62)) ∧ leaves3 3 63 (.rotl 3 1 2) = some (BitVec.ofNat 64 (2 ^ 63 + 1)) := by decide +kernel
theorem test_min_signed : leaves3 (BitVec.allOnes 64) 2 (.min 3 1 2) = some (BitVec.allOnes 64) ∧ leaves3 (BitVec.allOnes 64) 2 (.minu 3 1 2) = some 2 := by decide +kernel
theorem test_clz_zero : leaves3 0 0 (.clz 3 1) = some 64 ∧ leaves3 (BitVec.allOnes 64) 0 (.popc 3 1) = some 64 := by decide +kernel
theorem test_addi_negative : leaves3 5 0 (.addi 3 1 0x3FFFFFFF) = some 4 ∧ leaves3 (BitVec.allOnes 64) 0 (.andi 3 1 0x3FFFFFFF) = some 0x3FFFFFFF := by decide +kernel
/-- Of R110's example: 256 B of SPM for 100 ticks cost 2,400 points. -/
theorem test_charge : cost b0 1 256 1 100 = 2400 ∧ cost b0 1 262144 3 1 = 256 := by decide +kernel
/-- Of R221's example: `VREQ.E4M3` of 500.0. -/
theorem test_e4m3 : encodeF fmtE4M3 .rne false 0 (.fin false 500 0) = (0x7E, flOverflow ||| flInexact) ∧
    encodeF fmtE4M3 .rne true 0 (.fin false 500 0) = (0x7F, flOverflow ||| flInexact) := by decide +kernel
/-- Of R227's example: products 2^24, 1, −2^24 and 2^−40 sum to 1, and the cut is inexact. -/
theorem test_group : kGroupSum [.fin false 4096 0, .fin false 1 0, .fin true 4096 0, .fin false 1 (-20)] [.fin false 4096 0, .fin false 1 0, .fin false 4096 0, .fin false 1 (-20)]
    = (decodeF fmtFP32 0x3F800000, flInexact) := by decide +kernel
/-- Of R144's example: `VMAP` over DIM0 127 and DIM1 3 makes 8 row steps, so the step from (64, 3) is the last. -/
theorem test_rows : rowCarry 3 4 4 0 = (0, 1) := by decide
theorem test_reset : State.reset.tick = 0 ∧ (State.reset.core 5).S 31 = 0 ∧ State.reset.partOfCore 9 = none := by decide

theorem test_reset_mem : State.reset.mem.wf = true := by decide

end Sys2Proof.Tests
end

/-! SUPPORT. `HQRY` (R122): the halves of a handle, and the settlement of O58. -/

namespace Sys2Proof.Claim

open Machine

/-- The half of a handle that `HQRY` picks: bits [63:0] with LO, bits [127:64] without. -/
def handleHalf (v : BitVec 128) (lo : BitVec 1) : W64 := BitVec.ofNat 64 (bits v (if lo = 1 then 0 else 64) 64)

theorem handleHalf_high (v : BitVec 128) : handleHalf v 0 = BitVec.ofNat 64 (v.toNat / 2 ^ 64) := by
  show BitVec.ofNat 64 (v.toNat / 2 ^ 64 % 2 ^ 64) = _
  rw [← BitVec.toNat_inj]
  simp

theorem handleHalf_low (v : BitVec 128) : handleHalf v 1 = BitVec.ofNat 64 (v.toNat % 2 ^ 64) := by
  show BitVec.ofNat 64 (v.toNat / 2 ^ 0 % 2 ^ 64) = _
  rw [Nat.pow_zero, Nat.div_one]

/-- STATE of a handle, its bits [127:126], stands in bits [63:62] of the high half. -/
theorem bits_high_state (v : BitVec 128) : bits (BitVec.ofNat 64 (v.toNat / 2 ^ 64)) 62 2 = bits v 126 2 := by
  simp only [bits, fldN, BitVec.toNat_ofNat]
  omega

/-- `HQRY` is a word of C that computes one S register at latency 2, from the handle's bits alone. -/
theorem ReadyC.hqry {s : State} (hs : ReadyC s) (d h : BitVec 5) (lo : BitVec 1) :
    ∃ c t, exec (.hqry d h lo) s = .next t ∧ WritesS (here s) c d.toNat (handleHalf ((here s).H h.toNat) lo) (now s) 2 ∧
      Issued (with_ s c) t 1 2 none [] :=
  hs.write d.toNat 2 (fun c => handleHalf (c.H h.toNat) lo)

/-- Settles O58: a word of C writes the half that LO picks, and STATE lies in the high one. -/
theorem handleQueries : Obligations.HandleQueries := by
  unfold Obligations.HandleQueries
  intro d h s hs
  have high := hs.hqry d h 0
  have low := hs.hqry d h 1
  rw [handleHalf_high] at high
  rw [handleHalf_low] at low
  exact ⟨high, low, fun pending => (bits_high_state _).trans pending⟩

end Sys2Proof.Claim

/-! SUPPORT. The words of M that act on the shadow table alone (R168, R171, R173 to R175), and the settlement of O59. -/

namespace Sys2Proof.Machine

/-- A pop writes no field of the core but its dowels (R60). -/
theorem Core.pop_rest (c : Core) (e : Engine) (w : Option (Engine × Nat)) : c.pop e w = { c with dowel := (c.pop e w).dowel } := by
  cases w <;> rfl

/-- A push writes no field of the core but its dowels (R60). -/
theorem Core.push_rest (c : Core) (p : Engine) (sg : BitVec 4) : c.push p sg = { c with dowel := (c.push p sg).dowel } := by
  unfold Core.push
  induction signalled sg generalizing c with
  | nil => rfl
  | cons e es ih => exact ih (c.setDowel p e (c.dowelN p e + 1))

/-- One token for each engine of a list without repetitions. -/
theorem Core.dowelN_foldl_setDowel (p : Engine) (es : List Engine) (hes : es.Nodup) (c : Core) (p' q : Engine) :
    (es.foldl (fun c e => c.setDowel p e (c.dowelN p e + 1)) c).dowelN p' q = c.dowelN p' q + if p' = p ∧ q ∈ es then 1 else 0 := by
  induction es generalizing c with
  | nil => simp
  | cons e es ih =>
    obtain ⟨fresh, hes⟩ := List.nodup_cons.mp hes
    rw [List.foldl_cons, ih hes, Core.dowelN_setDowel]
    by_cases hp : p' = p
    · by_cases hq : q = e
      · subst hp hq
        simp [fresh]
      · simp [hp, hq]
    · simp [hp]

theorem mem_signalled (sg : BitVec 4) (q : Engine) : q ∈ signalled sg ↔ sg.toNat.testBit q.num = true := by
  cases q <;> simp [signalled]

/-- R60: a push adds one token from `p` for each engine that SIGNAL names. -/
theorem Core.dowelN_push (c : Core) (p p' q : Engine) (sg : BitVec 4) :
    (c.push p sg).dowelN p' q = c.dowelN p' q + if p' = p ∧ sg.toNat.testBit q.num = true then 1 else 0 := by
  have once : (signalled sg).Nodup := List.Pairwise.filter _ (by decide)
  simpa only [Core.push, mem_signalled] using Core.dowelN_foldl_setDowel p (signalled sg) once c p' q

/-- The core once M has passed the word under the cursor: the tokens of WAIT popped, those of `sg` pushed, and M at the next word. -/
def Core.passM (c : Core) (s : State) (sg : BitVec 4) : Core :=
  ((c.pop .m s.cur.frame.wait).push .m sg).modStream .m (fun st =>
    { st.next s.cur true none with nextAc := s.acOf s.cur.core + 1, wait := .idle, heldFrom := none, broken := none })

/-- A word of M whose body retires at issue (R168, R171). -/
theorem mOp_now (s : State) (pops : Nat) (body : Core → List W64 → MBody) (k : Core)
    (tokens : (s.core s.cur.core).hasTokens .m s.cur.frame.wait = true)
    (queue : pops ≤ (((s.core s.cur.core).cqm.take pops).filter (fun q => q.1 ≤ s.acOf s.cur.core)).length)
    (room : (signalled s.cur.frame.signal).all (fun q => (s.core s.cur.core).dowelN .m q + (s.core s.cur.core).pending .m q + 1 ≤ 16) = true)
    (h : body (s.core s.cur.core) (((s.core s.cur.core).cqm.take pops).map (·.2)) = .now k) :
    mOp s pops body = .next (s.setCore s.cur.core (Core.passM { k with cqm := k.cqm.drop pops } s s.cur.frame.signal)) := by
  have entries : (decide (pops > 0) && decide ((((s.core s.cur.core).cqm.take pops).filter (fun q => q.1 ≤ s.acOf s.cur.core)).length < pops)) = false := by
    rw [decide_eq_false (Nat.not_lt.mpr queue), Bool.and_false]
  simp only [mOp, tokens, entries, room, h, Bool.not_true, Bool.false_eq_true, if_false]
  rfl

end Sys2Proof.Machine

namespace Sys2Proof.Claim

open Machine

/-- R60: tokens popped, then tokens pushed; the stream of M goes on, and the rest of the core is as it was. -/
theorem passM_passed (s : State) (k : Core) (sg : BitVec 4) : Passed s k sg (k.passM s sg) := by
  constructor
  · unfold Core.passM
    rw [Core.push_rest, Core.pop_rest]
    rfl
  · intro p q
    show ((k.pop .m s.cur.frame.wait).push .m sg).dowelN p q = _
    rw [Core.dowelN_push, dowel_pop]

/-- R60: the dowels hold what a WAIT clause asks of each producer. -/
theorem hasTokens_of_asked {c : Core} {e : Engine} {f : Frame} (h : ∀ p, asked f p ≤ c.dowelN p e) : c.hasTokens e f.wait = true := by
  unfold Core.hasTokens
  unfold asked at h
  cases hw : f.wait with
  | none => rfl
  | some w => simpa [hw] using h w.1

theorem ReadyM.hasTokens {s : State} {pops : Nat} (h : ReadyM s pops) : (s.core s.cur.core).hasTokens .m s.cur.frame.wait = true :=
  hasTokens_of_asked h.tokens

theorem ReadyM.hasRoom {s : State} {pops : Nat} (h : ReadyM s pops) :
    (signalled s.cur.frame.signal).all (fun q => (s.core s.cur.core).dowelN .m q + (s.core s.cur.core).pending .m q + 1 ≤ 16) = true := by
  simp only [List.all_eq_true, decide_eq_true_eq, mem_signalled]
  exact h.room

theorem ReadyM.hasEntries {s : State} {pops : Nat} (h : ReadyM s pops) :
    pops ≤ (((s.core s.cur.core).cqm.take pops).filter (fun q => q.1 ≤ s.acOf s.cur.core)).length := by
  obtain ⟨enough, old⟩ := h.queue
  have all : ((here s).cqm.take pops).filter (fun q => q.1 ≤ now s) = (here s).cqm.take pops :=
    List.filter_eq_self.mpr (fun q hq => decide_eq_true (old q hq))
  show pops ≤ (((here s).cqm.take pops).filter (fun q => q.1 ≤ now s)).length
  rw [all]
  exact Nat.le_of_eq (List.length_take_of_le enough).symm

/-- A word of M that nothing holds, and whose body writes the shadow table alone. -/
theorem ReadyM.shadows {s : State} {pops : Nat} (h : ReadyM s pops) {i : Instr} {body : Core → List W64 → MBody} {f : Nest → Nest}
    (hi : exec i s = mOp s pops body) (hb : body (here s) (((here s).cqm.take pops).map (·.2)) = .now ((here s).modShadow f)) :
    Shadows i s pops f :=
  ⟨_, hi.trans (mOp_now s pops body _ h.hasTokens h.hasEntries h.hasRoom hb), passM_passed ..⟩

/-- Settles O59: both words write the shadow table alone, with no operation placed, so they retire at issue. -/
theorem nestDestination : Obligations.NestDestination := by
  unfold Obligations.NestDestination
  intro x first i32 s hs
  have base := hs.shadows (exec_mdest x s) rfl
  have format := hs.shadows (exec_mfmt first i32 s) rfl
  exact ⟨base, format⟩

end Sys2Proof.Claim
